-- ==== Sys2Proof/Word.lean ====
section
/-! DEFINITION. The word types of Xasutar and the sparse map: a list of keys and values in one canonical form, which holds
every register file, register map and memory of the machine. -/
namespace Sys2Proof

/-- A scalar register or system register: 64 bits (R227, R239). -/
abbrev Word := BitVec 64
/-- A vector element: 32 bits (R202). -/
abbrev Elem := BitVec 32
/-- A byte of memory. -/
abbrev Byte := BitVec 8

/-- A finite map from numbers: keys strictly rising, and no entry that holds the default value. -/
abbrev Sparse (α : Type) := List (Nat × α)

namespace Sparse

/-- The value at key k, or the default d where no entry is listed. -/
def get {α : Type} (d : α) : Sparse α → Nat → α
  | [], _ => d
  | (j, v) :: m, k => if k = j then v else get d m k

/-- The map without key k. -/
def del {α : Type} (m : Sparse α) (k : Nat) : Sparse α := m.filter fun e => e.1 != k

/-- The map with an entry for key k put before the first greater key. -/
def ins {α : Type} : Sparse α → Nat → α → Sparse α
  | [], k, v => [(k, v)]
  | (j, w) :: m, k, v => if k < j then (k, v) :: (j, w) :: m else (j, w) :: ins m k v

/-- Put v at key k, an entry equal to the default being removed. -/
def set {α : Type} [DecidableEq α] (d : α) (m : Sparse α) (k : Nat) (v : α) : Sparse α :=
  if v = d then del m k else ins (del m k) k v

/-- The canonical form: keys strictly rising and no entry equal to the default. -/
def wf {α : Type} [DecidableEq α] (d : α) : Sparse α → Bool
  | [] => true
  | (k, v) :: m => decide (v ≠ d) && m.all (fun e => decide (k < e.1)) && wf d m

/-- The entries of a list with keys from a to below b, in canonical form: one that does not rise, or holds the default, is left out. -/
def within {α : Type} [DecidableEq α] (d : α) : Nat → Nat → Sparse α → Sparse α
  | _, _, [] => []
  | a, b, (k, v) :: m => if a ≤ k ∧ k < b ∧ v ≠ d then (k, v) :: within d (k + 1) b m else within d a b m

/-- The map with its keys from a to below b replaced by those of another. -/
def splice {α : Type} [DecidableEq α] (d : α) (m : Sparse α) (a b : Nat) (x : Sparse α) : Sparse α :=
  (m.filter fun e => decide (e.1 < a)) ++ within d a b x ++ m.filter fun e => decide (b ≤ e.1)

/-- Build the map of the keys below n that f gives. -/
def ofFn {α : Type} [DecidableEq α] (d : α) (n : Nat) (f : Nat → α) : Sparse α :=
  (List.range n).filterMap fun k => if f k = d then none else some (k, f k)

end Sparse

/-- The n bytes of a map from address a, lowest address first. -/
def Sparse.bytes (m : Sparse Byte) (a n : Nat) : List Byte :=
  (List.range n).map fun i => Sparse.get 0 m (a + i)

/-- Write bytes from address a upward. -/
def Sparse.setBytes (m : Sparse Byte) : Nat → List Byte → Sparse Byte
  | _, [] => m
  | a, b :: bs => Sparse.setBytes (Sparse.set 0 m a b) (a + 1) bs

end Sys2Proof
end

