-- ==== Sys2Proof/Config.lean ====
section
/-! DEFINITION. What one part fixes and the values the manual leaves open. A free value is a constant with no body, applied
to a counter of the state or to the operands it depends on: nothing can be proved of it but what holds of every value. -/
namespace Sys2Proof.Config

/-- The time, in wall cycles, that a memory access, a walk, a fill, an engine or a queued command takes beyond the times
the manual gives (R99, R101, R109, R130, R157, R245: no figure bounds it). Log entry 10. -/
opaque freeDelay : Nat → Nat

/-- A choice between two outcomes the manual permits. Log entry 11. -/
opaque freeBit : Nat → Bool

/-- A choice among the first n outcomes the manual permits, as freePick k mod n. Log entry 11. -/
opaque freePick : Nat → Nat

/-- A byte that a host or a far node answers: their memory is outside the part. Log entry 12. -/
opaque outsideByte : Nat → Byte

/-- The member of the allowed set of R215 that unit sf delivers: the function's number, the operand and a bound n on the
number of members; the member is the value mod n. Log entry 13. -/
opaque sfPick : Nat → Elem → Nat

/-- The sine and cosine of an argument beyond 65,536 in magnitude, which R215 bounds only by -1 and 1: the value delivered
is this pattern if it lies there. Log entry 13. -/
opaque sfFar : Nat → Elem → Elem

/-- The segment that smap of a zero word leaves in SEG: a word without a set bit has no lowest one (R262). Log entry 15. -/
opaque segOfZero : BitVec 6

/-- VENDOR and REV of RANGER.ID, fused per part (R420). Log entry 14. -/
opaque rangerVendor : BitVec 16
opaque rangerRev : BitVec 8

/-- The identity key's certificate chain, the digests of R421 and the signature made with the identity key: fused or
computed by the Ranger from what is outside the part. Log entry 14. -/
opaque certChain : List Byte
opaque measurement : Nat → List Byte
opaque sign : List Byte → List Byte

/-- The host of a link has enabled ATS for a function (R106): the host's own setting. Log entry 12. -/
opaque atsEnabled : Nat → Nat → Bool

/-- The input power in W that the power controller expects at a throttle level: the number of the measurement, the power measured, the
floors in force and the level (R435: it takes the smallest level that keeps the power within the limit). Log entry 123. -/
opaque powerAt : Nat → Nat → List (Nat × Nat) → Nat → Nat

/-- The doublewords of a function's configuration space in the reset state that PCIe defines: link, function and number (R407). Log
entry 122. -/
opaque cfgReset : Nat → Nat → Nat → BitVec 32

/-- What the Ranger measures of a part at a time: die temperatures and the input voltage. Log entry 14. -/
opaque telemetry : Nat → Word

end Sys2Proof.Config
end

