-- ==== Sys2Proof/Syntax.lean ====
section
/-! DEFINITION. The steps of the Tralum JX9: one constructor per row of spec/opcode_table.json. The slot instructions carry
their operands decoded. Which core runs a slot instruction, and which agent and numbered item (operation, channel, partition,
launch, pin) an event concerns, is the cursor State.cur; what else the outside or a free choice supplies, the event carries. -/
namespace Sys2Proof

/-- The address spaces of R34; the codes are 0 to 4 in this order. -/
inductive Space | glb | spm | grv | clr | lane
deriving DecidableEq, Repr

/-- The vector-side units of R204. -/
inductive VUnit | va0 | va1 | vp | sf | cv | wc | ap
deriving DecidableEq, Repr

/-- The two arithmetic units of R209. -/
inductive VaUnit | va0 | va1
deriving DecidableEq, Repr

/-- The element formats a trigger names (R59, R202). -/
inductive Fmt | b32 | f32 | i32 | bf16
deriving DecidableEq, Repr

/-- The operand latches, in the order of their destination codes 0x140 to 0x150 (R59). -/
inductive Latch
  | va0a | va0b | va0c | va0m | va1a | va1b | va1c | va1m | vpa | vpb | sfa | cva | cvb | wca | wcb | apa | apb
deriving DecidableEq, Repr

/-- The sources of a move (R58). -/
inductive Src
  | v (n : BitVec 8) | x (n : BitVec 6) | y (u : VUnit) | pop (n : BitVec 2) | peek (n : BitVec 2) | k (n : BitVec 4)
  | cst (n : BitVec 7)
deriving DecidableEq, Repr

/-- The destinations of a move that are not trigger ports (R59). -/
inductive Dst
  | v (n : BitVec 8) | x (n : BitVec 6) | latch (l : Latch) | k (n : BitVec 4)
deriving DecidableEq, Repr

/-- The eleven formats of the conversion unit, in the order of their trigger codes (R59, R217). -/
inductive CvFmt | bf16 | f16 | e4m3 | e5m2 | e2m1 | i8 | i16 | i32 | n8 | n16 | n32
deriving DecidableEq, Repr

/-- The rounding modes of R62 and R192. -/
inductive Rnd | rne | rna | rtz | rup | rdn | rs | rto
deriving DecidableEq, Repr

/-- The overflow policies of R62 and R195. -/
inductive OvPol | sat | inf | nan | stop
deriving DecidableEq, Repr

/-- The array formats of R52, in the order of their codes 0x0 to 0xC. -/
inductive ArrFmt
  | e4m3 | e5m2 | e2m1 | bf16 | f16 | bs8e4b32 | bs8e5b32 | bs4b32 | bs8e4b16 | bs8e5b16 | bs4b16 | npi | i8
deriving DecidableEq, Repr

/-- The scopes of a fence (R286). -/
inductive Scope | core | grove | die | device | system | fabric
deriving DecidableEq, Repr

/-- Format M of R54. -/
structure MArgs where
  sp : Space
  cls : BitVec 4
  land : BitVec 12
  a : BitVec 6
  tg : BitVec 8
  off : BitVec 20
  grp : BitVec 3
deriving DecidableEq, Repr

/-- Format MS of R54. -/
structure MSArgs where
  sp : Space
  cls : BitVec 4
  land : BitVec 12
  a : BitVec 6
  tg : BitVec 8
  seg : BitVec 8
  off : BitVec 12
  grp : BitVec 3
deriving DecidableEq, Repr

/-- Format G of R54. -/
structure GArgs where
  sp : Space
  cls : BitVec 4
  land : BitVec 12
  a : BitVec 6
  vd : BitVec 8
  vi : BitVec 8
  grp : BitVec 3
deriving DecidableEq, Repr

/-- Format A of R54. -/
structure AArgs where
  sp : Space
  cls : BitVec 4
  land : BitVec 12
  a : BitVec 6
  d : BitVec 6
  v : BitVec 6
  b : BitVec 6
deriving DecidableEq, Repr

/-- Format C of R54. -/
structure CArgs where
  ch : BitVec 4
  tko : BitVec 6
  tk0 : BitVec 6
  tk1 : BitVec 6
  tk2 : BitVec 6
  nin : BitVec 2
  d : BitVec 6
  s : BitVec 6
  n : BitVec 6
  dsp : Space
  ssp : Space
deriving DecidableEq, Repr

/-- The privilege levels of R12, least to most privileged. -/
inductive Level | user | partition | root
deriving DecidableEq, Repr

/-- What an array or a link did to the datum an event delivers (R82, R83): nothing, a single-bit error corrected in the
array, or an uncorrectable datum. The outside supplies it: no rule says when an error strikes. -/
inductive Upset | none | corrected | uncorrectable
deriving DecidableEq, Repr

/-- The units that have a replay counter, in the order of R378. -/
inductive ReplayUnit | seq | sa | sb | va0 | va1 | vp | sf | cv | wc | ap | mx | sc
deriving DecidableEq, Repr

/-- The power domains of R433 and R436. -/
inductive PwrDomain | ranger | io | die0 | die1 | mem
deriving DecidableEq, Repr

/-- The links whose flits are checked (R7, R409). -/
inductive FlitLink | pcie (j : Nat) | rootlink (k : Nat)
deriving DecidableEq, Repr

/-- A request of a host to a function: link, function number, BAR, offset and transaction tag (R406, R407), and
what struck the first datum of main memory that it reaches (R82, R83). -/
structure HostReq where
  link : Nat
  fn : Nat
  bar : Nat
  off : Nat
  tag : BitVec 14
  u : Upset := .none
deriving DecidableEq, Repr

/-- What a far node asks of this node's aperture (R410, R311). -/
inductive FabricOp
  | read (n : Nat) | write (bs : List (BitVec 8)) | radd (v : BitVec 64) | rrd | rwait (t : BitVec 64)
  | aadd (wide : Bool) (v : BitVec 64) | axchg (wide : Bool) (v : BitVec 64) | acas (wide : Bool) (e v : BitVec 64)
  | ainc (wide : Bool) (b : BitVec 64) | afaddb (wide : Bool) (v b : BitVec 64) | amax (wide : Bool) (v : BitVec 64)
  | amin (wide : Bool) (v : BitVec 64) | aaddf (v : BitVec 64)
deriving DecidableEq, Repr

/-- A far node's request: the port it came by, its tag, the offset in the aperture and the operation. -/
structure FabricReq where
  port : Nat
  tag : Nat
  off : Nat
  op : FabricOp
deriving DecidableEq, Repr

/-- What a collective learns of its two neighbours when it is matched (R412): whether each can be reached, and whether
KIND, DTYPE, COUNT, NRANK and RING agree. -/
structure Neighbours where
  reachable : Bool
  agree : Bool
deriving DecidableEq, Repr

/-- A request message to the Ranger (R419): the endpoint it came from, its vendor identifier, header and payload. CODE is that of the row
that receives it, unless other names one that no row has; short says that the message ends before its header does. -/
structure RangerReq where
  ep : Nat
  vendor : BitVec 16
  ver : BitVec 8
  tag : BitVec 16
  scope : BitVec 8
  target : BitVec 8
  len : BitVec 16
  payload : List (BitVec 8)
  other : Option (BitVec 8) := none
  short : Bool := false
deriving DecidableEq, Repr

/-- The steps of the part. -/
inductive Instr
  /-- R165: Data of an elastic load arrives; it lands at t + L, or it ends the core's freeze if it is late. -/
  | elasticDataArrives (g : Option Nat) (u : Upset)
  /-- R165: An elastic store or access performs at its home, releasing any freeze or fence that waits for it. -/
  | storePerforms (u : Upset)
  /-- R302: An atomic or ring operation reads and writes its granule at one instant at its executing home. -/
  | atomicPerforms (u : Upset)
  /-- R177: Data of an elastic qld arrives and fills its reserved queue entry. -/
  | qldFill (u : Upset)
  /-- R245: An instruction-cache line fills, ending a fetch freeze. -/
  | lineFill (line : Nat) (u : Upset)
  /-- R136: A copy command completes: bytes performed, status word, ring add, token DONE. -/
  | copyCommandComplete (n : Nat) (u : Upset)
  /-- R143: A bulk engine finishes a chunk of up to 65,536 bytes of a command. -/
  | bulkChunkDone (u : Upset)
  /-- R318: A reduction completes: DST performed, status word stored, flag written. -/
  | reductionComplete (u : Upset)
  /-- R412: A rank's collective is matched with its neighbours' commands of the same COLLID and checked. -/
  | collectiveMatch (nb : Neighbours)
  /-- R413: A rank of a collective completes: DST performed, status word, flag. -/
  | collectiveComplete (xs : List (List (BitVec 32)))
  /-- R375: A shadowed stage disagrees with its shadow; the core freezes two wall cycles and the stage recomputes. -/
  | lateTransition (units : List ReplayUnit)
  /-- R435: The THROT_N input goes low or high, forcing the throttle level to at least 12 or releasing it. -/
  | throtN (low : Bool)
  /-- R432: The input is back in range for 100 ms and the module runs the reset sequence. -/
  | powerInputRestored (mv : Nat) (ok : Bool)
  /-- R436: RESET_N held low for at least 1 ms starts a device reset. -/
  | resetN (ok : Bool)
  /-- R417: A PTM measurement corrects the time base by slew or step. -/
  | ptmDialogue (j : Nat) (offset : Int)
  /-- R407: A host read through a BAR of an enabled function is served or aborted. -/
  | hostRead (h : HostReq) (len : Nat)
  /-- R407: A host write through a BAR is performed, or discarded when poisoned. -/
  | hostWrite (h : HostReq) (data : List (BitVec 8)) (poison : Bool)
  /-- R105: An ATS Invalidate Request removes entries and is completed after their accesses have performed. -/
  | atsInvalidate (j fn : Nat) (va len : Nat) (tag : Nat)
  /-- R106: A PRG Response is reported as a fault-queue entry with XLT_HOST. -/
  | prgResponse (j fn : Nat) (va : Nat) (ok : Bool)
  /-- R409: A Rootlink or PCIe flit arrives and is checked before any beat is delivered. -/
  | flitReceived (l : FlitLink) (crcOk : Bool)
  /-- R410: A far node's access to this node's aperture is performed at its home and acknowledged, or aborted. -/
  | fabricRequest (f : FabricReq) (u : Upset)
  /-- R420: The Ranger returns RANGER.ID and BOOT.STAT. -/
  | getId (r : RangerReq)
  /-- R420: The Ranger returns a log entry, margin, replay counters or telemetry selected by SEL. -/
  | read (r : RangerReq)
  /-- R420: The Ranger records which events a requester receives. -/
  | subscribe (r : RangerReq)
  /-- R418: The Ranger stops a core, partition or die urgently with cause RANGER, taken by root. -/
  | stop (r : RangerReq)
  /-- R418: The Ranger stops the target and saves it to the launch's save area. -/
  | save (r : RangerReq)
  /-- R418: The Ranger resets a core, partition, die or device. -/
  | reset (r : RangerReq)
  /-- R418: The Ranger sets or clears a core's CORE.QUARANTINE bit. -/
  | quarantine (r : RangerReq)
  /-- R421: The DOE mailbox answers a challenge signed with the identity key. -/
  | challenge (slot : Nat) (nonce : BitVec 256)
  /-- R437: An I3C private transfer writes a root-page register through a management agent. -/
  | agentRegisterWrite (die off : Nat) (v : BitVec 64)
  /-- R437: The carrier writes a power measurement for the power controller. -/
  | pwrMeasWrite (v : BitVec 64)
  /-- R111: Root writes a way unit's control, starting draining or scrubbing or being refused. -/
  | wuCtlWrite (n : Nat) (v : BitVec 64)
  /-- R395: Root writes a block's control, assigning it, starting a scrub or being refused. -/
  | blkCtlWrite (b : Nat) (v : BitVec 64)
  /-- R392: Root writes PART.CTL, performed or refused by the clean-state and uniqueness checks. -/
  | partCtlWrite (p : Nat) (v : BitVec 64)
  /-- R392: Root writes a partition's core mask, performed only in a clean state and without overlap. -/
  | partCoresWrite (p m : Nat) (v : BitVec 64)
  /-- R393: Root writes the pool core mask, performed or refused. -/
  | poolCoresWrite (m : Nat) (v : BitVec 64)
  /-- R381: Root sets or clears quarantine bits, which may move a stopped core's launch elsewhere. -/
  | coreQuarantineWrite (m : Nat) (v : BitVec 64)
  /-- R140: A CPY.FRES write with ACTION 0 resumes the matched paused command. -/
  | cpyFresResume (p : Nat) (v : BitVec 64)
  /-- R140: A CPY.FRES write with ACTION 1 abandons the matched paused command with ABANDONED. -/
  | cpyFresAbandon (p : Nat) (v : BitVec 64)
  /-- R363: The partition restores a full-stopped core from a save area, or the write is refused. -/
  | ctxRestoreWrite (p : Nat) (v : BitVec 64)
  /-- R331: A write of LQ.TAIL publishes descriptors to a launch queue. -/
  | lqTailWrite (p q : Nat) (v : BitVec 64)
  /-- R334: Writing a launch ID to LQ.CANCEL cancels that launch. -/
  | lqCancelWrite (p : Nat) (v : BitVec 64)
  /-- R398: A partition posts a message to root's PMQ.LOG. -/
  | pmqPostWrite (p : Nat) (v : BitVec 64)
  /-- R398: Root posts a message to a partition's PMQ.LOG. -/
  | pmqSendWrite (p : Nat) (v : BitVec 64)
  /-- R87: Writing MEM.HOT.CTL clears the partition's counters and starts a new epoch. -/
  | memHotCtlWrite (p : Nat) (v : BitVec 64)
  /-- R379: Writing REPLAY.CTL sets the replay bound and restarts the window. -/
  | replayCtlWrite (n : Nat) (v : BitVec 64)
  /-- R374: Root writes a core's margin offset; BUSY is set while the supply settles. -/
  | marginOfsWrite (n : Nat) (v : BitVec 64)
  /-- R416: Writing TIME.SET sets the device time base at once, in either direction. -/
  | timeSetWrite (v : BitVec 64)
  /-- R409: Root writes a Rootlink register; the write is refused outside a clean state. -/
  | rootlinkRegWrite (off : Nat) (v : BitVec 64)
  /-- R239: A write to a register with no row of its own changes its RW fields as its map lays down. -/
  | registerWrite (off : Nat) (lvl : Level) (v : BitVec 64)
  /-- R228: xd := xa + xb modulo 2^64. -/
  | add (d a b : BitVec 6)
  /-- R228: xd := xa - xb modulo 2^64. -/
  | sub (d a b : BitVec 6)
  /-- R228: Bitwise and. -/
  | and (d a b : BitVec 6)
  /-- R228: Bitwise or. -/
  | or (d a b : BitVec 6)
  /-- R228: Bitwise exclusive or. -/
  | xor (d a b : BitVec 6)
  /-- R228: xa and not xb. -/
  | andn (d a b : BitVec 6)
  /-- R228: Logical left shift by xb[5:0]. -/
  | sll (d a b : BitVec 6)
  /-- R228: Logical right shift by xb[5:0]. -/
  | srl (d a b : BitVec 6)
  /-- R228: Arithmetic right shift by xb[5:0]. -/
  | sra (d a b : BitVec 6)
  /-- R228: 1 if xa < xb signed, else 0. -/
  | slt (d a b : BitVec 6)
  /-- R228: 1 if xa < xb unsigned, else 0. -/
  | sltu (d a b : BitVec 6)
  /-- R228: 1 if xa = xb, else 0. -/
  | seq (d a b : BitVec 6)
  /-- R228: Signed minimum. -/
  | min (d a b : BitVec 6)
  /-- R228: Signed maximum. -/
  | max (d a b : BitVec 6)
  /-- R228: Unsigned minimum. -/
  | minu (d a b : BitVec 6)
  /-- R228: Unsigned maximum. -/
  | maxu (d a b : BitVec 6)
  /-- R228: Low 64 bits of xa * xb. -/
  | mul (d a b : BitVec 6)
  /-- R228: High 64 bits of the signed product. -/
  | mulh (d a b : BitVec 6)
  /-- R228: High 64 bits of the unsigned product. -/
  | mulhu (d a b : BitVec 6)
  /-- R229: Signed division rounded toward zero, landing at t + 18. -/
  | div (d a b : BitVec 6)
  /-- R229: Unsigned division. -/
  | divu (d a b : BitVec 6)
  /-- R229: Signed remainder. -/
  | rem (d a b : BitVec 6)
  /-- R229: Unsigned remainder. -/
  | remu (d a b : BitVec 6)
  /-- R228: Count of leading zero bits of xa. -/
  | clz (d a : BitVec 6)
  /-- R228: Count of trailing zero bits of xa. -/
  | ctz (d a : BitVec 6)
  /-- R228: Count of one bits of xa. -/
  | popc (d a : BitVec 6)
  /-- R230: xd := xa + sign-extended imm. -/
  | addi (d a : BitVec 6) (imm : BitVec 12)
  /-- R230: xd := xa and zero-extended imm. -/
  | andi (d a : BitVec 6) (imm : BitVec 12)
  /-- R230: xd := xa or zero-extended imm. -/
  | ori (d a : BitVec 6) (imm : BitVec 12)
  /-- R230: xd := xa xor zero-extended imm. -/
  | xori (d a : BitVec 6) (imm : BitVec 12)
  /-- R230: Logical left shift by imm[5:0]. -/
  | slli (d a : BitVec 6) (sh : BitVec 6)
  /-- R230: Logical right shift by imm[5:0]. -/
  | srli (d a : BitVec 6) (sh : BitVec 6)
  /-- R230: Arithmetic right shift by imm[5:0]. -/
  | srai (d a : BitVec 6) (sh : BitVec 6)
  /-- R230: 1 if xa < sign-extended imm, signed. -/
  | slti (d a : BitVec 6) (imm : BitVec 12)
  /-- R230: 1 if xa < sign-extended imm, unsigned. -/
  | sltiu (d a : BitVec 6) (imm : BitVec 12)
  /-- R230: xd := sign-extended 18-bit imm. -/
  | li (d : BitVec 6) (imm : BitVec 18)
  /-- R230: xd := sign-extended imm times 2^18. -/
  | lui (d : BitVec 6) (imm : BitVec 18)
  /-- R230: xd := (xd << 18) or imm. -/
  | lsh (d : BitVec 6) (imm : BitVec 18)
  /-- R232: Branch with two delay bundles if xa = xb. -/
  | beq (a b : BitVec 6) (off : BitVec 12)
  /-- R232: Branch if xa differs from xb. -/
  | bne (a b : BitVec 6) (off : BitVec 12)
  /-- R232: Branch if xa < xb signed. -/
  | blt (a b : BitVec 6) (off : BitVec 12)
  /-- R232: Branch if xa >= xb signed. -/
  | bge (a b : BitVec 6) (off : BitVec 12)
  /-- R232: Branch if xa < xb unsigned. -/
  | bltu (a b : BitVec 6) (off : BitVec 12)
  /-- R232: Branch if xa >= xb unsigned. -/
  | bgeu (a b : BitVec 6) (off : BitVec 12)
  /-- R232: Jump to address + 4*off after two delay bundles. -/
  | j (off : BitVec 24)
  /-- R232: Jump and write the link to xd. -/
  | jl (d : BitVec 6) (off : BitVec 18)
  /-- R232: Jump to xa with bits [1:0] cleared. -/
  | jr (a : BitVec 6)
  /-- R232: Jump to xa and write the link to xd. -/
  | jlr (d a : BitVec 6)
  /-- R233: Arm loop counter lcn with the count in xa. -/
  | loop (n : BitVec 2) (a : BitVec 6) (off : BitVec 12)
  /-- R233: Arm loop counter lcn with an immediate count. -/
  | loopi (n : BitVec 2) (cnt : BitVec 10) (off : BitVec 12)
  /-- R236: Read loop counter lcn into xd. -/
  | lcrd (d : BitVec 6) (n : BitVec 2)
  /-- R237: Set a generator's BASE and clear OFS. -/
  | agbase (n : BitVec 2) (a : BitVec 6)
  /-- R237: Set a generator's STEP. -/
  | agstep (n : BitVec 2) (a : BitVec 6)
  /-- R237: Set a generator's WRAP. -/
  | agwrap (n : BitVec 2) (a : BitVec 6)
  /-- R237: Read a generator's address into xd. -/
  | agrd (d : BitVec 6) (n : BitVec 2)
  /-- R239: Read a system register into xd. -/
  | srrd (d : BitVec 6) (sys : BitVec 12)
  /-- R239: Write xa to a system register. -/
  | srwr (sys : BitVec 12) (a : BitVec 6)
  /-- R239: Set the bits of xa in a system register. -/
  | srset (sys : BitVec 12) (a : BitVec 6)
  /-- R239: Clear the bits of xa in a system register. -/
  | srclr (sys : BitVec 12) (a : BitVec 6)
  /-- R242: Issue the bundle, then stop urgently with cause TRAP. -/
  | trap (imm : BitVec 12)
  /-- R425: Issue the bundle, then stop with cause BREAKPOINT. -/
  | brk (imm : BitVec 12)
  /-- R343: Report a residual for the current guarded tile. -/
  | gsres (a : BitVec 6)
  /-- R255: Read A and B blocks through two generators and fill a stage slot at t + 4. -/
  | push (s ga gb : BitVec 2) (fa fb : ArrFmt) (p : BitVec 3) (sp : Bool)
  /-- R256: Accumulate a stage slot's products into P and the checksum lanes. -/
  | acc (s : BitVec 2) (fa fb : ArrFmt) (p : BitVec 3) (sp : Bool)
  /-- R256: Accumulate from one slot and push into another in one beat. -/
  | accp (s ga gb : BitVec 2) (fa fb : ArrFmt) (p : BitVec 3) (sp : Bool) (t : BitVec 2)
  /-- R257: Shift a slot's A block up by n rows, filling from the next slot. -/
  | shift (s : BitVec 2) (n : BitVec 3)
  /-- R259: Write eight rows of P into an accumulator tile, unless suppressed. -/
  | drain (tile : BitVec 5) (grp : BitVec 4) (add final : Bool)
  /-- R270: Write the syndrome's bitmaps and deltas into a vector register. -/
  | mloc (vd : BitVec 8)
  /-- R271: Subtract the row delta from one cell of P. -/
  | mfix (i j : BitVec 7)
  /-- R261: Load the A-operand scales of a stage slot. -/
  | scla (s ag : BitVec 2)
  /-- R261: Load the B-operand scales of a stage slot. -/
  | sclb (s ag : BitVec 2)
  /-- R262: Load the next segment-bitmap word. -/
  | smap (ag : BitVec 2)
  /-- R262: Load the 2:4 indices, width and tag of a stage slot. -/
  | sidx (s ag : BitVec 2) (kw : BitVec 2)
  /-- R205: Copy a source to a v, x or k register or an operand latch. -/
  | move (src : Src) (dst : Dst)
  /-- R209: va result := A, bits unchanged. -/
  | vaMov (src : Src) (u : VaUnit) (f : Fmt)
  /-- R209: A + B per element. -/
  | vaAdd (src : Src) (u : VaUnit) (f : Fmt)
  /-- R209: A - B per element. -/
  | vaSub (src : Src) (u : VaUnit) (f : Fmt)
  /-- R209: A * B per element. -/
  | vaMul (src : Src) (u : VaUnit) (f : Fmt)
  /-- R209: A*B + C with one rounding. -/
  | vaFma (src : Src) (u : VaUnit) (f : Fmt)
  /-- R209: A*B - C with one rounding. -/
  | vaFms (src : Src) (u : VaUnit) (f : Fmt)
  /-- R209: -(A*B) + C with one rounding. -/
  | vaFnma (src : Src) (u : VaUnit) (f : Fmt)
  /-- R209: Lesser of A and B. -/
  | vaMin (src : Src) (u : VaUnit) (f : Fmt)
  /-- R209: Greater of A and B. -/
  | vaMax (src : Src) (u : VaUnit) (f : Fmt)
  /-- R209: A with sign cleared. -/
  | vaAbs (src : Src) (u : VaUnit) (f : Fmt)
  /-- R209: A with sign flipped. -/
  | vaNeg (src : Src) (u : VaUnit) (f : Fmt)
  /-- R210: A and B, i32. -/
  | vaAnd (src : Src) (u : VaUnit) (f : Fmt)
  /-- R210: A or B, i32. -/
  | vaOr (src : Src) (u : VaUnit) (f : Fmt)
  /-- R210: A xor B, i32. -/
  | vaXor (src : Src) (u : VaUnit) (f : Fmt)
  /-- R210: A and not B, i32. -/
  | vaAndn (src : Src) (u : VaUnit) (f : Fmt)
  /-- R210: not A, i32. -/
  | vaNot (src : Src) (u : VaUnit) (f : Fmt)
  /-- R210: A << B, i32. -/
  | vaSll (src : Src) (u : VaUnit) (f : Fmt)
  /-- R210: A >> B logical, i32. -/
  | vaSrl (src : Src) (u : VaUnit) (f : Fmt)
  /-- R210: A >> B arithmetic, i32. -/
  | vaSra (src : Src) (u : VaUnit) (f : Fmt)
  /-- R210: High 32 bits of the signed product. -/
  | vaMulhi (src : Src) (u : VaUnit) (f : Fmt)
  /-- R211: A where M is nonzero, else B. -/
  | vaSel (src : Src) (u : VaUnit) (f : Fmt)
  /-- R211: All ones where A = B. -/
  | vaCeq (src : Src) (u : VaUnit) (f : Fmt)
  /-- R211: All ones where A differs from B. -/
  | vaCne (src : Src) (u : VaUnit) (f : Fmt)
  /-- R211: All ones where A < B. -/
  | vaClt (src : Src) (u : VaUnit) (f : Fmt)
  /-- R211: All ones where A <= B. -/
  | vaCle (src : Src) (u : VaUnit) (f : Fmt)
  /-- R211: All ones where A or B is a NaN. -/
  | vaCun (src : Src) (u : VaUnit) (f : Fmt)
  /-- R212: Truth-value and. -/
  | vaKand (src : Src) (u : VaUnit) (f : Fmt)
  /-- R212: Truth-value or. -/
  | vaKor (src : Src) (u : VaUnit) (f : Fmt)
  /-- R212: Truth-value xor. -/
  | vaKxor (src : Src) (u : VaUnit) (f : Fmt)
  /-- R212: Truth-value A and not B. -/
  | vaKandn (src : Src) (u : VaUnit) (f : Fmt)
  /-- R212: Truth-value not A. -/
  | vaKnot (src : Src) (u : VaUnit) (f : Fmt)
  /-- R212: Number of nonzero elements of A in every element. -/
  | vaKcnt (src : Src) (u : VaUnit) (f : Fmt)
  /-- R213: Rotate each row by a per-row amount. -/
  | vpRotr (src : Src) (f : Fmt)
  /-- R213: Broadcast a chosen element across each row. -/
  | vpBcr (src : Src) (f : Fmt)
  /-- R214: Pairwise-tree sum of each row. -/
  | vpSumr (src : Src) (f : Fmt)
  /-- R214: Maximum of each row. -/
  | vpMaxr (src : Src) (f : Fmt)
  /-- R214: Minimum of each row. -/
  | vpMinr (src : Src) (f : Fmt)
  /-- R213: Rotate each column by a per-column amount. -/
  | vpRotc (src : Src) (f : Fmt)
  /-- R213: Broadcast a chosen element down each column. -/
  | vpBcc (src : Src) (f : Fmt)
  /-- R214: Pairwise-tree sum of each column. -/
  | vpSumc (src : Src) (f : Fmt)
  /-- R214: Maximum of each column. -/
  | vpMaxc (src : Src) (f : Fmt)
  /-- R214: Minimum of each column. -/
  | vpMinc (src : Src) (f : Fmt)
  /-- R213: Transpose each 16 x 16 block. -/
  | vpTrn16 (src : Src) (f : Fmt)
  /-- R213: Per-element shuffle within each row. -/
  | vpShuf (src : Src) (f : Fmt)
  /-- R215: 2^x per element. -/
  | sfExp2 (src : Src) (f : Fmt)
  /-- R215: log2 x per element. -/
  | sfLog2 (src : Src) (f : Fmt)
  /-- R215: 1/x correctly rounded. -/
  | sfRcp (src : Src) (f : Fmt)
  /-- R215: 1/sqrt x. -/
  | sfRsqrt (src : Src) (f : Fmt)
  /-- R215: sqrt x correctly rounded. -/
  | sfSqrt (src : Src) (f : Fmt)
  /-- R215: tanh x. -/
  | sfTanh (src : Src) (f : Fmt)
  /-- R215: sin x. -/
  | sfSin (src : Src) (f : Fmt)
  /-- R215: cos x. -/
  | sfCos (src : Src) (f : Fmt)
  /-- R215: erf x. -/
  | sfErf (src : Src) (f : Fmt)
  /-- R218: Convert f32 elements down to a narrow format with a rounding mode and overflow policy. -/
  | cvDn (src : Src) (t : CvFmt) (r : Rnd) (o : OvPol)
  /-- R219: Convert narrow elements exactly up to f32. -/
  | cvUp (src : Src) (t : CvFmt)
  /-- R219: Convert i32 or n32 elements to f32 with a rounding mode. -/
  | cvUpRounding (src : Src) (t : CvFmt) (r : Rnd)
  /-- R221: Fold the unmasked elements into the signature. -/
  | wcSig (src : Src)
  /-- R221: Set the signature to A[0][0]. -/
  | wcSigclr (src : Src)
  /-- R221: Compare the signature with A[0][0] and record a mismatch. -/
  | wcCmp (src : Src)
  /-- R223: Read one chunk of an accumulator tile into ap.y. -/
  | apRd (src : Src)
  /-- R223: Write one chunk of an accumulator tile. -/
  | apWr (src : Src)
  /-- R223: Add A into one chunk of an accumulator tile. -/
  | apAcc (src : Src)
  /-- R170: Load a byte, zero-extended. -/
  | ldb (m : MArgs)
  /-- R170: Load 2 bytes, zero-extended. -/
  | ldh (m : MArgs)
  /-- R170: Load 4 bytes, zero-extended. -/
  | ldw (m : MArgs)
  /-- R170: Load 8 bytes. -/
  | ldd (m : MArgs)
  /-- R170: Load a byte, sign-extended. -/
  | ldbs (m : MArgs)
  /-- R170: Load 2 bytes, sign-extended. -/
  | ldhs (m : MArgs)
  /-- R170: Load 4 bytes, sign-extended. -/
  | ldws (m : MArgs)
  /-- R170: Store a byte. -/
  | stb (m : MArgs)
  /-- R170: Store 2 bytes. -/
  | sth (m : MArgs)
  /-- R170: Store 4 bytes. -/
  | stw (m : MArgs)
  /-- R170: Store 8 bytes. -/
  | std (m : MArgs)
  /-- R172: Load a whole vector register. -/
  | vld (m : MArgs)
  /-- R172: Store a whole vector register. -/
  | vst (m : MArgs)
  /-- R173: Load one 16-byte segment of a vector register. -/
  | vld16 (m : MSArgs)
  /-- R173: Load two segments of a vector register. -/
  | vld32 (m : MSArgs)
  /-- R173: Store one segment of a vector register. -/
  | vst16 (m : MSArgs)
  /-- R173: Store two segments of a vector register. -/
  | vst32 (m : MSArgs)
  /-- R177: Reserve a stream-queue entry and read 4096 bytes into it. -/
  | qld (m : MArgs)
  /-- R174: Gather 1024 words at indexed addresses. -/
  | vgath (m : GArgs)
  /-- R174: Scatter 1024 words to indexed addresses. -/
  | vscat (m : GArgs)
  /-- R175: Per-lane table lookup. -/
  | vlut (m : GArgs)
  /-- R175: Per-lane table store. -/
  | vlst (m : GArgs)
  /-- R181: Request a line into its home L2 slice. -/
  | pref (m : MArgs)
  /-- R247: Request a line into the instruction cache. -/
  | ipref (m : MArgs)
  /-- R312: Bounded 32-bit increment, wrapping to 0 at the bound. -/
  | aincW (m : AArgs)
  /-- R312: Bounded 64-bit increment. -/
  | aincD (m : AArgs)
  /-- R312: 32-bit fetch-and-add if within the bound, with a success flag. -/
  | afaddbW (m : AArgs)
  /-- R312: 64-bit bounded fetch-and-add with a success flag. -/
  | afaddbD (m : AArgs)
  /-- R312: 32-bit fetch-and-add. -/
  | aaddW (m : AArgs)
  /-- R312: 64-bit fetch-and-add. -/
  | aaddD (m : AArgs)
  /-- R312: f32 fetch-and-add with nearest-even rounding. -/
  | aaddfW (m : AArgs)
  /-- R312: 32-bit compare-and-swap. -/
  | acasW (m : AArgs)
  /-- R312: 64-bit compare-and-swap. -/
  | acasD (m : AArgs)
  /-- R312: 32-bit exchange. -/
  | axchgW (m : AArgs)
  /-- R312: 64-bit exchange. -/
  | axchgD (m : AArgs)
  /-- R312: 32-bit signed atomic maximum. -/
  | amaxW (m : AArgs)
  /-- R312: 64-bit signed atomic maximum. -/
  | amaxD (m : AArgs)
  /-- R312: 32-bit signed atomic minimum. -/
  | aminW (m : AArgs)
  /-- R312: 64-bit signed atomic minimum. -/
  | aminD (m : AArgs)
  /-- R308: Add to a ring counter, saturating. -/
  | radd (m : AArgs)
  /-- R308: Wait until a ring counter reaches a target. -/
  | rwait (m : AArgs)
  /-- R308: Read a ring counter. -/
  | rrd (m : AArgs)
  /-- R289: Hold later masked accesses until earlier masked accesses have performed at a scope. -/
  | fence (mask : BitVec 16) (scope : Scope)
  /-- R319: Open a commit group. -/
  | gopen (g : BitVec 2)
  /-- R322: Commit a group's held stores together, or discard a failed group. -/
  | gcommit (g : BitVec 2)
  /-- R319: Discard a group's held stores. -/
  | gabort (g : BitVec 2)
  /-- R128: Queue a linear copy command on a channel. -/
  | cpy (m : CArgs)
  /-- R128: Queue a two-dimensional copy command. -/
  | cpy2d (m : CArgs)
  /-- R128: Queue a gathering copy command driven by an index table. -/
  | cpyg (m : CArgs)
  /-- R138: Wait for the command bound to a token to complete. -/
  | cwait (land : BitVec 12) (tk : BitVec 8)
  /-- R138: Wait for a channel's write pointer to reach a value. -/
  | wpwait (land : BitVec 12) (a : BitVec 6) (ch : BitVec 8)
  /-- R314: Hand a parameter block to the memory-side reduction engine. -/
  | red (m : MArgs)
  /-- R411: Hand a parameter block to the die's collective engine. -/
  | coll (m : MArgs)
  /-- R340: Publish a descriptor into a launch queue of the partition. -/
  | lqput (m : MArgs)
  /-- R103: Invalidate the translations of one page across the partition. -/
  | tlbiva (m : MArgs)
  /-- R120: Write back a dirty L2 line, leaving it valid. -/
  | l2wb (m : MArgs)
  /-- R120: Invalidate an L2 line, discarding dirty data. -/
  | l2inv (m : MArgs)
  /-- R120: Write back and invalidate an L2 line. -/
  | l2wbinv (m : MArgs)
  /-- R141: Root orders the kill of a launch, killing its cores' commands and sending it to ENDING with KILLED. -/
  | launchKill (id : BitVec 64)
  /-- R231: The sequencer picks the next bundle, checks it, and issues all of its present slots in one schedule cycle, or stops before issue. -/
  | bundleIssue
  /-- R70: An operation issued in cycle t with latency N writes its result in cycle t + N. -/
  | operationLands
  /-- R309: A write to a ring counter satisfies a parked rwait, which is answered at once. -/
  | ringWaitSatisfied
  /-- R309: A wait that found the parked-wait table full is compared again after 64 wall cycles. -/
  | ringWaitRecheck
  /-- R97: A table walk returns a translation or a fault to the waiting access. -/
  | translationWalkDone
  /-- R101: An outstanding-request entry frees and a core frozen for lack of one goes on. -/
  | requestEntryFreed
  /-- R138: The condition of a cwait or wpwait comes to hold and the frozen core goes on. -/
  | copyWaitSatisfied
  /-- R122: A queued copy command starts once its channel predecessor has completed and its tokens are DONE. -/
  | copyCommandStart
  /-- R140: A copy command meets a translation fault, pauses at the byte and writes a fault-queue entry. -/
  | copyFaultPause
  /-- R148: An idle bulk engine takes the next eligible chunk by priority and charges its budget unit. -/
  | bulkChunkStart
  /-- R147: Bit 12 of the device time base falls and every budget unit's level is refilled up to CAP. -/
  | budgetRefill
  /-- R314: The reduction engine of the destination's stack accepts a red parameter block. -/
  | reductionAccept
  /-- R317: A reduction meets a translation fault and pauses before writing any byte. -/
  | reductionPause
  /-- R414: A rank's collective meets a translation fault and pauses. -/
  | collectivePause
  /-- R414: A rank receives an abandon, stops at its next sector and completes with ABANDONED. -/
  | collectiveAbandon
  /-- R118: A drain pass over a DRAINING way unit ends; with no valid line the unit moves on and the handover ring gains 1. -/
  | handoverPassEnd
  /-- R111: A SCRUBBING way unit finishes zero-filling and becomes OWNED or FREE. -/
  | wayScrubEnd
  /-- R397: A block scrub finishes; the block becomes OWNED or FREE. -/
  | blockScrubEnd
  /-- R87: A hot-page epoch ends and the partition's access and atomic counters are cleared. -/
  | hotEpochEnd
  /-- R379: A replay freeze ends with WCNT above LIMIT, and root takes a full stop. -/
  | timingEscalation
  /-- R379: A replay window of WINDOW microseconds ends and REPLAY.WCNT is cleared. -/
  | replayWindow
  /-- R374: The supply reaches the written margin offset and MARGIN.OFS.BUSY clears. -/
  | marginSettled
  /-- R383: A core's watchdog timer passes LIMIT with no waymark; root takes a full stop. -/
  | watchdog
  /-- R384: A partition's heartbeat period elapses with no kick; a HEARTBEAT entry goes to root's log and the Ranger. -/
  | heartbeat
  /-- R334: A core does not reach a waymark within WMBOUND cycles of a cancel and stops urgently with CANCEL. -/
  | cancelTimeout
  /-- R336: A core with a pending pre-emption or cancel reaches a waymark and stops before it issues. -/
  | waymarkStop
  /-- R361: The save engine finishes a save, committing V = 1 or holding with SAVE_AREA_SMALL or SAVE_FAULT. -/
  | contextSaveDone
  /-- R331: The scheduler reads a published descriptor whole, advances HEAD and checks it. -/
  | descriptorTake
  /-- R334: A WAITING launch's wait ring and NOTBEFORE conditions come to hold and it becomes READY. -/
  | launchReady
  /-- R335: The first READY launch in order gets a free placement and its cores are set up and started. -/
  | launchDispatch
  /-- R337: A running launch's time slice ends and may make it a pre-emption candidate. -/
  | sliceEnd
  /-- R339: An ENDING launch whose commands have all completed writes its completion record and adds to CRING. -/
  | launchDone
  /-- R430: The hash engine digests each page a completed launch dirtied and writes the entries. -/
  | pageHash
  /-- R343: Every core of a guarded tile has ended; the tile commits g0 or aborts it and makes an exact tile. -/
  | gsVerdict
  /-- R394: A pool turn ends and the pool passes to the next sliced partition with a READY launch. -/
  | poolTurnEnd
  /-- R429: The trace sample period expires and a SAMPLE record is written to the trace buffer. -/
  | traceSample
  /-- R435: The power controller measures input power and sets the device throttle level. -/
  | powerMeasurement
  /-- R437: No PWR.MEAS write arrives for 1 ms and the throttle level is held at 12 or above. -/
  | pwrMeasTimeout
  /-- R432: The input stays outside 40 V to 60 V for over 1 ms; dies and memories are held in reset and links go down. -/
  | powerInputOutOfRange
  /-- R436: A power-good signal falls while its domain is powered and is handled as an input out of range. -/
  | pwrgdFall
  /-- R436: PERSTj_N held low holds host link j in reset. -/
  | perst
  /-- R417: A PPS rising edge marks TIME.TOD and corrects the time base. -/
  | ppsEdge
  /-- R417: No time measurement arrives for 2 s; HOLDOVER is set and the time base runs free. -/
  | holdover
  /-- R406: An AtomicOp received from a host is completed with Unsupported Request. -/
  | hostAtomicopReceived
  /-- R400: A Function Level Reset kills the partition's work, scrubs its blocks, resets its page and posts RESET_DONE. -/
  | functionLevelReset
  /-- R410: A Rootlink port fails and every access in flight on it is aborted. -/
  | portFailure
  /-- R421: The DOE mailbox answers with SPDM version 1.3. -/
  | getVersion
  /-- R421: The DOE mailbox reports the CERT, CHAL and MEAS capabilities. -/
  | getCapabilities
  /-- R421: The DOE mailbox settles on SM2_P256 and SM3_256. -/
  | negotiateAlgorithms
  /-- R421: The DOE mailbox returns the slot 0 chain digest. -/
  | getDigests
  /-- R421: The DOE mailbox returns the slot 0 certificate chain ending in the identity key. -/
  | getCertificate
  /-- R421: The DOE mailbox returns SM3 digests of the boot ROM, firmware and fused key digest. -/
  | getMeasurements
  /-- R437: An I3C private transfer reads a root-page register through a management agent. -/
  | agentRegisterRead
  /-- R437: A MGMT.CMD write with OP 1 starts the Ranger STOP action. -/
  | mgmtStop
  /-- R437: A MGMT.CMD write with OP 2 starts the Ranger SAVE action. -/
  | mgmtSave
  /-- R437: A MGMT.CMD write with OP 3 starts the Ranger RESET action. -/
  | mgmtReset
  /-- R437: A MGMT.CMD write with OP 4 sets a quarantine bit. -/
  | mgmtQuarantineSet
  /-- R437: A MGMT.CMD write with OP 5 clears a quarantine bit. -/
  | mgmtQuarantineClear
  /-- R362: Writing SAVE.RETRY restarts every save held by SAVE_FAULT. -/
  | saveRetryWrite
  /-- R384: A write to HB.KICK restarts the partition's heartbeat. -/
  | hbKickWrite
  /-- R401: Reading CNTRD.LO returns VC[31:0] and writes VC[63:32] into the context's shadow. -/
  | cntrdLoRead
  /-- R243: No further bundle issues; the core's part of the launch ends when its operations finish. -/
  | done
  /-- R365: End an in-place handler: restore the context, reissue the records and continue at RPOINT. -/
  | resume
  /-- R344: End the core's part of a guarded tile. -/
  | gsend
  /-- R266: Compare row and column sums of P with the lanes and set MSTAT and the syndrome. -/
  | dchk
  /-- R258: Open a new pass: zero P, lanes and syndrome and take the snapshots. -/
  | clear
  /-- R272: Accept a failing pass: FAIL := 0, ACCEPT := 1. -/
  | mpass
  /-- R275: Start a matrix replay of a failing open pass. -/
  | mretry
  /-- R277: Save the array state to the save area and reset it for a handler. -/
  | mclaim
  /-- R277: Restore the array state saved by mclaim. -/
  | mrelease
  /-- R103: Invalidate every translation of the partition, or of the device at root level. -/
  | tlbiall
  /-- R409: A Rootlink port becomes trained and passing flits, setting its bit of RL.PSTAT.UP so that accesses can again be routed on it. -/
  | portTrained
  /-- R418: A requester authenticates to the Ranger with SPDM 1.3 and an SM2 key on the provisioned list, after which its acting commands are performed rather than DENIED. -/
  | rangerAuthentication
  /-- R420: The Ranger's own supply is lost, which clears every endpoint's authentication and subscriptions. -/
  | rangerSupplyLost
deriving DecidableEq, Repr

end Sys2Proof
end

