-- ==== Sys2Proof/Machine/Bits.lean ====
section
/-! DEFINITION. Bit fields of words and of encoded instructions, sign extension, byte order, and the code numbers of the
named operand kinds. -/
namespace Sys2Proof

/-- Bits [lo + n - 1 : lo] of a number, as n bits. -/
def fld (w lo n : Nat) : BitVec n := BitVec.ofNat n (w / 2 ^ lo)

/-- Bits [lo + n - 1 : lo] of a number, as a number. -/
def fldN (w lo n : Nat) : Nat := w / 2 ^ lo % 2 ^ n

/-- A single bit of a number. -/
def bitN (w i : Nat) : Bool := w / 2 ^ i % 2 == 1

/-- A Bool as a number, for packing. -/
def b2n (b : Bool) : Nat := if b then 1 else 0

/-- Field [lo + n - 1 : lo] of a register, as a number (R8). -/
def getF (w : Word) (lo n : Nat) : Nat := w.toNat / 2 ^ lo % 2 ^ n

/-- A register with field [lo + n - 1 : lo] replaced by v. -/
def setF (w : Word) (lo n v : Nat) : Word :=
  let m : Word := BitVec.ofNat 64 ((2 ^ n - 1) * 2 ^ lo)
  (w &&& ~~~m) ||| (BitVec.ofNat 64 (v % 2 ^ n * 2 ^ lo))

/-- The mask of bits [hi:lo]. -/
def maskHL (hi lo : Nat) : Word := BitVec.ofNat 64 ((2 ^ (hi + 1 - lo) - 1) * 2 ^ lo)

/-- A write that changes only the bits of a mask (R239). -/
def maskWrite (old new mask : Word) : Word := (old &&& ~~~mask) ||| (new &&& mask)

/-- The bytes of a number, least significant first (R170: little-endian). -/
def bytesLE (n : Nat) : Nat → List Byte
  | v => (List.range n).map fun i => BitVec.ofNat 8 (v / 2 ^ (8 * i))

/-- The number that bytes hold, least significant first. -/
def natLE : List Byte → Nat
  | [] => 0
  | b :: bs => b.toNat + 256 * natLE bs

/-- A 64-bit word as a signed integer. -/
def sInt (w : Word) : Int := w.toInt

/-- Sign-extend a field to 64 bits. -/
def sext {n : Nat} (b : BitVec n) : Word := b.signExtend 64

/-- Zero-extend a field to 64 bits. -/
def zext {n : Nat} (b : BitVec n) : Word := b.setWidth 64

/-- Two lists of indices into one number sequence: the values a, a + 1, ... of length n. -/
def upto (a n : Nat) : List Nat := (List.range n).map (a + ·)

/-- The greatest element of a list of numbers, 0 for none. -/
def maxOf (l : List Nat) : Nat := l.foldl max 0

def Space.code : Space → Nat
  | .glb => 0 | .spm => 1 | .grv => 2 | .clr => 3 | .lane => 4
/-- The space of a code; 5 to 7 are reserved (R34). -/
def Space.ofCode : Nat → Option Space
  | 0 => some .glb | 1 => some .spm | 2 => some .grv | 3 => some .clr | 4 => some .lane | _ => none
/-- spm and lane are deterministic, the others elastic (R34, R154). -/
def Space.det : Space → Bool
  | .spm => true | .lane => true | _ => false

def VUnit.code : VUnit → Nat
  | .va0 => 0 | .va1 => 1 | .vp => 2 | .sf => 3 | .cv => 4 | .wc => 5 | .ap => 6
def VUnit.ofCode : Nat → Option VUnit
  | 0 => some .va0 | 1 => some .va1 | 2 => some .vp | 3 => some .sf | 4 => some .cv | 5 => some .wc | 6 => some .ap
  | _ => none
def VaUnit.unit : VaUnit → VUnit
  | .va0 => .va0 | .va1 => .va1

def Latch.all : List Latch :=
  [.va0a, .va0b, .va0c, .va0m, .va1a, .va1b, .va1c, .va1m, .vpa, .vpb, .sfa, .cva, .cvb, .wca, .wcb, .apa, .apb]
/-- The destination code of a latch (R59). -/
def Latch.code : Latch → Nat
  | .va0a => 0x140 | .va0b => 0x141 | .va0c => 0x142 | .va0m => 0x143
  | .va1a => 0x144 | .va1b => 0x145 | .va1c => 0x146 | .va1m => 0x147
  | .vpa => 0x148 | .vpb => 0x149 | .sfa => 0x14A | .cva => 0x14B | .cvb => 0x14C
  | .wca => 0x14D | .wcb => 0x14E | .apa => 0x14F | .apb => 0x150
def Latch.ofCode (n : Nat) : Option Latch := Latch.all.find? fun l => l.code == n
/-- The latch .a of a unit, which a trigger writes (R60). -/
def VUnit.latchA : VUnit → Latch
  | .va0 => .va0a | .va1 => .va1a | .vp => .vpa | .sf => .sfa | .cv => .cva | .wc => .wca | .ap => .apa
/-- The latches of a unit in the order .a, .b, .c, .m (R204). -/
def VUnit.latches : VUnit → List Latch
  | .va0 => [.va0a, .va0b, .va0c, .va0m] | .va1 => [.va1a, .va1b, .va1c, .va1m] | .vp => [.vpa, .vpb]
  | .sf => [.sfa] | .cv => [.cva, .cvb] | .wc => [.wca, .wcb] | .ap => [.apa, .apb]

/-- The source code of a move source (R58). -/
def Src.code : Src → Nat
  | .v n => n.toNat | .x n => 0x100 + n.toNat | .y u => 0x140 + u.code | .pop n => 0x148 + n.toNat
  | .peek n => 0x14C + n.toNat | .k n => 0x150 + n.toNat | .cst n => 0x180 + n.toNat
/-- The move source of a code; 0x147 and 0x160 to 0x17F are reserved (R58). -/
def Src.ofCode (s : Nat) : Option Src :=
  if s < 0x100 then some (.v (BitVec.ofNat 8 s))
  else if s < 0x140 then some (.x (BitVec.ofNat 6 (s - 0x100)))
  else if s < 0x147 then (VUnit.ofCode (s - 0x140)).map .y
  else if s < 0x148 then none
  else if s < 0x14C then some (.pop (BitVec.ofNat 2 (s - 0x148)))
  else if s < 0x150 then some (.peek (BitVec.ofNat 2 (s - 0x14C)))
  else if s < 0x160 then some (.k (BitVec.ofNat 4 (s - 0x150)))
  else if s < 0x180 then none
  else if s < 0x200 then some (.cst (BitVec.ofNat 7 (s - 0x180)))
  else none

/-- The destination code of a plain move destination (R59). -/
def Dst.code : Dst → Nat
  | .v n => n.toNat | .x n => 0x100 + n.toNat | .latch l => l.code | .k n => 0x1F0 + n.toNat
def Dst.ofCode (d : Nat) : Option Dst :=
  if d < 0x100 then some (.v (BitVec.ofNat 8 d))
  else if d < 0x140 then some (.x (BitVec.ofNat 6 (d - 0x100)))
  else if d < 0x151 then (Latch.ofCode d).map .latch
  else if 0x1F0 ≤ d ∧ d < 0x200 then some (.k (BitVec.ofNat 4 (d - 0x1F0)))
  else none

def CvFmt.all : List CvFmt := [.bf16, .f16, .e4m3, .e5m2, .e2m1, .i8, .i16, .i32, .n8, .n16, .n32]
def CvFmt.code : CvFmt → Nat
  | .bf16 => 0 | .f16 => 1 | .e4m3 => 2 | .e5m2 => 3 | .e2m1 => 4 | .i8 => 5 | .i16 => 6 | .i32 => 7 | .n8 => 8
  | .n16 => 9 | .n32 => 10
def CvFmt.ofCode (n : Nat) : Option CvFmt := CvFmt.all[n]?

def Rnd.code : Rnd → Nat
  | .rne => 0 | .rna => 1 | .rtz => 2 | .rup => 3 | .rdn => 4 | .rs => 5 | .rto => 6
def Rnd.ofCode : Nat → Option Rnd
  | 0 => some .rne | 1 => some .rna | 2 => some .rtz | 3 => some .rup | 4 => some .rdn | 5 => some .rs | 6 => some .rto
  | _ => none
def OvPol.code : OvPol → Nat
  | .sat => 0 | .inf => 1 | .nan => 2 | .stop => 3
def OvPol.ofCode : Nat → OvPol
  | 0 => .sat | 1 => .inf | 2 => .nan | _ => .stop

def ArrFmt.all : List ArrFmt :=
  [.e4m3, .e5m2, .e2m1, .bf16, .f16, .bs8e4b32, .bs8e5b32, .bs4b32, .bs8e4b16, .bs8e5b16, .bs4b16, .npi, .i8]
def ArrFmt.code : ArrFmt → Nat
  | .e4m3 => 0 | .e5m2 => 1 | .e2m1 => 2 | .bf16 => 3 | .f16 => 4 | .bs8e4b32 => 5 | .bs8e5b32 => 6 | .bs4b32 => 7
  | .bs8e4b16 => 8 | .bs8e5b16 => 9 | .bs4b16 => 10 | .npi => 11 | .i8 => 12
def ArrFmt.ofCode (n : Nat) : Option ArrFmt := ArrFmt.all[n]?

def Scope.code : Scope → Nat
  | .core => 0 | .grove => 1 | .die => 2 | .device => 3 | .system => 4 | .fabric => 5
def Scope.ofCode : Nat → Option Scope
  | 0 => some .core | 1 => some .grove | 2 => some .die | 3 => some .device | 4 => some .system | 5 => some .fabric
  | _ => none

def Level.rank : Level → Nat
  | .user => 0 | .partition => 1 | .root => 2
/-- The level l reaches what needs level n (R12). -/
def Level.reaches (l n : Level) : Bool := decide (n.rank ≤ l.rank)

def ReplayUnit.idx : ReplayUnit → Nat
  | .seq => 0 | .sa => 1 | .sb => 2 | .va0 => 3 | .va1 => 4 | .vp => 5 | .sf => 6 | .cv => 7 | .wc => 8 | .ap => 9
  | .mx => 10 | .sc => 11

end Sys2Proof
end

