-- ==== Sys2Proof/Machine/SysMap.lean ====
section
/-! DEFINITION. The map of system-register indices: which are assigned, at which level each is read and written, and which
bits a write changes (R239, R240 and the chapters R240 names). -/
namespace Sys2Proof.Machine

open Sys2Proof

/-- The read level and the write level of an assigned index; a write level of none is read-only (R240, R280, R341, R358,
R387, R422). -/
def sysInfo (i : Nat) : Option (Level × Option Level) :=
  if i ≤ 0x004 then some (.user, none)
  else if i < 0x010 then none
  else if i ≤ 0x019 then some (.user, some .user)
  else if i = 0x01A then some (.user, none)
  else if i < 0x020 then none
  else if i < 0x030 then (if i % 4 = 3 then none else some (.user, some .user))
  else if i < 0x060 then some (.user, some .user)
  else if i < 0x082 then some (.user, none)
  else if i < 0x084 then some (.partition, some .partition)
  else if i = 0x084 then some (.user, some .root)
  else if i = 0x085 then some (.user, none)
  else if i = 0x086 then some (.partition, some .partition)
  else if i < 0x0C0 then none
  else if i = 0x0C0 then some (.user, some .user)
  else if i < 0x0C4 then some (.user, none)
  else if i = 0x0C4 then some (.user, some .partition)
  else if i < 0x0C7 then some (.user, none)
  else if i = 0x0C7 then some (.partition, some .partition)
  else if i = 0x0C8 then some (.user, none)
  else if i < 0x0D0 then some (.user, some .user)
  else if i < 0x100 then none
  else if i < 0x104 then some (.partition, none)
  else if i = 0x104 then some (.partition, some .partition)
  else if i < 0x108 then none
  else if i < 0x10B then some (.partition, some .partition)
  else if i < 0x140 then none
  else if i < 0x144 then some (.partition, none)
  else if i < 0x150 then some (.partition, some .partition)
  else if i < 0x160 then none
  else if i < 0x163 then some (.user, none)
  else if i < 0x168 then none
  else if i < 0x172 then some (.user, some .partition)
  else if i < 0x180 then none
  else if i = 0x180 then some (.partition, some .partition)
  else if i = 0x181 then some (.partition, none)
  else if i = 0x182 then some (.user, none)
  else if i < 0x188 then none
  else if i < 0x190 then some (.partition, some .partition)
  else if i = 0x190 then some (.user, some .user)
  else if i = 0x191 then some (.user, some .partition)
  else if i < 0x198 then none
  else if i < 0x19A then some (.partition, some .partition)
  else if i < 0x1A0 then none
  else if i < 0x1B0 then some (.user, some .partition)
  else none

/-- The bits a write of a system register changes: the fields its map marks RW (R239). -/
def sysMask (i : Nat) : Word :=
  if 0x010 ≤ i ∧ i ≤ 0x017 then 0x13F          -- R200: flags and V
  else if i = 0x018 then 0xFFFFFFFF             -- R222: SIG
  else if i = 0x019 then 0x101                  -- R222: MIS and V
  else if 0x020 ≤ i ∧ i < 0x030 then (if i % 4 = 0 then 0xFFFFFFFF else maskHL 54 2)   -- R241
  else if 0x030 ≤ i ∧ i < 0x040 then BitVec.allOnes 64
  else if 0x040 ≤ i ∧ i < 0x050 then 0x6 ||| maskHL 54 3 ||| maskHL 63 60              -- R123
  else if 0x050 ≤ i ∧ i < 0x060 then 0x7 ||| maskHL 54 3 ||| maskHL 59 58
  else if i = 0x082 then 0x1 ||| maskHL 47 4    -- R93
  else if i = 0x083 then 0xF                    -- R117
  else if i = 0x084 then 0xFFFFFFFF             -- R155
  else if i = 0x086 then 0x1 ||| maskHL 47 16   -- R87
  else if i = 0x0C0 then 0x1                    -- R269
  else if i = 0x0C4 then 0xFF                   -- R273
  else if i = 0x0C7 then 0x7F ||| maskHL 14 8 ||| maskHL 20 16 ||| maskHL 39 24 ||| maskHL 63 63   -- R279
  else if i = 0x0CF then maskHL 63 32           -- R265: CKTOL.NPI
  else if 0x0C9 ≤ i ∧ i < 0x0CF then 0x3F ||| maskHL 63 32
  else if i = 0x104 then 0xFFFFFF               -- R357
  else if i = 0x108 then 0x1                    -- R358
  else if i = 0x109 then maskHL 54 2
  else if i = 0x10A then maskHL 47 20
  else if 0x144 ≤ i ∧ i < 0x150 then 0xFFFFFFFF -- R378
  else if 0x168 ≤ i ∧ i < 0x170 then 0xFFFFFFFF -- R341
  else if i = 0x170 ∨ i = 0x171 then BitVec.allOnes 64
  else if i = 0x180 then 0x1                    -- R422
  else if 0x188 ≤ i ∧ i < 0x190 then 0x1 ||| maskHL 54 2
  else if i = 0x190 then 0xFF                   -- R427: [1:0] the loop, [7:2] the index
  else if i = 0x191 then BitVec.allOnes 64
  else if i = 0x198 then 0x1F ||| maskHL 31 8   -- R428
  else if i = 0x199 then maskHL 58 3
  else if 0x1A0 ≤ i ∧ i < 0x1A8 then 0xFFFFFFFF -- R402
  else if 0x1A8 ≤ i ∧ i < 0x1B0 then BitVec.allOnes 64
  else 0

/-- The registers shared by a partition's cores (R87, R341, R358). -/
def sysShared (i : Nat) : Bool :=
  i = 0x086 || (0x108 ≤ i && i ≤ 0x10A) || (0x168 ≤ i && i ≤ 0x171)

end Sys2Proof.Machine
end

