-- ==== Sys2Proof/WellFormed.lean ====
section
/-! DEFINITION. The limits that an encoding sets on the operands of a slot instruction (R48 to R62, R102, R119, R126, R137,
R164, R300): what a well-formed instruction meets, and the reason of R68 for each limit it breaks. -/
namespace Sys2Proof

open Sys2Proof.Machine

/-- Why an encoding is not an instruction, in the order of the reason codes of R68. -/
inductive BadForm | rsvOpcode | rsvField | slotForm
deriving DecidableEq, Repr

/-- The reason code of R68. -/
def BadForm.code : BadForm → Nat
  | .rsvOpcode => 2 | .rsvField => 3 | .slotForm => 4

/-- The lowest reason of a list (R69). -/
def BadForm.worst : List BadForm → Option BadForm
  | [] => none
  | b :: bs => match BadForm.worst bs with
    | none => some b
    | some c => if b.code ≤ c.code then some b else some c

namespace WellFormed

/-- One limit: where it is not met, the reason. -/
def need (ok : Bool) (b : BadForm) : List BadForm := if ok then [] else [b]

/-- Which operand kinds a form of format M, MS or G carries (R55, R164). -/
structure MemForm where
  spaces : List Space
  tgMax : Nat
  store : Bool := false
  noClass : Bool := false
  noLand : Bool := false

/-- land is zero on a deterministic space, pref and ipref (R54, R164); grp is zero or 4 to 7, and only on a store, and only
on glb; the space is one the form permits. -/
def memCommon (f : MemForm) (sp : Space) (cls : BitVec 4) (land : BitVec 12) (grp : BitVec 3) : List BadForm :=
  need (decide (land = 0) || !(sp.det || f.noLand)) .rsvField ++
  need (decide (cls = 0) || !f.noClass) .rsvField ++
  need (decide (grp = 0) || (f.store && decide (4 ≤ grp.toNat))) .rsvField ++
  need (decide (grp = 0) || !f.store || decide (sp = .glb)) .slotForm ++
  need (f.spaces.contains sp) .slotForm

def memM (f : MemForm) (m : MArgs) : List BadForm :=
  need (decide (m.tg.toNat ≤ f.tgMax)) .rsvField ++ memCommon f m.sp m.cls m.land m.grp

def memMS (f : MemForm) (even : Bool) (m : MSArgs) : List BadForm :=
  need (!even || decide (m.seg.toNat % 2 = 0)) .rsvField ++ memCommon f m.sp m.cls m.land m.grp

def memG (f : MemForm) (m : GArgs) : List BadForm := memCommon f m.sp m.cls m.land m.grp

def allSpaces : List Space := [.glb, .spm, .grv, .clr, .lane]
def spaces03 : List Space := [.glb, .spm, .grv, .clr]

/-- Atomics and rings: glb or clr only; the fields a form does not use are zero (R300). -/
def memA (useD useV useB : Bool) (m : AArgs) : List BadForm :=
  need (decide (m.land = 0) || !m.sp.det) .rsvField ++
  need (useD || decide (m.d = 0)) .rsvField ++ need (useV || decide (m.v = 0)) .rsvField ++
  need (useB || decide (m.b = 0)) .rsvField ++ need ([Space.glb, Space.clr].contains m.sp) .slotForm

/-- Copy commands: token fields beyond nin are zero; a register group stays below x64 (R126). -/
def memC (nMax : Nat) (m : CArgs) : List BadForm :=
  need ((decide (1 ≤ m.nin.toNat) || decide (m.tk0 = 0)) && (decide (2 ≤ m.nin.toNat) || decide (m.tk1 = 0))
    && (decide (3 ≤ m.nin.toNat) || decide (m.tk2 = 0))) .rsvField ++
  need (decide (m.n.toNat ≤ nMax)) .slotForm

/-- The k-width of a format pair (R250). -/
def pairOk (fa fb : ArrFmt) : Bool :=
  let cls : ArrFmt → Nat
    | .bf16 => 0 | .f16 => 1 | .e4m3 => 2 | .e5m2 => 2 | .e2m1 => 3 | .bs8e4b32 => 4 | .bs8e5b32 => 4
    | .bs8e4b16 => 4 | .bs8e5b16 => 4 | .bs4b32 => 5 | .bs4b16 => 5 | .npi => 6 | .i8 => 7
  cls fa == cls fb

/-- The plane field is 1 to 7 when a format is npi and 0 otherwise (R52); the pair is one the array accepts (R250). -/
def beat (fa fb : ArrFmt) (p : BitVec 3) : List BadForm :=
  need (if fa = .npi ∨ fb = .npi then decide (p ≠ 0) else decide (p = 0)) .rsvField ++ need (pairOk fa fb) .slotForm

/-- A system-register access names an assigned index, and a write one that is not read-only (R63, R67, R239). -/
def sysRead (i : Nat) : List BadForm := need (sysInfo i).isSome .rsvOpcode
def sysWrite (i : Nat) : List BadForm :=
  match sysInfo i with
  | none => [.rsvOpcode]
  | some (_, none) => [.slotForm]
  | some (_, some _) => []

/-- The formats that an arithmetic-unit operation permits (R61). -/
def vaFmt (int flt : Bool) : Fmt → List BadForm
  | .i32 => need int .slotForm
  | .f32 => need flt .slotForm
  | .bf16 => need flt .slotForm
  | .b32 => [.slotForm]
/-- The formats that the reductions of vp permit (R61). -/
def vpRed : Fmt → List BadForm
  | .b32 => [.slotForm]
  | _ => []
/-- sf permits f32 and bf16 (R61). -/
def sfFmt : Fmt → List BadForm
  | .f32 => [] | .bf16 => [] | _ => [.slotForm]

end WellFormed

open WellFormed in
/-- The limits that an instruction breaks. An event has no encoding, so no limit of an encoding applies to it. -/
def Instr.faults : Instr → List BadForm
  | .loop _ _ off => need (decide (off ≠ 0)) .rsvField
  | .loopi _ _ off => need (decide (off ≠ 0)) .rsvField
  | .srrd _ s => sysRead s.toNat
  | .srwr s _ => sysWrite s.toNat
  | .srset s _ => sysWrite s.toNat
  | .srclr s _ => sysWrite s.toNat
  | .push _ _ _ fa fb p _ => beat fa fb p
  | .acc _ fa fb p _ => beat fa fb p
  | .accp s ga gb fa fb p _ t => beat fa fb p ++ need (decide (ga ≠ gb) && decide (s ≠ t)) .slotForm
  | .shift _ n => need (decide (n ≠ 0)) .rsvField
  | .sidx _ _ kw => need (decide (kw ≠ 3)) .rsvField
  | .vaMov _ _ f => vaFmt true true f | .vaAdd _ _ f => vaFmt true true f | .vaSub _ _ f => vaFmt true true f
  | .vaMul _ _ f => vaFmt true true f | .vaFma _ _ f => vaFmt true true f | .vaFms _ _ f => vaFmt true true f
  | .vaFnma _ _ f => vaFmt true true f | .vaMin _ _ f => vaFmt true true f | .vaMax _ _ f => vaFmt true true f
  | .vaAbs _ _ f => vaFmt true true f | .vaNeg _ _ f => vaFmt true true f
  | .vaAnd _ _ f => vaFmt true false f | .vaOr _ _ f => vaFmt true false f | .vaXor _ _ f => vaFmt true false f
  | .vaAndn _ _ f => vaFmt true false f | .vaNot _ _ f => vaFmt true false f | .vaSll _ _ f => vaFmt true false f
  | .vaSrl _ _ f => vaFmt true false f | .vaSra _ _ f => vaFmt true false f | .vaMulhi _ _ f => vaFmt true false f
  | .vaSel _ _ f => vaFmt true true f | .vaCeq _ _ f => vaFmt true true f | .vaCne _ _ f => vaFmt true true f
  | .vaClt _ _ f => vaFmt true true f | .vaCle _ _ f => vaFmt true true f | .vaCun _ _ f => vaFmt false true f
  | .vaKand _ _ f => vaFmt true false f | .vaKor _ _ f => vaFmt true false f | .vaKxor _ _ f => vaFmt true false f
  | .vaKandn _ _ f => vaFmt true false f | .vaKnot _ _ f => vaFmt true false f | .vaKcnt _ _ f => vaFmt true false f
  | .vpSumr _ f => vpRed f | .vpMaxr _ f => vpRed f | .vpMinr _ f => vpRed f
  | .vpSumc _ f => vpRed f | .vpMaxc _ f => vpRed f | .vpMinc _ f => vpRed f
  | .sfExp2 _ f => sfFmt f | .sfLog2 _ f => sfFmt f | .sfRcp _ f => sfFmt f | .sfRsqrt _ f => sfFmt f
  | .sfSqrt _ f => sfFmt f | .sfTanh _ f => sfFmt f | .sfSin _ f => sfFmt f | .sfCos _ f => sfFmt f | .sfErf _ f => sfFmt f
  | .cvUp _ t => need (decide (t ≠ .i32) && decide (t ≠ .n32)) .rsvField
  | .cvUpRounding _ t _ => need (decide (t = .i32) || decide (t = .n32)) .rsvField
  | .ldb m => memM ⟨allSpaces, 63, false, false, false⟩ m | .ldh m => memM ⟨allSpaces, 63, false, false, false⟩ m
  | .ldw m => memM ⟨allSpaces, 63, false, false, false⟩ m | .ldd m => memM ⟨allSpaces, 63, false, false, false⟩ m
  | .ldbs m => memM ⟨allSpaces, 63, false, false, false⟩ m | .ldhs m => memM ⟨allSpaces, 63, false, false, false⟩ m
  | .ldws m => memM ⟨allSpaces, 63, false, false, false⟩ m
  | .stb m => memM ⟨allSpaces, 63, true, false, false⟩ m | .sth m => memM ⟨allSpaces, 63, true, false, false⟩ m
  | .stw m => memM ⟨allSpaces, 63, true, false, false⟩ m | .std m => memM ⟨allSpaces, 63, true, false, false⟩ m
  | .vld m => memM ⟨allSpaces, 255, false, false, false⟩ m | .vst m => memM ⟨allSpaces, 255, true, false, false⟩ m
  | .vld16 m => memMS ⟨allSpaces, 255, false, false, false⟩ false m
  | .vld32 m => memMS ⟨allSpaces, 255, false, false, false⟩ true m
  | .vst16 m => memMS ⟨allSpaces, 255, true, false, false⟩ false m
  | .vst32 m => memMS ⟨allSpaces, 255, true, false, false⟩ true m
  | .qld m => memM ⟨spaces03, 3, false, false, false⟩ m
  | .vgath m => memG ⟨spaces03, 255, false, false, false⟩ m | .vscat m => memG ⟨spaces03, 255, true, false, false⟩ m
  | .vlut m => memG ⟨[.lane], 255, false, false, false⟩ m | .vlst m => memG ⟨[.lane], 255, true, false, false⟩ m
  | .pref m => memM ⟨[.glb], 0, false, true, true⟩ m | .ipref m => memM ⟨[.glb], 0, false, true, true⟩ m
  | .red m => memM ⟨[.glb], 0, false, false, false⟩ m | .coll m => memM ⟨[.glb], 0, false, false, false⟩ m
  | .lqput m => memM ⟨[.glb], 63, false, false, false⟩ m | .tlbiva m => memM ⟨[.glb], 0, false, false, false⟩ m
  | .l2wb m => memM ⟨[.glb], 0, false, false, false⟩ m | .l2inv m => memM ⟨[.glb], 0, false, false, false⟩ m
  | .l2wbinv m => memM ⟨[.glb], 0, false, false, false⟩ m
  | .aincW m => memA true false true m | .aincD m => memA true false true m
  | .afaddbW m => memA true true true m ++ need (decide (m.d.toNat ≤ 62)) .slotForm
  | .afaddbD m => memA true true true m ++ need (decide (m.d.toNat ≤ 62)) .slotForm
  | .aaddW m => memA true true false m | .aaddD m => memA true true false m | .aaddfW m => memA true true false m
  | .acasW m => memA true true true m | .acasD m => memA true true true m
  | .axchgW m => memA true true false m | .axchgD m => memA true true false m
  | .amaxW m => memA true true false m | .amaxD m => memA true true false m
  | .aminW m => memA true true false m | .aminD m => memA true true false m
  | .radd m => memA false true false m | .rwait m => memA false true false m | .rrd m => memA true false false m
  | .cpy m => memC 63 m | .cpy2d m => memC 60 m | .cpyg m => memC 61 m
  | .cwait _ tk => need (decide (tk.toNat ≤ 63)) .rsvField
  | .wpwait _ _ ch => need (decide (ch.toNat ≤ 15)) .rsvField
  | _ => []

/-- A well-formed instruction breaks no limit of its encoding. -/
def Instr.wf (i : Instr) : Bool := i.faults.isEmpty

end Sys2Proof
end

