-- ==== Sys2Proof/Decode.lean ====
section
/-! DEFINITION. Decoding: from the bits of a slot to an instruction or the reason it is none (R43 to R69), the header and
the slots of a bundle, and the encoder. A slot's word is a number; its fields are read once, here. -/
namespace Sys2Proof

open WellFormed

/-- The instruction, if it breaks no limit; else the lowest reason of those it breaks and those found with it (R69). -/
def checked (extra : List BadForm) (i : Instr) : Except BadForm Instr :=
  match BadForm.worst (extra ++ i.faults) with
  | none => .ok i
  | some b => .error b

/-- Fields that must be zero. -/
def zero (n : Nat) : List BadForm := need (n == 0) .rsvField

/-! ## Scalar slots (R48, R49) -/

/-- The register-register operations of opcode 0x01 with three registers. -/
def rrrOf : Nat → Option (BitVec 6 → BitVec 6 → BitVec 6 → Instr)
  | 0x00 => some .add | 0x01 => some .sub | 0x02 => some .and | 0x03 => some .or | 0x04 => some .xor
  | 0x05 => some .andn | 0x06 => some .sll | 0x07 => some .srl | 0x08 => some .sra | 0x09 => some .slt
  | 0x0A => some .sltu | 0x0B => some .seq | 0x0C => some .min | 0x0D => some .max | 0x0E => some .minu
  | 0x0F => some .maxu | 0x10 => some .mul | 0x11 => some .mulh | 0x12 => some .mulhu | 0x13 => some .div
  | 0x14 => some .divu | 0x15 => some .rem | 0x16 => some .remu | _ => none

/-- Those with two. -/
def rrOf : Nat → Option (BitVec 6 → BitVec 6 → Instr)
  | 0x17 => some .clz | 0x18 => some .ctz | 0x19 => some .popc | _ => none

/-- The branches by opcode. -/
def branchOf : Nat → Option (BitVec 6 → BitVec 6 → BitVec 12 → Instr)
  | 0x10 => some .beq | 0x11 => some .bne | 0x12 => some .blt | 0x13 => some .bge | 0x14 => some .bltu
  | 0x15 => some .bgeu | _ => none

/-- The immediate forms with a 12-bit immediate. -/
def immOf : Nat → Option (BitVec 6 → BitVec 6 → BitVec 12 → Instr)
  | 0x02 => some .addi | 0x03 => some .andi | 0x04 => some .ori | 0x05 => some .xori | 0x09 => some .slti
  | 0x0A => some .sltiu | _ => none

/-- The immediate shifts. -/
def shiftOf : Nat → Option (BitVec 6 → BitVec 6 → BitVec 6 → Instr)
  | 0x06 => some .slli | 0x07 => some .srli | 0x08 => some .srai | _ => none

/-- The opcodes that sb may not hold (R49, R50). -/
def saOnly (op : Nat) : Bool := (0x10 ≤ op && op ≤ 0x21) || (0x38 ≤ op && op ≤ 0x3D)

/-- A scalar word. -/
def scalarBody (w : Nat) : Except BadForm (List BadForm × Instr) :=
  let d := fld w 18 6
  let a := fld w 12 6
  let b := fld w 6 6
  let op := fldN w 24 8
  match rrrOf (fldN w 0 6), rrOf (fldN w 0 6), branchOf op, immOf op, shiftOf op with
  | some f, _, none, none, none =>
    if op = 0x01 then .ok ([], f d a b) else rest op
  | none, some f, none, none, none =>
    if op = 0x01 then .ok (zero (fldN w 6 6), f d a) else rest op
  | _, _, some f, _, _ => .ok ([], f (fld w 18 6) (fld w 12 6) (fld w 0 12))
  | _, _, none, some f, _ => .ok ([], f d a (fld w 0 12))
  | _, _, none, none, some f => .ok (zero (fldN w 6 6), f d a (fld w 0 6))
  | none, none, none, none, none => if op = 0x01 then .error .rsvOpcode else rest op
where
  /-- The other opcodes. -/
  rest (op : Nat) : Except BadForm (List BadForm × Instr) :=
    let d := fld w 18 6
    let a := fld w 12 6
    match op with
    | 0x0B => .ok ([], .li d (fld w 0 18))
    | 0x0C => .ok ([], .lui d (fld w 0 18))
    | 0x0D => .ok ([], .lsh d (fld w 0 18))
    | 0x16 => .ok ([], .j (fld w 0 24))
    | 0x17 => .ok ([], .jl d (fld w 0 18))
    | 0x18 => .ok (zero (fldN w 18 6) ++ zero (fldN w 0 12), .jr a)
    | 0x19 => .ok (zero (fldN w 0 12), .jlr d a)
    | 0x20 => .ok (zero (fldN w 18 4), .loop (fld w 22 2) a (fld w 0 12))
    | 0x21 => .ok ([], .loopi (fld w 22 2) (fld w 12 10) (fld w 0 12))
    | 0x22 => .ok (zero (fldN w 14 4) ++ zero (fldN w 0 12), .lcrd d (fld w 12 2))
    | 0x28 => .ok (zero (fldN w 20 4) ++ zero (fldN w 0 12), .agbase (fld w 18 2) a)
    | 0x29 => .ok (zero (fldN w 20 4) ++ zero (fldN w 0 12), .agstep (fld w 18 2) a)
    | 0x2A => .ok (zero (fldN w 20 4) ++ zero (fldN w 0 12), .agwrap (fld w 18 2) a)
    | 0x2B => .ok (zero (fldN w 14 4) ++ zero (fldN w 0 12), .agrd d (fld w 12 2))
    | 0x30 => .ok (zero (fldN w 12 6), .srrd d (fld w 0 12))
    | 0x31 => .ok (zero (fldN w 18 6), .srwr (fld w 0 12) a)
    | 0x32 => .ok (zero (fldN w 18 6), .srset (fld w 0 12) a)
    | 0x33 => .ok (zero (fldN w 18 6), .srclr (fld w 0 12) a)
    | 0x38 => .ok (zero (fldN w 12 12), .trap (fld w 0 12))
    | 0x39 => .ok (zero (fldN w 0 24), .done)
    | 0x3A => .ok (zero (fldN w 12 12), .brk (fld w 0 12))
    | 0x3B => .ok (zero (fldN w 0 24), .resume)
    | 0x3C => .ok (zero (fldN w 18 6) ++ zero (fldN w 0 12), .gsres a)
    | 0x3D => .ok (zero (fldN w 0 24), .gsend)
    | _ => .error .rsvOpcode

/-- Decode a scalar slot, sb or not (R48 to R50). -/
def decodeScalar (sb : Bool) (w : Nat) : Except BadForm Instr :=
  match scalarBody w with
  | .error b => .error b
  | .ok (z, i) => checked (z ++ need (!(sb && saOnly (fldN w 24 8))) .slotForm) i

/-! ## The matrix and scale slots (R51 to R53) -/

/-- The fields that push, acc and accp share. -/
def beatOf (w : Nat) (f : ArrFmt → ArrFmt → BitVec 3 → Bool → List BadForm × Instr) :
    Except BadForm (List BadForm × Instr) :=
  match ArrFmt.ofCode (fldN w 18 4), ArrFmt.ofCode (fldN w 14 4) with
  | some fa, some fb => .ok (f fa fb (fld w 11 3) (bitN w 10))
  | _, _ => .error .rsvField

def mxBody (w : Nat) : Except BadForm (List BadForm × Instr) :=
  let s : BitVec 2 := fld w 26 2
  match fldN w 28 4 with
  | 0x1 => beatOf w fun fa fb p sp => (zero (fldN w 0 10), .push s (fld w 24 2) (fld w 22 2) fa fb p sp)
  | 0x2 => beatOf w fun fa fb p sp => (zero (fldN w 22 4) ++ zero (fldN w 0 10), .acc s fa fb p sp)
  | 0x3 => beatOf w fun fa fb p sp => (zero (fldN w 0 8), .accp s (fld w 24 2) (fld w 22 2) fa fb p sp (fld w 8 2))
  | 0x4 => .ok (zero (fldN w 0 23), .shift s (fld w 23 3))
  | 0x5 => .ok (zero (fldN w 0 28), .dchk)
  | 0x6 => .ok (zero (fldN w 0 17), .drain (fld w 23 5) (fld w 19 4) (bitN w 18) (bitN w 17))
  | 0x7 => .ok (zero (fldN w 0 28), .clear)
  | 0x8 => .ok (zero (fldN w 0 20), .mloc (fld w 20 8))
  | 0x9 => .ok (zero (fldN w 0 14), .mfix (fld w 21 7) (fld w 14 7))
  | 0xA => .ok (zero (fldN w 0 28), .mpass)
  | 0xB => .ok (zero (fldN w 0 28), .mretry)
  | 0xC => .ok (zero (fldN w 0 28), .mclaim)
  | 0xD => .ok (zero (fldN w 0 28), .mrelease)
  | _ => .error .rsvOpcode

/-- Decode a matrix slot (R51, R52). -/
def decodeMx (w : Nat) : Except BadForm Instr :=
  match mxBody w with
  | .error b => .error b
  | .ok (z, i) => checked z i

/-- Decode a scale slot (R53). -/
def decodeSc (w : Nat) : Except BadForm Instr :=
  let s : BitVec 2 := fld w 26 2
  let ag : BitVec 2 := fld w 24 2
  let z := zero (fldN w 0 22)
  match fldN w 28 4 with
  | 0x1 => checked (z ++ zero (fldN w 22 2)) (.scla s ag)
  | 0x2 => checked (z ++ zero (fldN w 22 2)) (.sclb s ag)
  | 0x3 => checked (z ++ zero (fldN w 22 2) ++ zero (fldN w 26 2)) (.smap ag)
  | 0x4 => checked z (.sidx s ag (fld w 22 2))
  | _ => .error .rsvOpcode

/-! ## The memory slots (R54, R55) -/

/-- Forms of format M. -/
def memMOf : Nat → Option (MArgs → Instr)
  | 0x01 => some .ldb | 0x02 => some .ldh | 0x03 => some .ldw | 0x04 => some .ldd | 0x05 => some .ldbs
  | 0x06 => some .ldhs | 0x07 => some .ldws | 0x08 => some .stb | 0x09 => some .sth | 0x0A => some .stw
  | 0x0B => some .std | 0x10 => some .vld | 0x11 => some .vst | 0x16 => some .qld | 0x1C => some .pref
  | 0x1D => some .ipref | 0x45 => some .red | 0x46 => some .coll | 0x47 => some .lqput | 0x50 => some .tlbiva
  | 0x52 => some .l2wb | 0x53 => some .l2inv | 0x54 => some .l2wbinv | _ => none

/-- Forms of format MS. -/
def memMSOf : Nat → Option (MSArgs → Instr)
  | 0x12 => some .vld16 | 0x13 => some .vld32 | 0x14 => some .vst16 | 0x15 => some .vst32 | _ => none

/-- Forms of format G. -/
def memGOf : Nat → Option (GArgs → Instr)
  | 0x18 => some .vgath | 0x19 => some .vscat | 0x1A => some .vlut | 0x1B => some .vlst | _ => none

/-- Forms of format A. -/
def memAOf : Nat → Option (AArgs → Instr)
  | 0x20 => some .aincW | 0x21 => some .aincD | 0x22 => some .afaddbW | 0x23 => some .afaddbD | 0x24 => some .aaddW
  | 0x25 => some .aaddD | 0x26 => some .aaddfW | 0x28 => some .acasW | 0x29 => some .acasD | 0x2A => some .axchgW
  | 0x2B => some .axchgD | 0x2C => some .amaxW | 0x2D => some .amaxD | 0x2E => some .aminW | 0x2F => some .aminD
  | 0x30 => some .radd | 0x31 => some .rwait | 0x32 => some .rrd | _ => none

/-- Forms of format C. -/
def memCOf : Nat → Option (CArgs → Instr)
  | 0x40 => some .cpy | 0x41 => some .cpy2d | 0x42 => some .cpyg | _ => none

def memMargs (w : Nat) (sp : Space) : MArgs :=
  { sp := sp, cls := fld w 49 4, land := fld w 37 12, a := fld w 31 6, tg := fld w 23 8, off := fld w 3 20, grp := fld w 0 3 }
def memMSargs (w : Nat) (sp : Space) : MSArgs :=
  { sp := sp, cls := fld w 49 4, land := fld w 37 12, a := fld w 31 6, tg := fld w 23 8, seg := fld w 15 8
    off := fld w 3 12, grp := fld w 0 3 }
def memGargs (w : Nat) (sp : Space) : GArgs :=
  { sp := sp, cls := fld w 49 4, land := fld w 37 12, a := fld w 31 6, vd := fld w 23 8, vi := fld w 15 8, grp := fld w 0 3 }
def memAargs (w : Nat) (sp : Space) : AArgs :=
  { sp := sp, cls := fld w 49 4, land := fld w 37 12, a := fld w 31 6, d := fld w 25 6, v := fld w 19 6, b := fld w 13 6 }
def memCargs (w : Nat) (dsp ssp : Space) : CArgs :=
  { ch := fld w 52 4, tko := fld w 46 6, tk0 := fld w 40 6, tk1 := fld w 34 6, tk2 := fld w 28 6, nin := fld w 26 2
    d := fld w 20 6, s := fld w 14 6, n := fld w 8 6, dsp := dsp, ssp := ssp }

/-- The forms of formats W, F and GR by opcode. -/
def memOther (w : Nat) : Except BadForm Instr :=
  match fldN w 56 8 with
  | 0x34 => match Scope.ofCode (fldN w 16 3) with
    | some sc => checked (zero (fldN w 19 37)) (.fence (fld w 0 16) sc)
    | none => .error .rsvField
  | 0x36 => checked (zero (fldN w 0 54)) (.gopen (fld w 54 2))
  | 0x37 => checked (zero (fldN w 0 54)) (.gcommit (fld w 54 2))
  | 0x38 => checked (zero (fldN w 0 54)) (.gabort (fld w 54 2))
  | 0x43 => checked (zero (fldN w 49 7) ++ zero (fldN w 31 6) ++ zero (fldN w 0 23)) (.cwait (fld w 37 12) (fld w 23 8))
  | 0x44 => checked (zero (fldN w 49 7) ++ zero (fldN w 0 23)) (.wpwait (fld w 37 12) (fld w 31 6) (fld w 23 8))
  | 0x51 => checked (zero (fldN w 0 56)) .tlbiall
  | _ => .error .rsvOpcode

/-- Decode a memory slot. -/
def decodeMem (w : Nat) : Except BadForm Instr :=
  let op := fldN w 56 8
  match memCOf op with
  | some f => match Space.ofCode (fldN w 5 3), Space.ofCode (fldN w 2 3) with
    | some dsp, some ssp => checked (zero (fldN w 0 2)) (f (memCargs w dsp ssp))
    | _, _ => .error .rsvField
  | none => match memMOf op, memMSOf op, memGOf op, memAOf op with
    | some f, _, _, _ => match Space.ofCode (fldN w 53 3) with
      | some sp => checked [] (f (memMargs w sp)) | none => .error .rsvField
    | none, some f, _, _ => match Space.ofCode (fldN w 53 3) with
      | some sp => checked [] (f (memMSargs w sp)) | none => .error .rsvField
    | none, none, some f, _ => match Space.ofCode (fldN w 53 3) with
      | some sp => checked (zero (fldN w 3 12)) (f (memGargs w sp)) | none => .error .rsvField
    | none, none, none, some f => match Space.ofCode (fldN w 53 3) with
      | some sp => checked (zero (fldN w 0 13)) (f (memAargs w sp)) | none => .error .rsvField
    | none, none, none, none => memOther w

/-! ## Move slots (R57 to R62) -/

/-- The operations of an arithmetic unit. -/
def vaOf : Nat → Option (Src → VaUnit → Fmt → Instr)
  | 0x00 => some .vaMov | 0x01 => some .vaAdd | 0x02 => some .vaSub | 0x03 => some .vaMul | 0x04 => some .vaFma
  | 0x05 => some .vaFms | 0x06 => some .vaFnma | 0x07 => some .vaMin | 0x08 => some .vaMax | 0x09 => some .vaAbs
  | 0x0A => some .vaNeg | 0x0B => some .vaAnd | 0x0C => some .vaOr | 0x0D => some .vaXor | 0x0E => some .vaAndn
  | 0x0F => some .vaNot | 0x10 => some .vaSll | 0x11 => some .vaSrl | 0x12 => some .vaSra | 0x13 => some .vaMulhi
  | 0x14 => some .vaSel | 0x15 => some .vaCeq | 0x16 => some .vaCne | 0x17 => some .vaClt | 0x18 => some .vaCle
  | 0x19 => some .vaCun | 0x1A => some .vaKand | 0x1B => some .vaKor | 0x1C => some .vaKxor | 0x1D => some .vaKandn
  | 0x1E => some .vaKnot | 0x1F => some .vaKcnt | _ => none

/-- The operations of vp. -/
def vpOf : Nat → Option (Src → Fmt → Instr)
  | 0x00 => some .vpRotr | 0x01 => some .vpBcr | 0x02 => some .vpSumr | 0x03 => some .vpMaxr | 0x04 => some .vpMinr
  | 0x08 => some .vpRotc | 0x09 => some .vpBcc | 0x0A => some .vpSumc | 0x0B => some .vpMaxc | 0x0C => some .vpMinc
  | 0x10 => some .vpTrn16 | 0x11 => some .vpShuf | _ => none

/-- The operations of sf. -/
def sfOf : Nat → Option (Src → Fmt → Instr)
  | 0x00 => some .sfExp2 | 0x01 => some .sfLog2 | 0x02 => some .sfRcp | 0x03 => some .sfRsqrt | 0x04 => some .sfSqrt
  | 0x05 => some .sfTanh | 0x06 => some .sfSin | 0x07 => some .sfCos | 0x08 => some .sfErf | _ => none

/-- A trigger port by destination code (R59). -/
inductive Port
  | va (u : VaUnit) (f : Fmt) | vp (f : Fmt) | sf (f : Fmt) | wc | ap | cvDn (t : CvFmt) | cvUp (t : CvFmt)
deriving DecidableEq, Repr

def Port.ofCode (d : Nat) : Option Port :=
  match d with
  | 0x160 => some (.va .va0 .f32) | 0x161 => some (.va .va0 .i32) | 0x162 => some (.va .va0 .bf16)
  | 0x164 => some (.va .va1 .f32) | 0x165 => some (.va .va1 .i32) | 0x166 => some (.va .va1 .bf16)
  | 0x168 => some (.vp .b32) | 0x169 => some (.vp .f32) | 0x16A => some (.vp .i32) | 0x16B => some (.vp .bf16)
  | 0x16C => some (.sf .f32) | 0x16D => some (.sf .bf16) | 0x16E => some .wc | 0x16F => some .ap
  | _ => if 0x170 ≤ d ∧ d ≤ 0x17A then (CvFmt.ofCode (d - 0x170)).map .cvDn
    else if 0x17B ≤ d ∧ d ≤ 0x185 then (CvFmt.ofCode (d - 0x17B)).map .cvUp else none

def Port.code : Port → Nat
  | .va u f => 0x160 + (if u = .va0 then 0 else 4) + (match f with | .f32 => 0 | .i32 => 1 | .bf16 => 2 | .b32 => 3)
  | .vp f => 0x168 + (match f with | .b32 => 0 | .f32 => 1 | .i32 => 2 | .bf16 => 3)
  | .sf f => if f = .bf16 then 0x16D else 0x16C
  | .wc => 0x16E | .ap => 0x16F | .cvDn t => 0x170 + t.code | .cvUp t => 0x17B + t.code

/-- A move to a trigger port (R61, R62). -/
def decodeTrigger (src : Src) (p : Port) (op : Nat) : Except BadForm Instr :=
  match p with
  | .va u f => match vaOf op with | some g => checked [] (g src u f) | none => .error .rsvOpcode
  | .vp f => match vpOf op with | some g => checked [] (g src f) | none => .error .rsvOpcode
  | .sf f => match sfOf op with | some g => checked [] (g src f) | none => .error .rsvOpcode
  | .wc => match op with
    | 0 => checked [] (.wcSig src) | 1 => checked [] (.wcSigclr src) | 2 => checked [] (.wcCmp src)
    | _ => .error .rsvOpcode
  | .ap => match op with
    | 0 => checked [] (.apRd src) | 1 => checked [] (.apWr src) | 2 => checked [] (.apAcc src)
    | _ => .error .rsvOpcode
  | .cvDn t => match Rnd.ofCode (fldN op 2 3) with
    | some r => checked (zero (fldN op 5 1)) (.cvDn src t r (OvPol.ofCode (fldN op 0 2))) | none => .error .rsvField
  | .cvUp t =>
    if t = .i32 ∨ t = .n32 then match Rnd.ofCode (fldN op 2 3) with
      | some r => checked (zero (fldN op 5 1) ++ zero (fldN op 0 2)) (.cvUpRounding src t r) | none => .error .rsvField
    else checked (zero op) (.cvUp src t)

/-- Decode a move slot (R57). -/
def decodeMove (w : Nat) : Except BadForm Instr :=
  match Src.ofCode (fldN w 15 9) with
  | none => .error .rsvOpcode
  | some src => match Dst.ofCode (fldN w 6 9) with
    | some d => checked (zero (fldN w 0 6)) (.move src d)
    | none => match Port.ofCode (fldN w 6 9) with
      | some p => decodeTrigger src p (fldN w 0 6)
      | none => .error .rsvOpcode

/-! ## The bundle (R43 to R47, R64, R65, R69) -/

/-- The slot that an index of R69 names. -/
inductive SlotKind | sa | sb | mx | sc | mem | mv
deriving DecidableEq, Repr

/-- The kinds of the slot indices. -/
def slotKind (idx : Nat) : SlotKind :=
  match idx with
  | 1 => .sa | 2 => .sb | 3 => .mx | 4 => .sc | 5 => .mem | 6 => .mem | _ => .mv

def SlotKind.bytes : SlotKind → Nat
  | .mem => 8 | .mv => 3 | _ => 4

/-- Decode the word of a slot of this kind. -/
def decodeSlot (k : SlotKind) (w : Nat) : Except BadForm Instr :=
  match k with
  | .sa => decodeScalar false w | .sb => decodeScalar true w | .mx => decodeMx w | .sc => decodeSc w
  | .mem => decodeMem w | .mv => decodeMove w

namespace Header
/-- The slot indices that a header marks present, in slot order (R43, R45). -/
def present (h : Nat) : List Nat :=
  [1, 2, 3, 4, 5, 6].filter (fun i => bitN h (30 - i)) ++ ((List.range 8).filter (fun i => bitN h (16 + i))).map (8 + ·)
/-- BAD_HEADER of R68. -/
def bad (h : Nat) : Bool := fldN h 30 2 != 2 || fldN h 0 8 != 0
def way (h : Nat) : Bool := bitN h 15
def wit (h : Nat) : Bool := bitN h 14
def idle (h : Nat) : Nat := fldN h 8 6
/-- Bytes of the slots, without the header and the padding. -/
def slotBytes (h : Nat) : Nat := ((present h).map fun i => (slotKind i).bytes).sum
/-- The length of the bundle, a multiple of 4 from 4 to 60 (R45). -/
def len (h : Nat) : Nat := 4 + (slotBytes h + 3) / 4 * 4
end Header

/-- A decoded bundle: its slots by index, in slot order. -/
structure Bundle where
  way : Bool
  wit : Bool
  idle : Nat
  len : Nat
  slots : List (Nat × Instr)
deriving DecidableEq, Repr

/-- Slots at byte offset o and up. -/
def slotsAt (w : Nat) : Nat → List Nat → List (Nat × Except BadForm Instr)
  | _, [] => []
  | o, i :: is => (i, decodeSlot (slotKind i) (fldN w (8 * o) (8 * (slotKind i).bytes)))
      :: slotsAt w (o + (slotKind i).bytes) is

/-- The least of two (reason, slot) pairs (R69). -/
def worse (a b : Option (Nat × Nat)) : Option (Nat × Nat) :=
  match a, b with
  | none, b => b
  | a, none => a
  | some (r, s), some (r', s') => if r < r' ∨ (r = r' ∧ s ≤ s') then some (r, s) else some (r', s')

/-- The first static violation of the slots, if any. -/
def slotsBad : List (Nat × Except BadForm Instr) → Option (Nat × Nat)
  | [] => none
  | (i, .error b) :: r => worse (some (b.code, i)) (slotsBad r)
  | (_, .ok _) :: r => slotsBad r

/-- The slots that decode. -/
def slotsOk : List (Nat × Except BadForm Instr) → List (Nat × Instr)
  | [] => []
  | (i, .ok x) :: r => (i, x) :: slotsOk r
  | (_, .error _) :: r => slotsOk r

/-- Decode a bundle from its bytes as one number, lowest address least significant; or the reason code of R68 and the slot
of R69. Reasons 1 to 4 are found here. -/
def decodeBundle (w : Nat) : Except (Nat × Nat) Bundle :=
  let h := fldN w 0 32
  if Header.bad h then .error (1, 0)
  else
    let sl := slotsAt w 4 (Header.present h)
    let o := 4 + Header.slotBytes h
    let pad := if fldN w (8 * o) (8 * (Header.len h - o)) = 0 then none else some (3, 7)
    match worse (slotsBad sl) pad with
    | some e => .error e
    | none => .ok { way := Header.way h, wit := Header.wit h, idle := Header.idle h, len := Header.len h, slots := slotsOk sl }

/-- Names of the members of a destination set (R64): destination codes of R59, then queues, accumulator tiles and system
registers by index. -/
def destQueue (q : Nat) : Nat := 0x200 + q
def destPop (q : Nat) : Nat := 0x208 + q
def destTile (t : Nat) : Nat := 0x210 + t
def destSys (i : Nat) : Nat := 0x1000 + i
/-- An ag write names its generator, whose four values are the registers AG.n (R237, R241). Log entry 6. -/
def destAg (n : BitVec 2) : List Nat := (List.range 4).map fun k => destSys (0x30 + 4 * n.toNat + k)
def destX (d : BitVec 6) : List Nat := if d = 0 then [] else [0x100 + d.toNat]

/-- The destination set of a slot (R64, R65): what its encoding names statically as written, and the queue a move pops. A token is none of
them: two copy commands of a bundle that name one token issue, and it stays with the one in cb (log entry 91). -/
def Instr.dests : Instr → List Nat
  | .add d _ _ => destX d | .sub d _ _ => destX d | .and d _ _ => destX d | .or d _ _ => destX d | .xor d _ _ => destX d
  | .andn d _ _ => destX d | .sll d _ _ => destX d | .srl d _ _ => destX d | .sra d _ _ => destX d | .slt d _ _ => destX d
  | .sltu d _ _ => destX d | .seq d _ _ => destX d | .min d _ _ => destX d | .max d _ _ => destX d | .minu d _ _ => destX d
  | .maxu d _ _ => destX d | .mul d _ _ => destX d | .mulh d _ _ => destX d | .mulhu d _ _ => destX d
  | .div d _ _ => destX d | .divu d _ _ => destX d | .rem d _ _ => destX d | .remu d _ _ => destX d
  | .clz d _ => destX d | .ctz d _ => destX d | .popc d _ => destX d
  | .addi d _ _ => destX d | .andi d _ _ => destX d | .ori d _ _ => destX d | .xori d _ _ => destX d
  | .slli d _ _ => destX d | .srli d _ _ => destX d | .srai d _ _ => destX d | .slti d _ _ => destX d
  | .sltiu d _ _ => destX d | .li d _ => destX d | .lui d _ => destX d | .lsh d _ => destX d
  | .jl d _ => destX d | .jlr d _ => destX d | .lcrd d _ => destX d | .agrd d _ => destX d | .srrd d _ => destX d
  | .loop n _ _ => [destSys (0x20 + 4 * n.toNat), destSys (0x21 + 4 * n.toNat), destSys (0x22 + 4 * n.toNat)]
  | .loopi n _ _ => [destSys (0x20 + 4 * n.toNat), destSys (0x21 + 4 * n.toNat), destSys (0x22 + 4 * n.toNat)]
  | .agbase n _ => destAg n | .agstep n _ => destAg n | .agwrap n _ => destAg n
  | .srwr s _ => [destSys s.toNat] | .srset s _ => [destSys s.toNat] | .srclr s _ => [destSys s.toNat]
  | .drain t _ _ _ => [destTile t.toNat] | .mloc vd => [vd.toNat]
  | .move s d => popOf s ++ (match d with | .x n => destX n | d => [d.code])
  | .vaMov s u _ => trig s u.unit | .vaAdd s u _ => trig s u.unit | .vaSub s u _ => trig s u.unit
  | .vaMul s u _ => trig s u.unit | .vaFma s u _ => trig s u.unit | .vaFms s u _ => trig s u.unit
  | .vaFnma s u _ => trig s u.unit | .vaMin s u _ => trig s u.unit | .vaMax s u _ => trig s u.unit
  | .vaAbs s u _ => trig s u.unit | .vaNeg s u _ => trig s u.unit | .vaAnd s u _ => trig s u.unit
  | .vaOr s u _ => trig s u.unit | .vaXor s u _ => trig s u.unit | .vaAndn s u _ => trig s u.unit
  | .vaNot s u _ => trig s u.unit | .vaSll s u _ => trig s u.unit | .vaSrl s u _ => trig s u.unit
  | .vaSra s u _ => trig s u.unit | .vaMulhi s u _ => trig s u.unit | .vaSel s u _ => trig s u.unit
  | .vaCeq s u _ => trig s u.unit | .vaCne s u _ => trig s u.unit | .vaClt s u _ => trig s u.unit
  | .vaCle s u _ => trig s u.unit | .vaCun s u _ => trig s u.unit | .vaKand s u _ => trig s u.unit
  | .vaKor s u _ => trig s u.unit | .vaKxor s u _ => trig s u.unit | .vaKandn s u _ => trig s u.unit
  | .vaKnot s u _ => trig s u.unit | .vaKcnt s u _ => trig s u.unit
  | .vpRotr s _ => trig s .vp | .vpBcr s _ => trig s .vp | .vpSumr s _ => trig s .vp | .vpMaxr s _ => trig s .vp
  | .vpMinr s _ => trig s .vp | .vpRotc s _ => trig s .vp | .vpBcc s _ => trig s .vp | .vpSumc s _ => trig s .vp
  | .vpMaxc s _ => trig s .vp | .vpMinc s _ => trig s .vp | .vpTrn16 s _ => trig s .vp | .vpShuf s _ => trig s .vp
  | .sfExp2 s _ => trig s .sf | .sfLog2 s _ => trig s .sf | .sfRcp s _ => trig s .sf | .sfRsqrt s _ => trig s .sf
  | .sfSqrt s _ => trig s .sf | .sfTanh s _ => trig s .sf | .sfSin s _ => trig s .sf | .sfCos s _ => trig s .sf
  | .sfErf s _ => trig s .sf
  | .cvDn s _ _ _ => trig s .cv | .cvUp s _ => trig s .cv | .cvUpRounding s _ _ => trig s .cv
  | .wcSig s => trig s .wc | .wcSigclr s => trig s .wc | .wcCmp s => trig s .wc
  | .apRd s => trig s .ap | .apWr s => trig s .ap | .apAcc s => trig s .ap
  | .ldb m => destX (m.tg.setWidth 6) | .ldh m => destX (m.tg.setWidth 6) | .ldw m => destX (m.tg.setWidth 6)
  | .ldd m => destX (m.tg.setWidth 6) | .ldbs m => destX (m.tg.setWidth 6) | .ldhs m => destX (m.tg.setWidth 6)
  | .ldws m => destX (m.tg.setWidth 6)
  | .vld m => [m.tg.toNat] | .vld16 m => [m.tg.toNat] | .vld32 m => [m.tg.toNat]
  | .qld m => [destQueue (m.tg.toNat % 4)]
  | .vgath m => [m.vd.toNat] | .vlut m => [m.vd.toNat]
  | .aincW m => destX m.d | .aincD m => destX m.d | .aaddW m => destX m.d | .aaddD m => destX m.d
  | .afaddbW m => destX m.d ++ destX (m.d + 1) | .afaddbD m => destX m.d ++ destX (m.d + 1)
  | .aaddfW m => destX m.d | .acasW m => destX m.d | .acasD m => destX m.d | .axchgW m => destX m.d
  | .axchgD m => destX m.d | .amaxW m => destX m.d | .amaxD m => destX m.d | .aminW m => destX m.d
  | .aminD m => destX m.d | .rrd m => destX m.d
  | _ => []
where
  /-- The queue that a move pops. -/
  popOf : Src → List Nat
    | .pop n => [destPop n.toNat]
    | _ => []
  /-- A trigger names the unit's latch .a (R60). -/
  trig (s : Src) (u : VUnit) : List Nat := popOf s ++ [u.latchA.code]

/-- The lowest slot whose destinations meet those of an earlier slot: a double destination (R64, R65, R69). -/
def doubleDest (seen : List Nat) : List (Nat × Instr) → Option Nat
  | [] => none
  | (k, i) :: r => if i.dests.any seen.contains then some k else doubleDest (i.dests ++ seen) r

/-- The operations that need a level above user (R49, R51, R55, R67). -/
def Instr.needs : Instr → Level
  | .resume => .partition | .mretry => .partition | .mclaim => .partition | .mrelease => .partition
  | .tlbiva _ => .partition | .tlbiall => .partition | .l2inv _ => .partition
  | .srrd _ s => sysReads s.toNat
  | .srwr s _ => sysNeeds s.toNat | .srset s _ => sysNeeds s.toNat | .srclr s _ => sysNeeds s.toNat
  | _ => .user
where
  /-- The level a read of a system register needs. -/
  sysReads (i : Nat) : Level := match Machine.sysInfo i with | some (l, _) => l | none => .user
  /-- The level a write of a system register needs. -/
  sysNeeds (i : Nat) : Level := match Machine.sysInfo i with | some (_, some l) => l | _ => .user

/-! ## The encoder (R48 to R62) -/

/-- Formats of the scalar slots. -/
def encSR (f d a b : Nat) : Nat := 0x01 * 2 ^ 24 + d * 2 ^ 18 + a * 2 ^ 12 + b * 2 ^ 6 + f
def encSI (op d a imm : Nat) : Nat := op * 2 ^ 24 + d * 2 ^ 18 + a * 2 ^ 12 + imm
def encSU (op d imm : Nat) : Nat := op * 2 ^ 24 + d * 2 ^ 18 + imm
def encSL (op n cnt off : Nat) : Nat := op * 2 ^ 24 + n * 2 ^ 22 + cnt * 2 ^ 12 + off
def encR (f : Nat) (d a b : BitVec 6) : Nat := encSR f d.toNat a.toNat b.toNat
def encI (op : Nat) (d a : BitVec 6) (imm : BitVec 12) : Nat := encSI op d.toNat a.toNat imm.toNat
def encSh (op : Nat) (d a sh : BitVec 6) : Nat := encSI op d.toNat a.toNat sh.toNat
/-- push, acc and accp. -/
def encBeat (op s ga gb : Nat) (fa fb : ArrFmt) (p : BitVec 3) (sp : Bool) (t : Nat) : Nat :=
  op * 2 ^ 28 + s * 2 ^ 26 + ga * 2 ^ 24 + gb * 2 ^ 22 + fa.code * 2 ^ 18 + fb.code * 2 ^ 14 + p.toNat * 2 ^ 11
    + b2n sp * 2 ^ 10 + t * 2 ^ 8
/-- Formats of the memory slots. -/
def encM (op : Nat) (m : MArgs) : Nat :=
  op * 2 ^ 56 + m.sp.code * 2 ^ 53 + m.cls.toNat * 2 ^ 49 + m.land.toNat * 2 ^ 37 + m.a.toNat * 2 ^ 31 + m.tg.toNat * 2 ^ 23
    + m.off.toNat * 2 ^ 3 + m.grp.toNat
def encMS (op : Nat) (m : MSArgs) : Nat :=
  op * 2 ^ 56 + m.sp.code * 2 ^ 53 + m.cls.toNat * 2 ^ 49 + m.land.toNat * 2 ^ 37 + m.a.toNat * 2 ^ 31 + m.tg.toNat * 2 ^ 23
    + m.seg.toNat * 2 ^ 15 + m.off.toNat * 2 ^ 3 + m.grp.toNat
def encG (op : Nat) (m : GArgs) : Nat :=
  op * 2 ^ 56 + m.sp.code * 2 ^ 53 + m.cls.toNat * 2 ^ 49 + m.land.toNat * 2 ^ 37 + m.a.toNat * 2 ^ 31 + m.vd.toNat * 2 ^ 23
    + m.vi.toNat * 2 ^ 15 + m.grp.toNat
def encA (op : Nat) (m : AArgs) : Nat :=
  op * 2 ^ 56 + m.sp.code * 2 ^ 53 + m.cls.toNat * 2 ^ 49 + m.land.toNat * 2 ^ 37 + m.a.toNat * 2 ^ 31 + m.d.toNat * 2 ^ 25
    + m.v.toNat * 2 ^ 19 + m.b.toNat * 2 ^ 13
def encC (op : Nat) (m : CArgs) : Nat :=
  op * 2 ^ 56 + m.ch.toNat * 2 ^ 52 + m.tko.toNat * 2 ^ 46 + m.tk0.toNat * 2 ^ 40 + m.tk1.toNat * 2 ^ 34
    + m.tk2.toNat * 2 ^ 28 + m.nin.toNat * 2 ^ 26 + m.d.toNat * 2 ^ 20 + m.s.toNat * 2 ^ 14 + m.n.toNat * 2 ^ 8
    + m.dsp.code * 2 ^ 5 + m.ssp.code * 2 ^ 2
/-- A move. -/
def encMv (s : Src) (d op : Nat) : Nat := s.code * 2 ^ 15 + d * 2 ^ 6 + op
def encVa (op : Nat) (s : Src) (u : VaUnit) (f : Fmt) : Nat := encMv s (Port.va u f).code op
def encVp (op : Nat) (s : Src) (f : Fmt) : Nat := encMv s (Port.vp f).code op
def encSf (op : Nat) (s : Src) (f : Fmt) : Nat := encMv s (Port.sf f).code op

/-- The kind of slot that holds an instruction; an event has none. -/
def Instr.kind : Instr → Option SlotKind
  | .move .. | .vaMov .. | .vaAdd .. | .vaSub .. | .vaMul .. | .vaFma .. | .vaFms .. | .vaFnma .. | .vaMin .. | .vaMax ..
  | .vaAbs .. | .vaNeg .. | .vaAnd .. | .vaOr .. | .vaXor .. | .vaAndn .. | .vaNot .. | .vaSll .. | .vaSrl .. | .vaSra ..
  | .vaMulhi .. | .vaSel .. | .vaCeq .. | .vaCne .. | .vaClt .. | .vaCle .. | .vaCun .. | .vaKand .. | .vaKor ..
  | .vaKxor .. | .vaKandn .. | .vaKnot .. | .vaKcnt .. | .vpRotr .. | .vpBcr .. | .vpSumr .. | .vpMaxr .. | .vpMinr ..
  | .vpRotc .. | .vpBcc .. | .vpSumc .. | .vpMaxc .. | .vpMinc .. | .vpTrn16 .. | .vpShuf .. | .sfExp2 .. | .sfLog2 ..
  | .sfRcp .. | .sfRsqrt .. | .sfSqrt .. | .sfTanh .. | .sfSin .. | .sfCos .. | .sfErf .. | .cvDn .. | .cvUp ..
  | .cvUpRounding .. | .wcSig .. | .wcSigclr .. | .wcCmp .. | .apRd .. | .apWr .. | .apAcc .. => some .mv
  | .push .. | .acc .. | .accp .. | .shift .. | .dchk | .drain .. | .clear | .mloc .. | .mfix .. | .mpass | .mretry
  | .mclaim | .mrelease => some .mx
  | .scla .. | .sclb .. | .smap .. | .sidx .. => some .sc
  | .add .. | .sub .. | .and .. | .or .. | .xor .. | .andn .. | .sll .. | .srl .. | .sra .. | .slt .. | .sltu .. | .seq ..
  | .min .. | .max .. | .minu .. | .maxu .. | .mul .. | .mulh .. | .mulhu .. | .div .. | .divu .. | .rem .. | .remu ..
  | .clz .. | .ctz .. | .popc .. | .addi .. | .andi .. | .ori .. | .xori .. | .slli .. | .srli .. | .srai .. | .slti ..
  | .sltiu .. | .li .. | .lui .. | .lsh .. | .beq .. | .bne .. | .blt .. | .bge .. | .bltu .. | .bgeu .. | .j .. | .jl ..
  | .jr .. | .jlr .. | .loop .. | .loopi .. | .lcrd .. | .agbase .. | .agstep .. | .agwrap .. | .agrd .. | .srrd ..
  | .srwr .. | .srset .. | .srclr .. | .trap .. | .done | .brk .. | .resume | .gsres .. | .gsend => some .sa
  | .ldb .. | .ldh .. | .ldw .. | .ldd .. | .ldbs .. | .ldhs .. | .ldws .. | .stb .. | .sth .. | .stw .. | .std ..
  | .vld .. | .vst .. | .vld16 .. | .vld32 .. | .vst16 .. | .vst32 .. | .qld .. | .vgath .. | .vscat .. | .vlut ..
  | .vlst .. | .pref .. | .ipref .. | .aincW .. | .aincD .. | .afaddbW .. | .afaddbD .. | .aaddW .. | .aaddD ..
  | .aaddfW .. | .acasW .. | .acasD .. | .axchgW .. | .axchgD .. | .amaxW .. | .amaxD .. | .aminW .. | .aminD ..
  | .radd .. | .rwait .. | .rrd .. | .fence .. | .gopen .. | .gcommit .. | .gabort .. | .cpy .. | .cpy2d .. | .cpyg ..
  | .cwait .. | .wpwait .. | .red .. | .coll .. | .lqput .. | .tlbiva .. | .tlbiall | .l2wb .. | .l2inv ..
  | .l2wbinv .. => some .mem
  | _ => none

/-- The word of a slot instruction; 0 for an event, which has no encoding. -/
def encode : Instr → Nat
  | .add d a b => encR 0x00 d a b | .sub d a b => encR 0x01 d a b | .and d a b => encR 0x02 d a b
  | .or d a b => encR 0x03 d a b | .xor d a b => encR 0x04 d a b | .andn d a b => encR 0x05 d a b
  | .sll d a b => encR 0x06 d a b | .srl d a b => encR 0x07 d a b | .sra d a b => encR 0x08 d a b
  | .slt d a b => encR 0x09 d a b | .sltu d a b => encR 0x0A d a b | .seq d a b => encR 0x0B d a b
  | .min d a b => encR 0x0C d a b | .max d a b => encR 0x0D d a b | .minu d a b => encR 0x0E d a b
  | .maxu d a b => encR 0x0F d a b | .mul d a b => encR 0x10 d a b | .mulh d a b => encR 0x11 d a b
  | .mulhu d a b => encR 0x12 d a b | .div d a b => encR 0x13 d a b | .divu d a b => encR 0x14 d a b
  | .rem d a b => encR 0x15 d a b | .remu d a b => encR 0x16 d a b
  | .clz d a => encR 0x17 d a 0 | .ctz d a => encR 0x18 d a 0 | .popc d a => encR 0x19 d a 0
  | .addi d a i => encI 0x02 d a i | .andi d a i => encI 0x03 d a i | .ori d a i => encI 0x04 d a i
  | .xori d a i => encI 0x05 d a i | .slli d a i => encSh 0x06 d a i | .srli d a i => encSh 0x07 d a i
  | .srai d a i => encSh 0x08 d a i | .slti d a i => encI 0x09 d a i | .sltiu d a i => encI 0x0A d a i
  | .li d i => encSU 0x0B d.toNat i.toNat | .lui d i => encSU 0x0C d.toNat i.toNat | .lsh d i => encSU 0x0D d.toNat i.toNat
  | .beq a b o => encI 0x10 a b o | .bne a b o => encI 0x11 a b o | .blt a b o => encI 0x12 a b o
  | .bge a b o => encI 0x13 a b o | .bltu a b o => encI 0x14 a b o | .bgeu a b o => encI 0x15 a b o
  | .j o => 0x16 * 2 ^ 24 + o.toNat | .jl d o => encSU 0x17 d.toNat o.toNat
  | .jr a => encSI 0x18 0 a.toNat 0 | .jlr d a => encSI 0x19 d.toNat a.toNat 0
  | .loop n a o => encSL 0x20 n.toNat a.toNat o.toNat | .loopi n c o => encSL 0x21 n.toNat c.toNat o.toNat
  | .lcrd d n => encSI 0x22 d.toNat n.toNat 0
  | .agbase n a => encSI 0x28 n.toNat a.toNat 0 | .agstep n a => encSI 0x29 n.toNat a.toNat 0
  | .agwrap n a => encSI 0x2A n.toNat a.toNat 0 | .agrd d n => encSI 0x2B d.toNat n.toNat 0
  | .srrd d s => encSI 0x30 d.toNat 0 s.toNat | .srwr s a => encSI 0x31 0 a.toNat s.toNat
  | .srset s a => encSI 0x32 0 a.toNat s.toNat | .srclr s a => encSI 0x33 0 a.toNat s.toNat
  | .trap i => encSI 0x38 0 0 i.toNat | .done => encSI 0x39 0 0 0 | .brk i => encSI 0x3A 0 0 i.toNat
  | .resume => encSI 0x3B 0 0 0 | .gsres a => encSI 0x3C 0 a.toNat 0 | .gsend => encSI 0x3D 0 0 0
  | .push s ga gb fa fb p sp => encBeat 0x1 s.toNat ga.toNat gb.toNat fa fb p sp 0
  | .acc s fa fb p sp => encBeat 0x2 s.toNat 0 0 fa fb p sp 0
  | .accp s ga gb fa fb p sp t => encBeat 0x3 s.toNat ga.toNat gb.toNat fa fb p sp t.toNat
  | .shift s n => 0x4 * 2 ^ 28 + s.toNat * 2 ^ 26 + n.toNat * 2 ^ 23
  | .dchk => 0x5 * 2 ^ 28
  | .drain t g a f => 0x6 * 2 ^ 28 + t.toNat * 2 ^ 23 + g.toNat * 2 ^ 19 + b2n a * 2 ^ 18 + b2n f * 2 ^ 17
  | .clear => 0x7 * 2 ^ 28 | .mloc vd => 0x8 * 2 ^ 28 + vd.toNat * 2 ^ 20
  | .mfix i j => 0x9 * 2 ^ 28 + i.toNat * 2 ^ 21 + j.toNat * 2 ^ 14
  | .mpass => 0xA * 2 ^ 28 | .mretry => 0xB * 2 ^ 28 | .mclaim => 0xC * 2 ^ 28 | .mrelease => 0xD * 2 ^ 28
  | .scla s g => 0x1 * 2 ^ 28 + s.toNat * 2 ^ 26 + g.toNat * 2 ^ 24
  | .sclb s g => 0x2 * 2 ^ 28 + s.toNat * 2 ^ 26 + g.toNat * 2 ^ 24
  | .smap g => 0x3 * 2 ^ 28 + g.toNat * 2 ^ 24
  | .sidx s g kw => 0x4 * 2 ^ 28 + s.toNat * 2 ^ 26 + g.toNat * 2 ^ 24 + kw.toNat * 2 ^ 22
  | .move s d => encMv s d.code 0
  | .vaMov s u f => encVa 0x00 s u f | .vaAdd s u f => encVa 0x01 s u f | .vaSub s u f => encVa 0x02 s u f
  | .vaMul s u f => encVa 0x03 s u f | .vaFma s u f => encVa 0x04 s u f | .vaFms s u f => encVa 0x05 s u f
  | .vaFnma s u f => encVa 0x06 s u f | .vaMin s u f => encVa 0x07 s u f | .vaMax s u f => encVa 0x08 s u f
  | .vaAbs s u f => encVa 0x09 s u f | .vaNeg s u f => encVa 0x0A s u f | .vaAnd s u f => encVa 0x0B s u f
  | .vaOr s u f => encVa 0x0C s u f | .vaXor s u f => encVa 0x0D s u f | .vaAndn s u f => encVa 0x0E s u f
  | .vaNot s u f => encVa 0x0F s u f | .vaSll s u f => encVa 0x10 s u f | .vaSrl s u f => encVa 0x11 s u f
  | .vaSra s u f => encVa 0x12 s u f | .vaMulhi s u f => encVa 0x13 s u f | .vaSel s u f => encVa 0x14 s u f
  | .vaCeq s u f => encVa 0x15 s u f | .vaCne s u f => encVa 0x16 s u f | .vaClt s u f => encVa 0x17 s u f
  | .vaCle s u f => encVa 0x18 s u f | .vaCun s u f => encVa 0x19 s u f | .vaKand s u f => encVa 0x1A s u f
  | .vaKor s u f => encVa 0x1B s u f | .vaKxor s u f => encVa 0x1C s u f | .vaKandn s u f => encVa 0x1D s u f
  | .vaKnot s u f => encVa 0x1E s u f | .vaKcnt s u f => encVa 0x1F s u f
  | .vpRotr s f => encVp 0x00 s f | .vpBcr s f => encVp 0x01 s f | .vpSumr s f => encVp 0x02 s f
  | .vpMaxr s f => encVp 0x03 s f | .vpMinr s f => encVp 0x04 s f | .vpRotc s f => encVp 0x08 s f
  | .vpBcc s f => encVp 0x09 s f | .vpSumc s f => encVp 0x0A s f | .vpMaxc s f => encVp 0x0B s f
  | .vpMinc s f => encVp 0x0C s f | .vpTrn16 s f => encVp 0x10 s f | .vpShuf s f => encVp 0x11 s f
  | .sfExp2 s f => encSf 0x00 s f | .sfLog2 s f => encSf 0x01 s f | .sfRcp s f => encSf 0x02 s f
  | .sfRsqrt s f => encSf 0x03 s f | .sfSqrt s f => encSf 0x04 s f | .sfTanh s f => encSf 0x05 s f
  | .sfSin s f => encSf 0x06 s f | .sfCos s f => encSf 0x07 s f | .sfErf s f => encSf 0x08 s f
  | .cvDn s t r o => encMv s (Port.cvDn t).code (r.code * 4 + o.code)
  | .cvUp s t => encMv s (Port.cvUp t).code 0
  | .cvUpRounding s t r => encMv s (Port.cvUp t).code (r.code * 4)
  | .wcSig s => encMv s 0x16E 0 | .wcSigclr s => encMv s 0x16E 1 | .wcCmp s => encMv s 0x16E 2
  | .apRd s => encMv s 0x16F 0 | .apWr s => encMv s 0x16F 1 | .apAcc s => encMv s 0x16F 2
  | .ldb m => encM 0x01 m | .ldh m => encM 0x02 m | .ldw m => encM 0x03 m | .ldd m => encM 0x04 m | .ldbs m => encM 0x05 m
  | .ldhs m => encM 0x06 m | .ldws m => encM 0x07 m | .stb m => encM 0x08 m | .sth m => encM 0x09 m | .stw m => encM 0x0A m
  | .std m => encM 0x0B m | .vld m => encM 0x10 m | .vst m => encM 0x11 m
  | .vld16 m => encMS 0x12 m | .vld32 m => encMS 0x13 m | .vst16 m => encMS 0x14 m | .vst32 m => encMS 0x15 m
  | .qld m => encM 0x16 m | .vgath m => encG 0x18 m | .vscat m => encG 0x19 m | .vlut m => encG 0x1A m
  | .vlst m => encG 0x1B m | .pref m => encM 0x1C m | .ipref m => encM 0x1D m
  | .aincW m => encA 0x20 m | .aincD m => encA 0x21 m | .afaddbW m => encA 0x22 m | .afaddbD m => encA 0x23 m
  | .aaddW m => encA 0x24 m | .aaddD m => encA 0x25 m | .aaddfW m => encA 0x26 m | .acasW m => encA 0x28 m
  | .acasD m => encA 0x29 m | .axchgW m => encA 0x2A m | .axchgD m => encA 0x2B m | .amaxW m => encA 0x2C m
  | .amaxD m => encA 0x2D m | .aminW m => encA 0x2E m | .aminD m => encA 0x2F m | .radd m => encA 0x30 m
  | .rwait m => encA 0x31 m | .rrd m => encA 0x32 m
  | .fence mask sc => 0x34 * 2 ^ 56 + sc.code * 2 ^ 16 + mask.toNat
  | .gopen g => 0x36 * 2 ^ 56 + g.toNat * 2 ^ 54 | .gcommit g => 0x37 * 2 ^ 56 + g.toNat * 2 ^ 54
  | .gabort g => 0x38 * 2 ^ 56 + g.toNat * 2 ^ 54
  | .cpy m => encC 0x40 m | .cpy2d m => encC 0x41 m | .cpyg m => encC 0x42 m
  | .cwait l tk => 0x43 * 2 ^ 56 + l.toNat * 2 ^ 37 + tk.toNat * 2 ^ 23
  | .wpwait l a ch => 0x44 * 2 ^ 56 + l.toNat * 2 ^ 37 + a.toNat * 2 ^ 31 + ch.toNat * 2 ^ 23
  | .red m => encM 0x45 m | .coll m => encM 0x46 m | .lqput m => encM 0x47 m | .tlbiva m => encM 0x50 m
  | .tlbiall => 0x51 * 2 ^ 56 | .l2wb m => encM 0x52 m | .l2inv m => encM 0x53 m | .l2wbinv m => encM 0x54 m
  | _ => 0

/-! ## The table's words -/

/-- An answer without its reason. -/
def toOption {α β : Type} : Except α β → Option β
  | .ok b => some b
  | .error _ => none

/-- The instruction of a slot word as spec/opcode_table.json numbers it: 24 bits are a move, 64 bits a memory slot, 32 bits a
scalar slot, or where no scalar instruction has the word, a matrix or scale slot. -/
def decodeTableWord (nbits w : Nat) : Option Instr :=
  match nbits with
  | 24 => toOption (decodeMove w)
  | 64 => toOption (decodeMem w)
  | 32 => match decodeScalar false w with
    | .ok i => some i
    | .error _ => match decodeMx w with
      | .ok i => some i
      | .error _ => toOption (decodeSc w)
  | _ => none

end Sys2Proof
end

