-- ==== Sys2Proof/Machine/State.lean ====
section
/-! DEFINITION. The state of the part as plain data: every core with its registers, latches, queues and unfinished
operations, the memories, the L2, the register window, the launches, the engines and what is outside, and its value after
reset. Register files and memories are sparse maps whose unlisted entries hold the reset value. -/
namespace Sys2Proof.Machine

open Sys2Proof

/-- A vector value: element number 64 r + c (R202, R171). -/
abbrev Vec := Sparse Elem

/-- A stage slot of the matrix array (R248, R439): the two blocks as their bytes lie, the scales (default 0x7F), the indices,
their tag and width, the pair with its plane field, the sparse bit and the segment. -/
structure StageSlot where
  a : Sparse Byte := []
  b : Sparse Byte := []
  sa : Sparse Byte := []
  sb : Sparse Byte := []
  idx : Sparse Byte := []
  tag : Nat := 0
  width : Nat := 1
  fa : ArrFmt := .e4m3
  fb : ArrFmt := .e4m3
  p : Nat := 0
  sp : Bool := false
  seg : Nat := 0
deriving DecidableEq, Repr

/-- Where the bytes of an access lie once it is routed: main memory with the page's CA and MS, a clearing way unit, a grove
window, the host window, the fabric window, the register window; or the cause that keeps it from being performed. -/
inductive Home
  | main (ca : Nat) (ms : Bool)
  | clr (wu : Nat)
  | grv (core : Nat)
  | host (link ca : Nat)
  | fabric (node : Nat)
  | regs
  | bad (cause : Nat)
deriving DecidableEq, Repr

/-- One part of an access: its place in the access's bytes, its length, where it lies and at what address; the schedule cycle at
which it reaches its home and the wall cycle before which it is not performed; whether a remote port has granted it, whether its
granule has been counted at its home (R86), whether it has performed, and the Rootlink port by which it left (R410). -/
structure Piece where
  off : Nat
  len : Nat
  home : Home
  at_ : Nat
  gpa : Nat := 0
  due : Nat
  wait : Nat := 0
  granted : Bool := false
  counted : Bool := false
  done : Bool := false
  port : Option Nat := none
deriving DecidableEq, Repr

/-- How far an operation has come (R165, R309): it lands by its own count; it waits for translation; its parts are on their
way; it is parked at a ring; it is compared again at a wall cycle; it has performed or its data is in. -/
inductive Phase
  | det
  | walk (due : Nat)
  | fly
  | parked
  | recheck (due : Nat)
  | arrived
deriving DecidableEq, Repr

/-- An operation issued and not yet finished: the unfinished-operation record of R352 to R354 as it runs. act is none for a
VALUE record. land is the schedule cycle of its landing; ws, vs, imgs and bs are the payload; root and tag are XLT.ROOT and the
L2 tag of its context at issue (R93, R117); xdeps and rdeps are the accesses and reductions that an invalidation waits for (R103); the
rest follows the access. -/
structure Op where
  id : Nat
  act : Option Instr
  slot : Nat := 0
  fault : Bool := false
  cause : Nat := 0
  land : Nat
  addr : Nat := 0
  progress : Nat := 0
  cls : Nat := 0
  resvEnd : Nat := 0
  dest : Nat := 0
  dspace : Bool := false
  wit : Bool := false
  ws : List Word := []
  vs : List Vec := []
  imgs : List StageSlot := []
  bs : Sparse Byte := []
  bytes : Nat := 0
  phase : Phase := .det
  pieces : List Piece := []
  got : Sparse Byte := []
  deps : List Nat := []
  va : Nat := 0
  xdeps : List (Nat × Nat) := []
  rdeps : List Nat := []
  gst : Nat := 0
  reissued : Bool := false
  root : Word := 0
  tag : Nat := 0
deriving DecidableEq, Repr

/-- An entry of a stream queue (R176): the operation that reserved it, whether from spm, whether filled, its bytes. -/
structure QEntry where
  op : Nat
  spm : Bool
  filled : Bool
  data : Sparse Byte
deriving DecidableEq, Repr

/-- A line of the instruction cache (R244): its set, its device physical line, its bytes, and the age that orders recency. -/
structure ICLine where
  set_ : Nat
  line : Nat
  data : Sparse Byte
  age : Nat
deriving DecidableEq, Repr

/-- A combined entry of a translation cache of a core (R95, R99): the core's TLB (0), or the micro-TLB of slot ca (1), of slot cb (2)
or of fetch (3); s1 says that stage 1 was on, s2 is the stage-2 table in force. -/
structure TlbEntry where
  core : Nat
  cache : Nat := 0
  s1 : Bool := true
  part : Nat
  asid : Nat
  glob : Bool
  s2 : Nat
  va : Nat
  size : Nat
  pa : Nat
  gpa : Nat
  r : Bool
  w : Bool
  x : Bool
  u : Bool
  ms : Bool
  ca : Nat
deriving DecidableEq, Repr

/-- A leaf found by one stage: output base, page size, permissions and attributes, and its level (R89 to R91; level 0: the stage is
off). -/
structure Leaf where
  pa : Nat
  size : Nat
  r : Bool
  w : Bool
  x : Bool
  u : Bool
  g : Bool
  ms : Bool
  ca : Nat
  tier : Nat
  lvl : Nat
deriving DecidableEq, Repr

/-- What a walk answers to a miss of its die that was merged into it (R101): the core and the operation (its number and 2, or 1 for the
core's fetch), the page, and the two leaves with their combined entry, or the cause err. -/
structure Merged where
  core : Nat
  op : Nat
  va : Nat
  size : Nat
  found : Option (Leaf × Leaf × TlbEntry)
  err : Nat := 0
deriving DecidableEq, Repr

/-- A walk-cache entry of a die (R99): the pointer found at a level for a table path. -/
structure WalkEntry where
  die : Nat
  part : Nat
  asid : Nat
  root : Nat
  level : Nat
  prefix_ : Nat
  table : Nat
deriving DecidableEq, Repr

/-- An entry of a host link's address translation cache (R105, R106): the function whose page it translates, and the page the host
answered. -/
structure AtsEntry where
  link : Nat
  fn : Nat
  page : Nat
  out : Nat
deriving DecidableEq, Repr

/-- A valid line of an L2 slice (R107, R108, R116, R117): its way unit, line number, tag, streaming mark, whether dirty, its
128 bytes, and the sectors that fail verification. -/
structure L2Line where
  wu : Nat
  line : Nat
  tag : Nat
  part : Nat
  stream : Bool
  dirty : Bool
  data : Sparse Byte
  bad : List Nat := []
deriving DecidableEq, Repr

/-- A copy command (R121, R128 to R142): its kind (0 cpy, 1 cpy2d, 2 cpyg), the instruction's fields, the captured registers
and context, its number, the commands and the accesses it waits for, and how far it has come: phase 0 not started, 1 delivering,
2 at its status word, 3 at its ring. chunk is the delivery position at which its chunk in progress ends on a bulk engine, idx the table entry of the
element under way; gsrc and gdst are the granules of its source and destination that it counted last (R86); late bytes that the remote
port of core win has taken are counted in wpn once they lie in the window (R128). -/
structure Cmd where
  kind : Nat
  m : CArgs
  dst : Word
  src : Word
  n : List Word
  stat : Word
  ring : Word
  seq : Nat
  level : Level
  root : Word
  deps : List (Nat × Nat)
  after : List Nat := []
  held : Bool := false
  depBad : Bool := false
  phase : Nat := 0
  code : Nat := 0
  progress : Nat := 0
  idx : Option Nat := none
  due : Nat := 0
  elig : Nat := 0
  chunk : Nat := 0
  gsrc : Option Nat := none
  gdst : Option Nat := none
  fails : Bool := false
  abandoned : Bool := false
  kill : Bool := false
  suspended : Bool := false
  paused : Bool := false
  pauseCause : Nat := 0
  pauseDir : Nat := 0
  pauseVa : Nat := 0
  pausedAt : Nat := 0
  win : Option Nat := none
  late : Nat := 0
deriving DecidableEq, Repr

/-- A copy channel's queue (R121); its registers are system registers. -/
structure Channel where
  cmds : List Cmd := []
deriving DecidableEq, Repr

/-- A token (R132): pending or done, FAIL, and the command bound to it (channel, number). -/
structure Token where
  pend : Bool := false
  fail : Bool := false
  ch : Nat := 0
  seq : Nat := 0
deriving DecidableEq, Repr

/-- A commit group (R319 to R323): 0 CLOSED, 1 OPEN, 2 FAILED; the result of the last commit; the held bytes by physical
address, each with a stamp that orders stores, the lines they occupy with the way unit of each held copy (R320), and their
guest-physical pages. -/
structure Group where
  st : Nat := 0
  last : Nat := 0
  held : Sparse (Nat × Byte) := []
  lines : List Nat := []
  ways : List Nat := []
  pages : List Nat := []
  spilt : Bool := false
deriving DecidableEq, Repr

/-- The matrix array's pass state (R248, R249). -/
structure MxState where
  p : Sparse Elem := []
  cls : Nat := 0
  rc : Sparse Elem := []
  cc : Sparse Elem := []
  mr : Sparse Elem := []
  mc : Sparse Elem := []
  slots : List StageSlot := [{}, {}, {}, {}]
  syn : Sparse Elem := []
  snapAg : List Word := []
  snapLoop : List Word := []
  beats : Nat := 0
  claim : Bool := false
deriving DecidableEq, Repr

/-- A matrix replay in progress (R276): the bundle to issue next, the replay's cycle and that of its next issue, the replay-only
copies of the generators and loops, its operations in flight, whether the failing dchk has been issued again, and the ports that its
operations reserve (R254). -/
structure Replay where
  pc : Nat
  cyc : Nat
  next : Nat
  ag : List Word
  lp : List Word
  pipe : List Op
  last : Bool
  ports : List (Nat × Nat × Nat) := []
deriving DecidableEq, Repr

/-- A trace record made and not yet performed (R429): its first three words after the address's place, the fourth, and the context in which
its stores are made. -/
structure TraceRec where
  ws : List Word
  level : Level
  root : Word
  tag : Nat
deriving DecidableEq, Repr

/-- What a core is doing: bound to no launch; issuing; ended by done or gsend and finishing; being saved by the save engine
(form 0 at a waymark, 1 full, 2 in place), which may hold it for SAVE_AREA_SMALL (1) or SAVE_FAULT (2); saved (R334, R348,
R361). -/
inductive Run
  | free
  | running
  | ended
  | saving (form : Nat) (held : Nat)
  | saved (form : Nat)
deriving DecidableEq, Repr

/-- A core. seat is its number among its launch's save areas (R359), savedAt the area to which it was saved last, hadEnded and hadDone whether
its program and its handler had issued done before the stop (R243). -/
structure Core where
  run : Run := .free
  sched : Nat := 0
  pc : Nat := 0
  level : Level := .user
  nextIssue : Nat := 0
  pend : List (Nat × Nat) := []
  nextId : Nat := 0
  pipe : List Op := []
  x : Sparse Word := []
  v : Sparse Vec := []
  k : Sparse (BitVec 1024) := []
  latch : Sparse Vec := []
  res : Sparse Vec := []
  acc : Sparse Elem := []
  sig : Elem := 0
  spm : Sparse Byte := []
  lane : Sparse Byte := []
  queues : List (List QEntry) := [[], [], [], []]
  icache : List ICLine := []
  icAge : Nat := 0
  fetchWait : Option Nat := none
  fetchFail : Option (Nat × Nat) := none
  sr : Sparse Word := []
  mx : MxState := {}
  unitEnd : Sparse Nat := []
  ports : List (Nat × Nat × Nat) := []
  chans : Sparse Channel := []
  tokens : Sparse Token := []
  groups : List Group := [{}, {}, {}, {}]
  handler : Bool := false
  hlevel : Level := .user
  ext : List Nat := []
  trapped : Option (Nat × Nat) := none
  lastAddr : Nat := 0
  resuming : Bool := false
  kept : List Op := []
  keptH : List Op := []
  staged : Bool := false
  hadEnded : Bool := false
  hadDone : Bool := false
  owed : Bool := false
  stopAt : Word := 0
  pops : List Nat := []
  bundleId : Nat := 0
  frozen : Nat := 0
  swallowed : Nat := 0
  freeze : Nat := 0
  replay : Nat := 0
  stepFrom : Bool := false
  skipBrk : Bool := false
  wmStop : Nat := 0
  wmCount : Nat := 0
  wdStart : Nat := 0
  shadow : BitVec 32 := 0
  launch : Option Nat := none
  lpos : Nat := 0
  seat : Nat := 0
  savedAt : Nat := 0
  tile : Option Nat := none
  part : Nat := 0
  prof : Sparse Word := []
  trcIdx : Nat := 0
  escal : Nat := 0
  trcDue : Nat := 0
  area : Nat := 0
  rport : Nat := 0
  rwrite : List (Nat × Byte) := []
  rportBusy : Sparse Nat := []
  rportHeld : Sparse Nat := []
  replayStart : Nat := 0
  marginDue : Nat := 0
  wit : Bool := false
  mretry : Option Replay := none
  mouter : List Replay := []
  trcQ : List TraceRec := []
deriving DecidableEq, Repr

/-- Launch states (R334). -/
inductive LState | waiting | ready | running | ending
deriving DecidableEq, Repr

/-- A tile of a guarded-surrogate launch (R343): its number, its cores, the numbers of its units among those of its launch's save areas (R359),
whether its residual has been reported, and the residual so far. -/
structure Tile where
  n : Nat
  cores : List Nat
  rcores : List Nat
  seat : Nat := 0
  rseat : Nat := 0
  got : Bool := false
  r : Elem := 0
deriving DecidableEq, Repr

/-- A launch (R326 to R343), or an exact tile of one (parent), whose unit among the save areas is seat; places are what the hardware keeps of
its saved contexts beside their areas, each with the core it had (R323, R349, R363, R381), away the cores that it has left and that its completion frees (R403); unmade says that an exact
tile's image could not be dispatched, confirm when its host-window writes have performed at system scope (R293). -/
structure Launch where
  key : Nat
  part : Nat
  q : Nat
  idx : Nat
  desc : List Word
  st : LState := .waiting
  status : Nat := 0
  readyAt : Nat := 0
  start : Nat := 0
  late : Bool := false
  cores : List Nat := []
  savedPos : Bool := false
  sliceAt : Nat := 0
  stopReq : Nat := 0
  nextTile : Nat := 0
  tiles : List Tile := []
  fallback : Nat := 0
  parent : Option Nat := none
  exactTile : Nat := 0
  pages : List Nat := []
  hashed : Bool := false
  places : List (Nat × Core) := []
  seat : Nat := 0
  away : List Nat := []
  unmade : Bool := false
  confirm : Option Nat := none
deriving DecidableEq, Repr

/-- A page of a buffer of a reduction as it translated at the start: virtual page, home, physical and guest-physical base (R316). -/
structure RedPage where
  va : Nat
  home : Home
  pa : Nat
  gpa : Nat
deriving DecidableEq, Repr

/-- A reduction command at a stack (R314 to R318): who issued it, its parameter block, how far it has come (whether it has begun, its
pages, the sectors it has written, and the last granule that each buffer counted), whether it is being killed, its pause, and the launch of
its core when it was accepted (R430). -/
structure Red where
  key : Nat
  stack : Nat
  core : Nat
  part : Nat
  level : Level
  root : Word
  tag : Nat := 0
  words : List Word
  due : Nat
  launch : Option Nat := none
  begun : Bool := false
  map : List RedPage := []
  next : Nat := 0
  grans : Sparse Nat := []
  kill : Bool := false
  paused : Bool := false
  pauseCause : Nat := 0
  pauseDir : Nat := 0
  pauseVa : Nat := 0
  pausedAt : Nat := 0
deriving DecidableEq, Repr

/-- A rank's collective command at a die (R411 to R414): how far it has come (the elements of SRC that it has read, whether it has sent
them, the bytes of DST that it has written, and the granules that it counted last), its pause, and the launch of its core when it was
accepted (R430). -/
structure Coll where
  key : Nat
  die : Nat
  core : Nat
  part : Nat
  level : Level
  root : Word
  tag : Nat := 0
  words : List Word
  launch : Option Nat := none
  matched : Bool := false
  own : List Elem := []
  sent : Bool := false
  wrote : Nat := 0
  gsrc : Option Nat := none
  gdst : Option Nat := none
  paused : Bool := false
  pauseCause : Nat := 0
  pauseDir : Nat := 0
  pauseVa : Nat := 0
  pausedAt : Nat := 0
deriving DecidableEq, Repr

/-- A chunk in progress on a bulk engine (R143, R148): engine, core, channel, bytes, and the Rootlink ports that it uses (R410). -/
structure Chunk where
  die : Nat
  eng : Nat
  core : Nat
  ch : Nat
  seq : Nat
  bytes : Nat
  due : Nat
  ports : List Nat := []
deriving DecidableEq, Repr

/-- A block scrub in progress or queued (R397, R400). -/
structure Scrub where
  blk : Nat
  keep : Bool
  due : Nat
deriving DecidableEq, Repr

/-- A command of the Ranger that has begun (R418 to R420, R437): who waits for its answer (none: MGMT.CMD), its code, tag and target,
the cores and partitions it acts on, those of the cores that were bound to a launch, and, once it is over or where it was only a question,
the status and data of its answer. -/
structure Job where
  ep : Option Nat
  code : Nat
  tag : Nat := 0
  scope : Nat
  target : Nat
  cores : List Nat
  wait : List Nat := []
  parts : List Nat
  said : Option (Nat × List Byte) := none
deriving DecidableEq, Repr

/-- A wait of a far core at a counter of this node's aperture (R309, R311): its port and tag, the counter's address, the target,
and, where the table was full, the cycle at which it is compared again. -/
structure FarWait where
  port : Nat
  tag : Nat
  pa : Nat
  target : Nat
  due : Option Nat
deriving DecidableEq, Repr

/-- An ATS invalidation that waits for the accesses translated with its entries (R105): link, tag, operations by core and number. -/
structure AtsInv where
  link : Nat
  tag : Nat
  deps : List (Nat × Nat)
deriving DecidableEq, Repr

/-- A response or an event of the Ranger as it goes out (R419): the endpoint, the vendor identifier, the header's fields and the payload. -/
structure RangerMsg where
  ep : Nat
  vendor : BitVec 16
  ver : Nat
  code : Nat
  tag : Nat
  scope : Nat
  target : Nat
  len : Nat
  payload : List Byte
deriving DecidableEq, Repr

/-- An entry of a function's MSI-X table (R408): the message's address and data, and whether it is masked and pending. -/
structure MsixEntry where
  addr : Word := 0
  data : BitVec 32 := 0
  masked : Bool := false
  pending : Bool := false
deriving DecidableEq, Repr

/-- A parked ring wait or another wait held at a home is an operation of its core; a message to the outside: who receives it
and its words. -/
inductive Msg
  | msix (link fn vec : Nat) (addr : Word) (data : BitVec 32)
  | hostCpl (link tag : Nat) (status : Nat) (data : List Byte)
  | hostRead (link : Nat) (translated : Bool) (addr len : Nat)
  | hostWrite (link : Nat) (translated : Bool) (addr : Nat) (data : List Byte)
  | hostAtomic (link : Nat) (translated : Bool) (addr : Nat) (op : Nat) (vals : List Word)
  | fabWrite (node : Nat) (off : Nat) (data : List Byte)
  | fabAtomic (node : Nat) (off : Nat) (op : Nat) (vals : List Word)
  | fabCpl (port tag : Nat) (ok : Bool) (data : List Byte)
  | ats (link fn : Nat) (addr : Nat)
  | pri (link : Nat) (addr : Nat)
  | atsDone (link tag : Nat)
  | ptmRequest (link : Nat)
  | ranger (m : RangerMsg)
  | doe (kind : Nat) (data : List Byte)
  | agent (die status : Nat) (data : Word)
  | collData (die : Nat) (coll : Word) (data : List Byte)
  | collNotice (die : Nat) (coll : Word) (status : Nat)
  | resend (link : Nat)
deriving DecidableEq, Repr

/-- The cursor: the core, slot, bundle address and witness bit of the slot instruction being executed, and the numbers i, j
and k of what an event concerns. -/
structure Cur where
  core : Nat := 0
  slot : Nat := 1
  addr : Nat := 0
  wit : Bool := false
  i : Nat := 0
  j : Nat := 0
  k : Nat := 0
deriving DecidableEq, Repr

/-- A happening: an instruction or event with its cursor. -/
structure Happening where
  cur : Cur
  act : Instr
deriving DecidableEq, Repr

/-- An upset that strikes a 64-bit word of an array from a wall cycle on (R79, R82): the scratchpad (0), the lane slices (1), the
accumulator store (2) or the registers (3) of a core, a word of its instruction cache, by its device physical address (4), or a word of
main memory, or of the L2 line that holds it (5); in one bit or in two. -/
structure Strike where
  wall : Nat
  core : Nat
  arr : Nat
  word : Nat
  double : Bool
deriving DecidableEq, Repr

/-- A happening that the outside brings, or a choice that the manual leaves free, at a wall cycle. -/
structure Input where
  wall : Nat
  hap : Happening
deriving DecidableEq, Repr

/-- The part. -/
structure State where
  cur : Cur
  turn : List Happening
  inputs : List Input
  strikes : List Strike
  freeCtr : Nat
  wall : Nat
  time : Word
  frac : Nat
  cores : Sparse Core
  memCap : Word
  mem : List Host.Cell
  bad : List Nat
  hot : Sparse Nat
  hotSeen : List Nat
  atomCnt : Sparse Nat
  atomCand : Sparse Nat
  atomSeen : List Nat
  l2 : List L2Line
  clr : Sparse Byte
  clrBad : List Nat
  drainPass : Sparse Nat
  wuDue : Sparse Nat
  wuNext : Sparse (Option Word)
  win : Sparse Word
  psr : Sparse Word
  tlb : List TlbEntry
  evicted : List TlbEntry
  merged : List Merged
  walks : List WalkEntry
  ats : List AtsEntry
  refused : List (Nat × Nat × Nat)
  launches : List Launch
  nextKey : Nat
  lqFault : List Nat
  lqLevel : Sparse Nat
  logCount : Sparse Nat
  cqCount : Sparse Nat
  poolStart : Nat
  poolNext : Option Nat
  hotStart : Sparse Nat
  hbStart : Sparse Nat
  reds : List Red
  colls : List Coll
  chunks : List Chunk
  scrubs : List Scrub
  level : Nat
  throtLow : Bool
  lastMeas : Nat
  measDue : Nat
  floors : Sparse Nat
  domains : List PwrDomain
  boot : Option (Nat × Bool)
  resetNext : Option Bool
  dieNext : List Nat
  rangerLog : List (Nat × Bool)
  cfg : Sparse (Option (BitVec 32))
  msix : Sparse MsixEntry
  ptmDue : Nat
  perst : List Nat
  auth : List Nat
  subs : List (Nat × Nat)
  slew : Int
  timeMeas : Nat
  fnReset : List Nat
  fnKill : List Nat
  jobs : List Job
  farWaits : List FarWait
  invs : List AtsInv
  alertAt : Sparse Nat
  pwrMeasAt : Nat
  jx9p : Bool
  out : List Msg
deriving DecidableEq, Repr

/-- Why the machine stops without a next state. -/
inductive Fault
  /-- Raised by an event or a slot instruction whose cursor names a core, die, partition, block, way unit, channel or port
  that the part does not have (R2). Safe: no such happening exists. -/
  | noSuchAgent
deriving DecidableEq, Repr

/-- Why an instruction has no meaning here. -/
inductive Refusal
  /-- Raised by an arm of exec whose instruction is not modelled. Safe: the machine stops where the part goes on. -/
  | notModelled (mnemonic : String)
deriving DecidableEq, Repr

/-- A core as the reset sequence leaves it: bound to no launch, every register at its dispatch value (R125, R176, R204, R227,
R249, R434). Log entries 1 and 2 name the values the manual does not give, and log entry 118 where the round-robin of its window's port
begins: rport is 0, so that position 1 is served first (DESIGN CHOICE). -/
def Core.reset : Core := {}

/-- The state after reset (R434): READY, memory zeroed, partition 0 enabled, every core, way unit and block free. Log
entries 1 to 5 name the values the manual does not give. -/
def State.reset : State where
  cur := {}
  turn := []
  inputs := []
  strikes := []
  freeCtr := 0
  wall := 0
  time := 0
  frac := 0
  cores := []
  memCap := 0xFF0200
  mem := []
  bad := []
  hot := []
  hotSeen := []
  atomCnt := []
  atomCand := []
  atomSeen := []
  l2 := []
  clr := []
  clrBad := []
  drainPass := []
  wuDue := []
  wuNext := []
  win := []
  psr := []
  tlb := []
  evicted := []
  merged := []
  walks := []
  ats := []
  refused := []
  launches := []
  nextKey := 0
  lqFault := []
  lqLevel := []
  logCount := []
  cqCount := []
  poolStart := 0
  poolNext := none
  hotStart := []
  hbStart := []
  reds := []
  colls := []
  chunks := []
  scrubs := []
  level := 0
  throtLow := false
  lastMeas := 0
  measDue := 0
  floors := []
  domains := [.ranger, .io, .die0, .die1, .mem]
  boot := none
  resetNext := none
  dieNext := []
  rangerLog := []
  cfg := []
  msix := []
  ptmDue := 0
  perst := []
  auth := []
  subs := []
  slew := 0
  timeMeas := 0
  fnReset := []
  fnKill := []
  jobs := []
  farWaits := []
  invs := []
  alertAt := []
  pwrMeasAt := 0
  jx9p := false
  out := []

end Sys2Proof.Machine
end

