-- ==== Sys2Proof/Machine/Regs.lean ====
section
/-! DEFINITION. Reading and writing the registers of a core and of the register window, with the reset value of each
register, and the helpers every meaning uses: the core of the cursor, free values, messages to the outside. -/
namespace Sys2Proof.Machine

open Sys2Proof

/-- The answer of a step. -/
abbrev Out := Host.Outcome State Fault Refusal

/-- The numbers of agents of R2, R107, R110, R121, R132, R388. -/
def nCores : Nat := 128

/-! ## Geometry (R11, R73, R107) -/

def dieOf (c : Nat) : Nat := c / 64
def groveOf (c : Nat) : Nat := c / 8
def posOf (c : Nat) : Nat := c % 8
/-- The grove distance between two positions (R156). -/
def meshDist (p q : Nat) : Nat := (max (p / 4) (q / 4) - min (p / 4) (q / 4)) + (max (p % 4) (q % 4) - min (p % 4) (q % 4))

/-! ## Cores -/

/-- Core c of a state. -/
def State.core (s : State) (c : Nat) : Core := Sparse.get Core.reset s.cores c
/-- The state with core c replaced. -/
def State.setCore (s : State) (c : Nat) (k : Core) : State := { s with cores := Sparse.set Core.reset s.cores c k }
/-- Change core c. -/
def State.modCore (s : State) (c : Nat) (f : Core → Core) : State := s.setCore c (f (s.core c))
/-- The core of the cursor. -/
def State.me (s : State) : Core := s.core s.cur.core
/-- Change the core of the cursor. -/
def State.modMe (s : State) (f : Core → Core) : State := s.modCore s.cur.core f

/-- A happening that concerns core c: a fault where the part has no such core. -/
def onCore (s : State) (f : State → State) : Out :=
  if s.cur.core < nCores then .next (f s) else .fault .noSuchAgent

/-- A happening that concerns item i of n: a fault where there is none. -/
def onItem (i n : Nat) (s : State) (f : State → State) : Out :=
  if i < n then .next (f s) else .fault .noSuchAgent

/-- All core numbers. -/
def allCores : List Nat := List.range nCores

/-! ## Free values and messages -/

/-- The counter of free values, advanced. -/
def State.tickFree (s : State) : State := { s with freeCtr := s.freeCtr + 1 }
/-- A free time, and the state after taking it. -/
def State.freeTime (s : State) : Nat × State := (Config.freeDelay s.freeCtr, s.tickFree)
/-- A free choice among the first n numbers (0 where n is 0). -/
def State.pick (s : State) (n : Nat) : Nat × State := (Config.freePick s.freeCtr % n, s.tickFree)
/-- A free choice between two outcomes. -/
def State.coin (s : State) : Bool × State := (Config.freeBit s.freeCtr, s.tickFree)
/-- Bytes that the outside answers. -/
def State.outside (s : State) (n : Nat) : List Byte × State :=
  ((List.range n).map fun i => Config.outsideByte (s.freeCtr + i), { s with freeCtr := s.freeCtr + n })
/-- Send a message outside. -/
def State.send (s : State) (m : Msg) : State := { s with out := s.out ++ [m] }

/-! ## x, v, k, latches (R202 to R205, R227) -/

/-- xn; x0 reads zero. -/
def Core.rx (c : Core) (n : Nat) : Word := if n = 0 then 0 else Sparse.get 0 c.x n
/-- Write xn; a write of x0 is discarded. -/
def Core.wx (c : Core) (n : Nat) (w : Word) : Core := if n = 0 then c else { c with x := Sparse.set 0 c.x n w }
def Core.rv (c : Core) (n : Nat) : Vec := Sparse.get [] c.v n
def Core.wv (c : Core) (n : Nat) (w : Vec) : Core := { c with v := Sparse.set [] c.v n w }
def Core.rk (c : Core) (n : Nat) : BitVec 1024 := Sparse.get 0 c.k n
def Core.wk (c : Core) (n : Nat) (w : BitVec 1024) : Core := { c with k := Sparse.set 0 c.k n w }
/-- An operand latch by destination code. -/
def Core.rLatch (c : Core) (n : Nat) : Vec := Sparse.get [] c.latch n
def Core.wLatch (c : Core) (n : Nat) (w : Vec) : Core := { c with latch := Sparse.set [] c.latch n w }
/-- A result latch by source code. -/
def Core.rRes (c : Core) (n : Nat) : Vec := Sparse.get [] c.res n
def Core.wRes (c : Core) (n : Nat) (w : Vec) : Core := { c with res := Sparse.set [] c.res n w }

/-! ## Vector values (R171, R202, R203) -/

namespace Vec
/-- The number of elements. -/
def size : Nat := 1024
/-- The elements from number k on, n of them, as a list. -/
def listFrom : Nat → Nat → Vec → List Elem
  | _, 0, _ => []
  | k, n + 1, [] => 0 :: listFrom (k + 1) n []
  | k, n + 1, (j, e) :: m => if j = k then e :: listFrom (k + 1) n m else 0 :: listFrom (k + 1) n ((j, e) :: m)
/-- All 1024 elements. -/
def list (v : Vec) : List Elem := listFrom 0 size v
/-- The vector of a list of elements from number k on. -/
def ofListFrom : Nat → List Elem → Vec
  | _, [] => []
  | k, e :: es => if e = 0 then ofListFrom (k + 1) es else (k, e) :: ofListFrom (k + 1) es
def ofList (es : List Elem) : Vec := ofListFrom 0 es
/-- Element (r, c). -/
def at_ (v : Vec) (r c : Nat) : Elem := Sparse.get 0 v (64 * r + c)
/-- Every element the same (R205). -/
def splat (e : Elem) : Vec := if e = 0 then [] else (List.range size).map fun i => (i, e)
/-- The image of a vector in memory (R171): byte i. -/
def byte (v : Vec) (i : Nat) : Byte := BitVec.ofNat 8 ((Sparse.get 0 v (i / 4)).toNat / 2 ^ (8 * (i % 4)))
/-- The image as a map of bytes. -/
def image : Vec → Sparse Byte
  | [] => []
  | (j, e) :: m => ((List.range 4).filterMap fun i =>
      let b : Byte := BitVec.ofNat 8 (e.toNat / 2 ^ (8 * i))
      if b = 0 then none else some (4 * j + i, b)) ++ image m
/-- Put byte b at place i of the image (R173). -/
def setByte (v : Vec) (i : Nat) (b : Byte) : Vec :=
  let e := Sparse.get 0 v (i / 4)
  let sh := 8 * (i % 4)
  let e' : Elem := (e &&& ~~~((255 : Elem) <<< sh)) ||| ((b.setWidth 32) <<< sh)
  Sparse.set 0 v (i / 4) e'
/-- The vector of an image. -/
def ofImage (m : Sparse Byte) : Vec := m.foldl (fun v e => if e.1 < 4096 then setByte v e.1 e.2 else v) []
/-- A mask as a vector value: element p is all ones where bit p is set (R203). -/
def ofMask (k : BitVec 1024) : Vec := (List.range size).filterMap fun p => if k.getLsbD p then some (p, BitVec.allOnes 32) else none
/-- The mask of a vector value: bit p is set where element p is not zero (R203). -/
def mask : Vec → BitVec 1024
  | [] => 0
  | (j, e) :: m => if e = 0 ∨ 1024 ≤ j then mask m else mask m ||| ((1 : BitVec 1024) <<< j)
end Vec

/-- Write a destination by its code (R59), or a result latch by its source code (DSPACE, R352). -/
def Core.wDest (c : Core) (dspace : Bool) (d : Nat) (v : Vec) : Core :=
  if dspace then c.wRes d v
  else if d < 0x100 then c.wv d v
  else if d < 0x140 then c.wx (d - 0x100) ((v.at_ 0 0).setWidth 64)
  else if d < 0x1F0 then c.wLatch d v
  else c.wk (d - 0x1F0) v.mask

/-! ## The register window (R388, R389) -/

/-- Offsets in the window: the page of partition p, and root's page. -/
def ppage (p o : Nat) : Nat := p * 0x1000000 + o
def rpage (o : Nat) : Nat := 0x10000000 + o

/-- The reset value of a window register by its offset; zero where no map says otherwise. -/
def winReset (o : Nat) : Word :=
  if o < 0x10000000 then
    match o % 0x1000000 with
    | 0x1808 => 0x10000_00000000#64          -- SCHED.CTL: WMBOUND 65,536 (R330)
    | 0x3010 => 0x04000000#64                -- ATOM.AFF.CTL: THRESH 0x400 (R307)
    | _ => 0
  else
    let r := o - 0x10000000
    if r = 0x8000 then 0x1C1#64              -- PART.CTL.0 (R391)
    else if 0x9400 ≤ r ∧ r < 0x9800 then 0x64FFFF#64   -- REPLAY.CTL.n (R379)
    else if 0x8000 ≤ r ∧ r < 0x8400 ∧ r % 64 = 0x20 then 1000000#64  -- WDOG.CTL.p (R383)
    else if r = 0xC000 then 2800#64          -- PWR.CTL (R435)
    else if r = 0xC018 then 1#64             -- BOOT.STAT.READY (R434)
    else 0

/-- The stored value of a window register. -/
def State.rw (s : State) (o : Nat) : Word := Sparse.get (winReset o) s.win o
/-- Store a window register. -/
def State.ww (s : State) (o : Nat) (v : Word) : State := { s with win := Sparse.set (winReset o) s.win o v }
/-- A field of a window register. -/
def State.rwF (s : State) (o lo n : Nat) : Nat := getF (s.rw o) lo n
/-- Replace a field of a window register. -/
def State.wwF (s : State) (o lo n v : Nat) : State := s.ww o (setF (s.rw o) lo n v)

/-! ## Partition-shared system registers (R87, R117, R341, R358) -/

/-- The reset value of a shared register by index; L2.OCC.t.LIMIT is held as index 0x800 + t. -/
def psrReset (i : Nat) : Word :=
  if i % 0x1000 = 0x086 then 0x3E8_10000000#64            -- MEM.HOT.CTL: THRESH 0x1000, EPOCH 1000
  else if 0x800 ≤ i % 0x1000 ∧ i % 0x1000 < 0x810 then 0xFFFFFF#64
  else 0

def State.rp (s : State) (p i : Nat) : Word := Sparse.get (psrReset i) s.psr (p * 0x1000 + i)
def State.wp (s : State) (p i : Nat) (v : Word) : State :=
  { s with psr := Sparse.set (psrReset i) s.psr (p * 0x1000 + i) v }

/-! ## Partitions (R391 to R396) -/

namespace State
def partEN (s : State) (p : Nat) : Bool := bitN (s.rw (rpage (0x8000 + 64 * p))).toNat 0
def partSliced (s : State) (p : Nat) : Bool := bitN (s.rw (rpage (0x8000 + 64 * p))).toNat 1
def partFN (s : State) (p : Nat) : Nat := s.rwF (rpage (0x8000 + 64 * p)) 2 4
def partLinks (s : State) (p : Nat) : Nat := s.rwF (rpage (0x8000 + 64 * p)) 6 2
def partRoot (s : State) (p : Nat) : Bool := bitN (s.rw (rpage (0x8000 + 64 * p))).toNat 8
/-- Core c is in the mask PART.CORES.p. -/
def partCore (s : State) (p c : Nat) : Bool := bitN (s.rw (rpage (0x8008 + 64 * p + 8 * (c / 64)))).toNat (c % 64)
/-- Core c is in the pool. -/
def poolCore (s : State) (c : Nat) : Bool := bitN (s.rw (rpage (0x9810 + 8 * (c / 64)))).toNat (c % 64)
/-- CORE.QUARANTINE of core c (R381). -/
def quarantined (s : State) (c : Nat) : Bool := bitN (s.rw (rpage (0x9800 + 8 * (c / 64)))).toNat (c % 64)
/-- POOL.CTL.HOLDER. -/
def poolHolder (s : State) : Nat := s.rwF (rpage 0x9820) 16 4
/-- The cores that partition p may run on now (R392 to R394). -/
def coresOf (s : State) (p : Nat) : List Nat :=
  if !s.partEN p then []
  else if s.partSliced p then (if s.poolHolder = p then allCores.filter s.poolCore else [])
  else allCores.filter (s.partCore p)
/-- The IO domain is powered (R433). -/
def powered (s : State) : Bool := s.domains.contains .io
/-- The device is in recovery (R421). -/
def recovery (s : State) : Bool := bitN (s.rw (rpage 0xC018)).toNat 1
/-- A device reset is under way, or is to begin (R434). -/
def resetting (s : State) : Bool := s.boot.isSome || s.resetNext.isSome
/-- The compute dies and the memories are powered and the reset sequence is over (R433, R434). -/
def live (s : State) : Bool :=
  [PwrDomain.io, .die0, .die1, .mem].all s.domains.contains && !s.recovery && s.boot.isNone
/-- The place of a wall cycle in its aligned group of 16, in device time (R435): wall cycles of 10/19 ns. -/
def pulse (s : State) : Nat := (s.time.toNat * 19 + s.frac) / 10 % 16
/-- Host link j is up: its ports are powered and it is not held in reset (R432, R436). -/
def linkUp (s : State) (j : Nat) : Bool := s.powered && !s.perst.contains j
/-- Partition numbers. -/
def parts : List Nat := List.range 16
/-- Block b is owned by partition p (R396). -/
def owns (s : State) (p b : Nat) : Bool :=
  let w := (s.rw (rpage (0x6000 + 8 * b))).toNat
  fldN w 8 2 == 1 && fldN w 10 4 == p
/-- The partition that owns block b, if any. -/
def ownerOf (s : State) (b : Nat) : Option Nat :=
  let w := (s.rw (rpage (0x6000 + 8 * b))).toNat
  if fldN w 8 2 = 1 then some (fldN w 10 4) else none
end State

/-! ## System registers held in the core -/

/-- The reset value of a system register by index (R249, R262, R265). -/
def srReset (i : Nat) : Word :=
  if 0x0C9 ≤ i ∧ i < 0x0CF then 16#64 else if i = 0x0C6 then 0x200#64 else 0

def Core.rsr (c : Core) (i : Nat) : Word := Sparse.get (srReset i) c.sr i
def Core.wsr (c : Core) (i : Nat) (v : Word) : Core := { c with sr := Sparse.set (srReset i) c.sr i v }
/-- OR bits into a system register. -/
def Core.orsr (c : Core) (i : Nat) (v : Word) : Core := c.wsr i (c.rsr i ||| v)

end Sys2Proof.Machine
end

