-- ==== Sys2Proof/Machine/Mem.lean ====
section
/-! DEFINITION. Main memory and the L2 (R73 to R86, R107, R108, R116, R117): the map, sector checks, lines and their
allocation, and the reads and writes of a part of one sector at its home. mem holds what the memory controllers hold; a line
of the L2 holds its own bytes. -/
namespace Sys2Proof.Machine

open Sys2Proof

/-- The canonical form of main memory: addresses strictly rising, and no entry that holds what an unlisted address reads as, which is
zero (R434: reset zeroes memory). -/
abbrev Memory.wf (m : List Host.Cell) : Bool := Sparse.wf 0 m

/-! ## The map (R73 to R76) -/

/-- The block of a physical address of main memory, or none in a reserved range. -/
def blockOf (pa : Nat) : Option Nat :=
  if pa < 2 ^ 39 then some (pa / 2 ^ 31)
  else if 2 ^ 40 ≤ pa ∧ pa < 2 ^ 41 then some (256 + (pa - 2 ^ 40) / 2 ^ 31)
  else none

/-- The first address of block b. -/
def blockBase (b : Nat) : Nat := if b < 256 then b * 2 ^ 31 else 2 ^ 40 + (b - 256) * 2 ^ 31

/-- Block b is populated by MEM.CAP (R74). -/
def State.populated (s : State) (b : Nat) : Bool :=
  let lp := getF s.memCap 0 10
  if b < 256 then bitN s.memCap.toNat (16 + b / 32)
  else if b < 512 then decide (b < 256 + (lp + 1) / 2)
  else decide (b < 512 + lp / 2)

/-- The address lies in HBM. -/
def inHbm (pa : Nat) : Bool := decide (pa < 2 ^ 39)
/-- The address lies in main memory. -/
def inMain (pa : Nat) : Bool := (blockOf pa).isSome
/-- The home die of a main-memory address (R75). -/
def homeDie (pa : Nat) : Nat :=
  if pa < 2 ^ 39 then pa / 2 ^ 38 else (pa - 2 ^ 40) / 2 ^ 39
/-- The HBM stack of an address (R73). -/
def stackOf (pa : Nat) : Nat := pa / 2 ^ 36
/-- The pseudo-channel of an HBM address within its stack (R76). -/
def pseudoChannel (pa : Nat) : Nat := (fldN pa 9 6) ^^^ (fldN pa 15 6)
/-- The channel of an LPDDR address within its die's half (R76). -/
def lpChannel (pa : Nat) : Nat := (fldN pa 9 5) ^^^ (fldN pa 14 5)

/-! ## The sector check (R77) -/

/-- One bit of the check. -/
def crcBit (crc : Nat) : Nat := if bitN crc 15 then (crc * 2 ^^^ 0x1021) % 0x10000 else crc * 2 % 0x10000
/-- One byte of the check. -/
def crcByte (crc : Nat) (b : Byte) : Nat :=
  crcBit (crcBit (crcBit (crcBit (crcBit (crcBit (crcBit (crcBit (crc ^^^ b.toNat * 256))))))))
/-- The check of bytes in ascending address. -/
def sectorCheck (bs : List Byte) : Nat := bs.foldl crcByte 0xFFFF

/-- The sectors that n bytes at a touch. -/
def sectorsOf (a n : Nat) : List Nat := if n = 0 then [] else upto (a / 32) ((a + n - 1) / 32 - a / 32 + 1)

/-! ## Way units and lines (R107, R108, R110, R116, R117) -/

namespace WuCtl
def owner (w : Word) : Nat := getF w 0 4
def assign (w : Word) : Bool := bitN w.toNat 4
def use (w : Word) : Bool := bitN w.toNat 5
def cur (w : Word) : Nat := getF w 8 4
def state (w : Word) : Nat := getF w 12 2
end WuCtl

/-- WU.CTL.n. -/
def State.wu (s : State) (n : Nat) : Word := s.rw (rpage (8 * n))
def State.setWu (s : State) (n : Nat) (v : Word) : State := s.ww (rpage (8 * n)) v
/-- The die of a way unit. -/
def wuDie (n : Nat) : Nat := n / 768
/-- The way units of a line's home slice, by line number and home die (R108). -/
def homeWays (die line : Nat) : List Nat := upto (die * 768 + line % 48 * 16) 16
/-- The set of a line. -/
def lineSet (line : Nat) : Nat := line / 48 % 8192

/-- The valid L2 line of a line number. -/
def State.lineOf (s : State) (line : Nat) : Option L2Line := s.l2.find? fun l => l.line == line

/-- Replace the line with this number. -/
def State.putLine (s : State) (l : L2Line) : State := { s with l2 := s.l2.map fun m => if m.line = l.line then l else m }
/-- Remove the line with this number. -/
def State.dropLine (s : State) (line : Nat) : State := { s with l2 := s.l2.filter fun m => m.line != line }

/-- The cache way units that partition p may allocate in at a line's home slice (R116). -/
def State.cacheWays (s : State) (p line : Nat) : List Nat :=
  (homeWays (homeDie (line * 128)) line).filter fun n =>
    let w := s.wu n
    WuCtl.state w == 1 && !WuCtl.use w && WuCtl.cur w == p

/-- Two lines lie in one set of one slice (R108). -/
def sameSet (l m : Nat) : Bool := l % 48 == m % 48 && lineSet l == lineSet m && homeDie (l * 128) == homeDie (m * 128)

/-- Every commit group of the part: those of the cores and those kept for the positions of launches that are on no core (R323). -/
def State.allGroups (s : State) : List Group :=
  s.cores.flatMap (fun e => e.2.groups) ++ s.launches.flatMap fun l => l.places.flatMap fun e => e.2.groups

/-- The way units of a line's set that held copies of commit groups occupy (R320). -/
def State.heldWays (s : State) (line : Nat) : List Nat :=
  s.allGroups.flatMap fun g => (g.lines.zip g.ways).filterMap fun x => if sameSet x.1 line then some x.2 else none

/-- An access reached a memory controller or base die: the page's access counter (R86). -/
def State.countAccess (s : State) (pa : Nat) : State :=
  let k := pa / 65536
  let n := Sparse.get 0 s.hot k
  { s with hot := Sparse.set 0 s.hot k (min 65535 (n + 1)) }

/-- Put the bytes of a map at address a, for the places 0 to 127 of a line. -/
def lineBytes (d : Sparse Byte) : List Byte := (List.range 128).map fun i => Sparse.get 0 d i
/-- The line's bytes as a map, from memory. -/
def lineData (m : Sparse Byte) (a : Nat) : Sparse Byte :=
  m.filterMap fun e => if a ≤ e.1 ∧ e.1 < a + 128 then some (e.1 - a, e.2) else none

/-- Write a line back if it is dirty (R118, R120), leaving it valid and clean. A sector that fails goes to memory failing
(R84). -/
def State.writeBack (s : State) (l : L2Line) : State :=
  if l.dirty then
    let a := l.line * 128
    let s1 := { s with mem := Sparse.setBytes s.mem a (lineBytes l.data),
                       bad := (s.bad.filter fun b => b / 4 != l.line) ++ l.bad.map (4 * l.line + ·) }
    (s1.putLine { l with dirty := false }).countAccess a
  else s

/-- Write back and invalidate a line. -/
def State.evict (s : State) (l : L2Line) : State := (s.writeBack l).dropLine l.line

/-- COUNT of L2.OCC.t of partition p (R117). -/
def State.occ (s : State) (p t : Nat) : Nat := (s.l2.filter fun l => l.part == p && l.tag == t).length
/-- LIMIT of L2.OCC.t of partition p (R117). -/
def State.occLimit (s : State) (p t : Nat) : Nat := getF (s.rp p (0x800 + t)) 0 24
/-- L2.OCC.t of partition p as it reads, and a write of it, which changes LIMIT alone (R117). No map of the manual gives the sixteen
registers an index or an offset, so no instruction reaches them. Log entry 75. -/
def State.l2occ (s : State) (p t : Nat) : Word := BitVec.ofNat 64 (s.occ p t % 2 ^ 24 + s.occLimit p t * 2 ^ 32)
def State.setL2occ (s : State) (p t : Nat) (v : Word) : State := s.wp p (0x800 + t) (BitVec.ofNat 64 (getF v 32 24))
/-- COUNT has reached LIMIT. -/
def State.overLimit (s : State) (p t : Nat) : Bool := decide (s.occLimit p t ≤ s.occ p t)

/-- The lines among which the victim is taken: the first class of R117 that is not empty. -/
def State.victims (s : State) (p tag : Nat) (set_ : List L2Line) : List L2Line :=
  let own := set_.filter fun l => l.tag == tag
  let ownStream := own.filter (·.stream)
  let beyond := set_.filter fun l => s.overLimit p l.tag
  if s.overLimit p tag && !own.isEmpty then (if ownStream.isEmpty then own else ownStream)
  else if !beyond.isEmpty then beyond
  else if !ownStream.isEmpty then ownStream
  else set_

/-- A way unit of a line's set becomes free for partition p: one with no valid line and no held copy, or that of the victim of R117,
which is evicted; a held copy is never a victim (R320). None where the partition has no such way unit. The choice within a class is
free. -/
def State.takeWay (s : State) (p tag line : Nat) : Option Nat × State :=
  let ways := (s.cacheWays p line).filter fun n => !(s.heldWays line).contains n
  let here := s.l2.filter fun l => ways.contains l.wu && sameSet l.line line
  let empty := ways.filter fun n => here.all fun l => l.wu != n
  match ways with
  | [] => (none, s)
  | _ => match empty with
    | _ :: _ =>
      let (k, s1) := s.pick empty.length
      (some (empty.getD k 0), s1)
    | [] =>
      let vs := s.victims p tag here
      let (k, s1) := s.pick vs.length
      match vs[k]? with
      | some v => (some v.wu, s1.evict v)
      | none => (none, s1)

/-- A line as memory holds it comes into way unit n. -/
def State.putWay (s : State) (p tag line : Nat) (stream : Bool) (n : Nat) : State :=
  { s with l2 := { wu := n, line := line, tag := tag, part := p, stream := stream, dirty := false
                   data := lineData s.mem (line * 128)
                   bad := (List.range 4).filter fun i => s.bad.contains (4 * line + i) } :: s.l2 }

/-- Allocate a line for partition p, if it owns a cache way unit of the line's home slice that is not being drained (R116, R117). -/
def State.allocate (s : State) (p tag line : Nat) (stream : Bool) : State :=
  if (s.lineOf line).isSome then s
  else match s.takeWay p tag line with
    | (some n, s) => s.putWay p tag line stream n
    | (none, s) => s

/-- Bring in the line of an access that may allocate: the page's CA is cached or streaming (R90, R116); a miss is counted. -/
def State.touch (s : State) (p tag pa ca : Nat) (count : Bool) : State :=
  let line := pa / 128
  if (s.lineOf line).isSome then s
  else
    let s1 := if count then s.countAccess pa else s
    if ca ≥ 2 then s1 else s1.allocate p tag line (ca == 1)

/-! ## Parts of a sector at their home (R80 to R84) -/

/-- A sector is marked where an access finds it: the check beside it is the complement of its bytes' check (R84). -/
def State.marked (s : State) (ms : Bool) (sec : Nat) : Bool :=
  match (if ms then none else s.lineOf (sec / 4)) with
  | some l => l.bad.contains (sec % 4)
  | none => s.bad.contains sec

/-- Mark a sector as failing where an access finds it (R83). -/
def State.markBad (s : State) (ms : Bool) (sec : Nat) : State :=
  match (if ms then none else s.lineOf (sec / 4)) with
  | some l => if l.bad.contains (sec % 4) then s else s.putLine { l with bad := (sec % 4) :: l.bad }
  | none => if s.bad.contains sec then s else { s with bad := sec :: s.bad }

/-- The bytes at a, as the coherent path (the line where one is valid) or the base die (ms, bypassing the caches) holds
them. -/
def State.peek (s : State) (ms : Bool) (a n : Nat) : List Byte :=
  (List.range n).map fun i =>
    match (if ms then none else s.lineOf ((a + i) / 128)) with
    | some l => Sparse.get 0 l.data ((a + i) % 128)
    | none => Sparse.get 0 s.mem (a + i)

/-- The check of bytes as it is held beside their sector: the one made when they entered the protected path, or its complement (R77,
R78, R84). -/
def heldCheck (marked : Bool) (bs : List Byte) : Nat := if marked then 0xFFFF - sectorCheck bs else sectorCheck bs
/-- A consumer's verification of a sector: the held check against the one computed from its bytes (R78). -/
def verifies (marked : Bool) (bs : List Byte) : Bool := heldCheck marked bs == sectorCheck bs

/-- The sector of an address fails verification where an access finds it. -/
def State.sectorBad (s : State) (ms : Bool) (sec : Nat) : Bool := !verifies (s.marked ms sec) (s.peek ms (32 * sec) 32)

/-- Put bytes within one line at a, with no check. -/
def State.poke (s : State) (ms : Bool) (a : Nat) (bs : List Byte) : State :=
  match (if ms then none else s.lineOf (a / 128)) with
  | some l => s.putLine { l with dirty := true, data := Sparse.setBytes l.data (a % 128) bs }
  | none => { s with mem := Sparse.setBytes s.mem a bs }

/-- Upsets that struck a sector of main memory are over (R82). -/
def State.unstrike (s : State) (sec : Nat) : State :=
  if s.strikes.isEmpty then s
  else { s with strikes := s.strikes.filter fun x => !(x.arr == 5 && decide (x.wall ≤ s.wall) && x.word / 4 == sec) }

/-- A whole-sector write repairs a failing sector (R80, R81). -/
def State.mend (s : State) (ms : Bool) (sec : Nat) : State :=
  let s := s.unstrike sec
  match (if ms then none else s.lineOf (sec / 4)) with
  | some l => if l.bad.contains (sec % 4) then s.putLine { l with bad := l.bad.filter (· != sec % 4) } else s
  | none => if s.bad.contains sec then { s with bad := s.bad.filter (· != sec) } else s

/-- Write bytes within one sector: a part of a failing sector is refused and leaves it unchanged (R80). -/
def State.writeSector (s : State) (ms : Bool) (a : Nat) (bs : List Byte) : Option State :=
  if bs.isEmpty then some s
  else if bs.length = 32 then some ((s.mend ms (a / 32)).poke ms a bs)
  else if s.sectorBad ms (a / 32) then none
  else some (s.poke ms a bs)

/-- Read bytes: none where a sector of them fails verification (R83). -/
def State.readChecked (s : State) (ms : Bool) (a n : Nat) : Option (List Byte) :=
  if (sectorsOf a n).any (s.sectorBad ms) then none else some (s.peek ms a n)

/-- Split n bytes at a at the multiples of q: (offset, length) of each part, in ascending address. -/
def splitAt (q a n : Nat) : List (Nat × Nat) :=
  if n = 0 then [] else
  (List.range ((a + n - 1) / q - a / q + 1)).map fun i =>
    let lo := max a ((a / q + i) * q)
    let hi := min (a + n) ((a / q + i + 1) * q)
    (lo - a, hi - lo)

/-- Write bytes of any extent, sector by sector; none where a sector refuses its part. -/
def State.writeBytes (s : State) (ms : Bool) (a : Nat) (bs : List Byte) : Option State :=
  (splitAt 32 a bs.length).foldl (fun acc e => acc.bind fun s => s.writeSector ms (a + e.1) ((bs.drop e.1).take e.2)) (some s)

/-- The partition owns the block of an address and it is populated. -/
def State.reachable (s : State) (p pa : Nat) : Bool :=
  match blockOf pa with
  | some b => s.populated b && s.owns p b
  | none => false

end Sys2Proof.Machine
end

