-- ==== Sys2Proof/Machine/Xlt.lean ====
section
/-! DEFINITION. Address translation (R88 to R106, R438): table entries, the two-stage walk, permissions and causes, the
translation caches and their invalidation. -/
namespace Sys2Proof.Machine

open Sys2Proof

/-- The context of an access: core, partition, level, XLT.ROOT, the tag of its L2 lines, the translation cache it looks in beside
the core's TLB (0 none, 1 and 2 the micro-TLBs of ca and cb, 3 that of fetch), and whose miss it may be (the operation's number and 2, 1
for a fetch, 0 for none); key is the launch whose pages its writes dirty where that is not the core's own (R430). -/
structure Ctx where
  core : Nat
  part : Nat
  level : Level
  root : Word
  tag : Nat := 0
  cache : Nat := 0
  op : Nat := 0
  key : Option Nat := none
deriving DecidableEq, Repr

/-- The context in which the core's next accesses are made. -/
def State.ctx (s : State) (c : Nat) : Ctx :=
  let k := s.core c
  { core := c, part := k.part, level := k.level, root := k.rsr 0x082, tag := getF (k.rsr 0x083) 0 4 }

/-- The permissions an access needs (R96). -/
structure Need where
  r : Bool := false
  w : Bool := false
  x : Bool := false
deriving DecidableEq, Repr

namespace Xlt
def INVALID : Nat := 1
def PERM : Nat := 2
def ENTRY : Nat := 3
def RANGE : Nat := 4
def WALK_ABORT : Nat := 5
def HOST : Nat := 6
def PRIV : Nat := 7
/-- XLT_HOST with the reason NOLINK, which stands above the eight bits of the cause (R92). Log entry 80. -/
def NOLINK : Nat := 0x106
/-- A translation cause (R96). -/
def cause (kind : Nat) (stage2 : Bool) (level : Nat) : Nat := kind + 16 * b2n stage2 + 32 * level
/-- The cause is a translation cause of stage 2. -/
def stage2 (c : Nat) : Bool := decide (c < 128) && bitN c 4 && decide (c ≠ 0)
end Xlt

/-- Ranges above main memory (R92). -/
def inWindow (pa : Nat) : Bool := decide (2 ^ 41 ≤ pa ∧ pa < 2 ^ 41 + 2 ^ 32)
def inHost (pa : Nat) : Bool := decide (2 ^ 46 ≤ pa ∧ pa < 2 ^ 47)
def inFabric (pa : Nat) : Bool := decide (2 ^ 47 ≤ pa ∧ pa < 2 ^ 48)
/-- An address of the register, host or fabric window. -/
def inAnyWindow (pa : Nat) : Bool := inWindow pa || inHost pa || inFabric pa
/-- The tier of a main-memory address (R90). -/
def tierOf (pa : Nat) : Nat := if inHbm pa then 0 else 1

/-- A stage that is off (R438). -/
def offLeaf (a : Nat) : Leaf :=
  { pa := a / 65536 * 65536, size := 65536, r := true, w := true, x := true, u := true, g := false, ms := false
    ca := if inMain a then 0 else 2, tier := 2, lvl := 0 }

/-- The index of a level's table (R88). -/
def tableIndex (va lvl : Nat) : Nat := va / 2 ^ (16 + 13 * (lvl - 1)) % 8192

/-- What an entry is at a level: a pointer to the next table, a leaf, or the kind of its fault (R89 to R91). The checks that
depend on the final output address are made by combine. -/
def readEntry (w lvl : Nat) (stage2 : Bool) : Except Nat (Sum Nat Leaf) :=
  if !bitN w 0 then .error Xlt.INVALID
  else if fldN w 11 5 != 0 || fldN w 56 8 != 0 then .error Xlt.ENTRY
  else
    let addr := fldN w 16 32 * 65536
    if !bitN w 1 then
      if lvl = 1 || fldN w 2 9 != 0 then .error Xlt.ENTRY else .ok (.inl addr)
    else if lvl = 3 || (lvl == 2 && fldN w 16 13 != 0) || fldN w 8 2 == 3 || (stage2 && !bitN w 5) then .error Xlt.ENTRY
    else .ok (.inr { pa := addr, size := if lvl = 2 then 2 ^ 29 else 65536, r := bitN w 2, w := bitN w 3, x := bitN w 4
                     u := bitN w 5, g := bitN w 6 && !stage2, ms := bitN w 7, ca := fldN w 8 2, tier := fldN w 10 1
                     lvl := lvl })

/-- A walker's read of an 8-byte entry through the home L2 (R100): aborted outside populated main memory, at a sector that
fails, or for stage 1 in a block the partition does not own (R396). DESIGN CHOICE, log entry 105: a table address in the register, host
or fabric window is aborted too. -/
def walkerRead (s : State) (p : Nat) (lvl : Level) (stage2 : Bool) (pa : Nat) : Option Nat :=
  match blockOf pa with
  | some b =>
    if s.populated b && (stage2 || lvl == .root || s.owns p b) then (s.readChecked false pa 8).map natLE else none
  | none => none

/-- The walk's answer, with the device physical addresses that walkers read for it, each with whether stage 2 made the read. -/
abbrev Walked (α : Type) := Except Nat α × List (Nat × Bool)

/-- A walk-cache entry that may serve a lookup; whether it does is free (R99). -/
def walkHit (s : State) (die p asid root level pre : Nat) : Option Nat :=
  (s.walks.find? fun e => e.die == die && e.part == p && e.asid == asid && e.root == root && e.level == level
    && e.prefix_ == pre).map (·.table)

/-- Remember a pointer in the die's walk cache of 1024 entries; which entry makes room is free (R99). -/
def State.addWalk (s : State) (die p asid root level pre table : Nat) : State :=
  if (walkHit s die p asid root level pre).isSome then s
  else
    let e : WalkEntry := { die := die, part := p, asid := asid, root := root, level := level, prefix_ := pre, table := table }
    let here := s.walks.filter (·.die == die)
    if here.length < 1024 then { s with walks := e :: s.walks }
    else
      let (k, s) := s.pick here.length
      { s with walks := e :: (match here[k]? with | some v => s.walks.erase v | none => s.walks) }

/-- Walk one table from level lvl down. rd reads the entry at an address of the stage's input to the table. -/
def walkFrom (va : Nat) (stage2 : Bool) (rd : Nat → Walked Nat) : Nat → Nat → Walked Leaf
  | 0, _ => (.error (Xlt.cause Xlt.ENTRY stage2 1), [])
  | lvl + 1, table =>
    let r := rd (table + 8 * tableIndex va (lvl + 1))
    match r.1 with
    | .error k => (.error (if k < 8 then Xlt.cause k stage2 (lvl + 1) else k), r.2)
    | .ok w => match readEntry w (lvl + 1) stage2 with
      | .error k => (.error (Xlt.cause k stage2 (lvl + 1)), r.2)
      | .ok (.inr leaf) => (.ok leaf, r.2)
      | .ok (.inl next) =>
        let t := walkFrom va stage2 rd lvl next
        (t.1, r.2 ++ t.2)

/-- The stage-2 control of partition p (R94). -/
def State.s2 (s : State) (p : Nat) : Word := s.rw (rpage (0x8018 + 64 * p))

/-- Stage 2 of an address (R94, R95, R438). -/
def stage2Walk (s : State) (p : Nat) (lvl : Level) (gpa : Nat) : Walked Leaf :=
  let ctl := s.s2 p
  if bitN ctl.toNat 0 then
    walkFrom gpa true (fun a => (match walkerRead s p lvl true a with | some w => .ok w | none => .error Xlt.WALK_ABORT, [(a, true)])) 3
      (getF ctl 16 32 * 65536)
  else if s.partRoot p then (.ok (offLeaf gpa), [])
  else (.error (Xlt.cause Xlt.INVALID true 3), [])

/-- The output address of a leaf for an input address. -/
def Leaf.out (l : Leaf) (a : Nat) : Nat := l.pa + a % l.size

/-- The checks that depend on the final output (R91, R95) for a leaf of one stage; o is the other stage's leaf. With both stages on, MS
and CA of the stage-1 leaf too are checked against the device physical output. Log entry 79. -/
def leafFits (l o : Leaf) (pa : Nat) : Bool :=
  (l.lvl == 0 || !(l.ms && !inHbm pa)) && (l.lvl == 0 || !(inWindow pa && l.ca != 2)) &&
  (l.lvl == 0 || !inMain pa || l.tier == (if o.lvl == 0 then tierOf pa else o.tier))

/-- A stage-2 leaf alone keeps R91 for an output address. -/
def Leaf.fits (l : Leaf) (pa : Nat) : Bool := l.lvl == 0 || leafFits l { l with lvl := 0 } pa

/-- Read a stage-1 table entry: its address is translated by stage 2, whose leaf must keep R91 and permit reading (log entry 78). The
walk cache may hold the translation of a table page. -/
def stage1Read (s : State) (p : Nat) (lvl : Level) (die : Nat) (useCache : Bool) (ga : Nat) : Walked Nat :=
  let entry (pa : Nat) : Except Nat Nat := match walkerRead s p lvl false pa with | some w => .ok w | none => .error Xlt.WALK_ABORT
  match (if useCache then walkHit s die p 0 (s.s2 p).toNat 0 (ga / 65536) else none) with
  | some t => (entry (t + ga % 65536), [(t + ga % 65536, false)])
  | none =>
    let w := stage2Walk s p lvl ga
    match w.1 with
    | .error k => (.error k, w.2)
    | .ok l =>
      if !l.fits (l.out ga) then (.error (Xlt.cause Xlt.ENTRY true l.lvl), w.2)
      else if !l.r then (.error (Xlt.cause Xlt.PERM true l.lvl), w.2)
      else (entry (l.out ga), w.2 ++ [(l.out ga, false)])

/-- The combined leaf of both stages (R95, R438). -/
def combine (l1 l2 : Leaf) : Leaf :=
  { pa := 0, size := if l1.lvl = 0 then l2.size else if l2.lvl = 0 then l1.size else min l1.size l2.size
    r := l1.r && l2.r, w := l1.w && l2.w, x := l1.x && l2.x, u := l1.u && l2.u, g := l1.g, ms := l1.ms || l2.ms
    ca := if l1.lvl = 0 then l2.ca else if l2.lvl = 0 then l1.ca else max l1.ca l2.ca, tier := 0, lvl := 1 }

/-- The entry that two leaves give for an address (R95, R438). -/
def entryOf (s : State) (cx : Ctx) (va gpa pa : Nat) (l1 l2 : Leaf) : TlbEntry :=
  let l := combine l1 l2
  { core := cx.core, cache := cx.cache, s1 := bitN cx.root.toNat 0, part := cx.part, asid := fldN cx.root.toNat 4 12, glob := l.g
    s2 := (s.s2 cx.part).toNat, va := va / l.size * l.size, size := l.size, pa := pa / l.size * l.size, gpa := gpa / l.size * l.size
    r := l.r, w := l.w, x := l.x, u := l.u, ms := l.ms
    ca := if l1.lvl = 0 && l2.lvl = 0 then (if inMain pa then 0 else 2) else l.ca }

/-- The full two-stage walk for a context and address: the two leaves and the combined entry. Where several faults meet, stage 1's walk
comes before stage 2's, and a malformed leaf before a missing permission (log entry 76). -/
def fullWalk (s : State) (cx : Ctx) (useCache : Bool) (va : Nat) : Walked (Leaf × Leaf × TlbEntry) :=
  let die := dieOf cx.core
  let root := cx.root.toNat
  let on := bitN root 0
  let asid := fldN root 4 12
  let top := fldN root 16 32 * 65536
  let rd := stage1Read s cx.part cx.level die useCache
  let w1 : Walked Leaf :=
    if !on then (.ok (offLeaf va), [])
    else
      match (if useCache then walkHit s die cx.part asid top 2 (va / 2 ^ 29) else none) with
      | some t => walkFrom va false rd 1 t
      | none => match (if useCache then walkHit s die cx.part asid top 3 (va / 2 ^ 42) else none) with
        | some t => walkFrom va false rd 2 t
        | none => walkFrom va false rd 3 top
  match w1.1 with
  | .error k => (.error k, w1.2)
  | .ok l1 =>
    let gpa := l1.out va % 2 ^ 48
    let w2 : Walked Leaf := if !on && 2 ^ 48 ≤ va then (.error (Xlt.cause Xlt.RANGE false 0), []) else stage2Walk s cx.part cx.level gpa
    match w2.1 with
    | .error k => (.error k, w1.2 ++ w2.2)
    | .ok l2 =>
      let pa := l2.out gpa
      (if !leafFits l1 l2 pa then .error (Xlt.cause Xlt.ENTRY false l1.lvl)
        else if l2.lvl != 0 && !leafFits l2 { l1 with lvl := 0 } pa then .error (Xlt.cause Xlt.ENTRY true l2.lvl)
        else .ok (l1, l2, entryOf s cx va gpa pa l1 l2), w1.2 ++ w2.2)

/-- The cause of a missing permission, or none (R96): reads, writes and fetches before the level. -/
def denied (need : Need) (lvl : Level) (l1 l2 : Leaf) : Option Nat :=
  let lacks (l : Leaf) : Bool := (need.r && !l.r) || (need.w && !l.w) || (need.x && !l.x)
  if lacks l1 then some (Xlt.cause Xlt.PERM false l1.lvl)
  else if lacks l2 then some (Xlt.cause Xlt.PERM true l2.lvl)
  else if lvl == .user && !l1.u then some (Xlt.cause Xlt.PRIV false l1.lvl)
  else if lvl == .user && !l2.u then some (Xlt.cause Xlt.PRIV true l2.lvl)
  else none

/-- The cached entries that translate an address and grant the access, in the core's TLB or the micro-TLB of the access (R99). One that
lacks a permission is no hit: the access walks (log entry 77). -/
def tlbHits (s : State) (cx : Ctx) (need : Need) (va : Nat) : List TlbEntry :=
  s.tlb.filter fun e => e.core == cx.core && (e.cache == 0 || e.cache == cx.cache) && e.s1 == bitN cx.root.toNat 0 && e.part == cx.part
    && (e.glob || e.asid == fldN cx.root.toNat 4 12) && e.s2 == (s.s2 cx.part).toNat && e.va == va / e.size * e.size
    && (!need.r || e.r) && (!need.w || e.w) && (!need.x || e.x) && (cx.level != .user || e.u)

/-- The entries of a translation cache (R99). -/
def cacheSize : Nat → Nat | 0 => 2048 | 3 => 16 | _ => 64

/-- An entry enters a translation cache of its core; when the cache is full, or in the eight-way TLB when the entry's set may be, one
makes room. Which does is free (R99). One that made room is kept in mind while accesses translated with it may be in flight (R103). -/
def State.enter (s : State) (e : TlbEntry) : State :=
  if s.tlb.contains e then s else
  let here := s.tlb.filter fun x => x.core == e.core && x.cache == e.cache
  let (b, s) := if cacheSize e.cache ≤ here.length then (true, s) else if e.cache = 0 && 8 ≤ here.length then s.coin else (false, s)
  let (k, s) := if b then s.pick here.length else (0, s)
  match (if b then here[k]? else none) with
  | some v =>
    { s with tlb := e :: s.tlb.erase v
             evicted := v :: s.evicted.filter fun x => (s.core x.core).pipe.any fun o => o.phase == .fly }
  | none => { s with tlb := e :: s.tlb }

/-- The pointers that a completed walk leaves in the die's walk cache. -/
def State.learn (s : State) (cx : Ctx) (va : Nat) : State :=
  let root := cx.root.toNat
  let asid := fldN root 4 12
  let top := fldN root 16 32 * 65536
  let die := dieOf cx.core
  let rd := stage1Read s cx.part cx.level die false
  let at_ (table lvl : Nat) : Option Nat :=
    match (rd (table + 8 * tableIndex va lvl)).1 with
    | .ok w => match readEntry w lvl false with | .ok (.inl t) => some t | _ => none
    | .error _ => none
  let page (s : State) (t : Nat) : State :=
    match (stage2Walk s cx.part cx.level t).1 with
    | .ok l => if l.lvl = 0 then s else s.addWalk die cx.part 0 (s.s2 cx.part).toNat 0 (t / 65536) (l.out t / 65536 * 65536)
    | .error _ => s
  let s0 := page s top
  match at_ top 3 with
  | none => s0
  | some t2 =>
    let s1 := page (s0.addWalk die cx.part asid top 3 (va / 2 ^ 42) t2) t2
    match at_ t2 2 with
    | none => s1
    | some t1 => page (s1.addWalk die cx.part asid top 2 (va / 2 ^ 29) t1) t1

/-- A cached entry serves an access, and whether one does is free (R99). -/
def tlbLook (s : State) (cx : Ctx) (need : Need) (va : Nat) : Option TlbEntry × State :=
  let hits := tlbHits s cx need va
  let (k, s) := if hits.isEmpty then (0, s) else s.pick (hits.length + 1)
  match hits[k]? with
  | some e => (some e, if e.cache = cx.cache then s else s.enter { e with cache := cx.cache })
  | none => (none, s)

/-- A miss walks; whether the walk cache serves it is free (R99). -/
def missWalk (s : State) (cx : Ctx) (va : Nat) : Walked (Leaf × Leaf × TlbEntry) × State :=
  let (fresh, s) := if s.walks.isEmpty then (true, s) else s.coin
  (fullWalk s cx (!fresh) va, s)

/-- The answer of a walk to an access (R96, R99): one that succeeds enters the caches, one that faults does not. -/
def State.walkAnswer (s : State) (cx : Ctx) (need : Need) (va : Nat) (r : Except Nat (Leaf × Leaf × TlbEntry)) : Except Nat TlbEntry × State :=
  match r with
  | .error k => (.error k, s)
  | .ok (l1, l2, e) => match denied need cx.level l1 l2 with
    | some k => (.error k, s)
    | none =>
      let e := { e with core := cx.core, cache := cx.cache }
      let s := if e.s1 then s.learn cx va else s
      let s := s.enter { e with cache := 0 }
      (.ok e, if cx.cache = 0 then s else s.enter e)

/-- The physical address an entry gives. -/
def TlbEntry.out (e : TlbEntry) (va : Nat) : Nat := e.pa + va % e.size

/-- The device physical line of a virtual line, as the fetch micro-TLB gives it: by a cached entry, or by a walk that succeeds
(R99, R244). -/
def State.fetchPa (s : State) (c line : Nat) : Option Nat :=
  let cx := { s.ctx c with cache := 3 }
  let need : Need := { x := true }
  let va := line * 128
  if 2 ^ 55 ≤ va then none
  else match (tlbHits s cx need va).head? with
  | some e => some (e.out va / 128)
  | none => match (fullWalk s cx false va).1 with
    | .error _ => none
    | .ok (l1, l2, e) => if (denied need cx.level l1 l2).isSome then none else some (e.out va / 128)

/-- The pages of the tables on an address's path, as the tables and the walk cache's pointers lead to them (R88, R99). -/
def State.tablePages (s : State) (cx : Ctx) (va : Nat) : List Nat :=
  let root := cx.root.toNat
  let top := fldN root 16 32 * 65536
  let rd := stage1Read s cx.part cx.level (dieOf cx.core) false
  let at_ (table lvl : Nat) : Option Nat :=
    match (rd (table + 8 * tableIndex va lvl)).1 with
    | .ok w => match readEntry w lvl false with | .ok (.inl t) => some t | _ => none
    | .error _ => none
  let t2 := at_ top 3
  let t1 := t2.bind fun t => at_ t 2
  let held := s.walks.filter fun e => e.part == cx.part && ((e.level == 2 && e.prefix_ == va / 2 ^ 29) || (e.level == 3 && e.prefix_ == va / 2 ^ 42))
  ((top :: t2.toList) ++ t1.toList ++ held.flatMap fun e => [e.root, e.table]).map (· / 65536)

/-- Remove the translations of a page of a partition, and the walk-cache entries on its table path: the pointers, and the translations of
the pages of its tables (R103). -/
def State.invalidateVa (s : State) (cx : Ctx) (asid va : Nat) : State :=
  let p := cx.part
  let pages := s.tablePages cx va
  let mine (e : TlbEntry) : Bool := e.part == p && (e.glob || e.asid == asid) && e.va == va / e.size * e.size
  { s with tlb := s.tlb.filter fun e => !mine e
           evicted := s.evicted.filter fun e => !mine e
           merged := s.merged.filter fun m => !((s.core m.core).part == p && m.va == va / m.size * m.size)
           walks := s.walks.filter fun e => !(e.part == p && ((e.level == 2 && e.prefix_ == va / 2 ^ 29)
             || (e.level == 3 && e.prefix_ == va / 2 ^ 42) || (e.level == 0 && pages.contains e.prefix_))) }

/-- Remove every translation of a partition, or of the device (R103). -/
def State.invalidateAll (s : State) (p : Option Nat) : State :=
  match p with
  | none => { s with tlb := [], evicted := [], merged := [], walks := [] }
  | some p => { s with tlb := s.tlb.filter (·.part != p), evicted := s.evicted.filter (·.part != p)
                       merged := s.merged.filter fun m => (s.core m.core).part != p, walks := s.walks.filter (·.part != p) }

/-- A guest-physical address of a partition's register (R330, R390, R441) through its stage 2, whose leaf must grant what the agent
does; or through none for root's. With the answer go the walker's reads. -/
def agentAddr (s : State) (p : Option Nat) (need : Need) (a : Nat) : Walked Nat :=
  match p with
  | none => (.ok a, [])
  | some p =>
    let w := stage2Walk s p .root a
    (match w.1 with
      | .error k => .error k
      | .ok l =>
        if !l.fits (l.out a) then .error (Xlt.cause Xlt.ENTRY true l.lvl)
        else if (need.r && !l.r) || (need.w && !l.w) then .error (Xlt.cause Xlt.PERM true l.lvl)
        else .ok (l.out a), w.2)

end Sys2Proof.Machine
end

