-- ==== Sys2Proof/Machine/Win.lean ====
section
/-! DEFINITION. The device register window (R388, R389 and the chapters R389 names): which offsets are assigned, the levels that
read and write them, the bits a write changes, the computed registers, and which happening a write is. -/
namespace Sys2Proof.Machine

open Sys2Proof

/-- How a register is reached: the level that reads it, the level that writes it (none: read-only) and the bits a write
changes. -/
structure WinReg where
  rd : Level
  wr : Option Level
  mask : Word
deriving DecidableEq, Repr

/-- The layout of STOP.LOG, which the other logs share (R362, R385, R390, R307). -/
def logMask : Word := maskHL 47 3 ||| maskHL 51 48
def allBits : Word := BitVec.allOnes 64

/-- A register of a partition page by its offset in the page (R389). -/
def pageReg (o : Nat) : Option WinReg :=
  if o % 8 ≠ 0 then none
  else if 0x1000 ≤ o ∧ o < 0x1200 then some ⟨.partition, some .partition, 1 ||| maskHL 47 7 ||| maskHL 51 48⟩
  else if 0x1200 ≤ o ∧ o < 0x1400 then some ⟨.partition, some .partition, maskHL 31 0⟩
  else if 0x1400 ≤ o ∧ o < 0x1600 then some ⟨.partition, none, 0⟩
  else if 0x1600 ≤ o ∧ o < 0x1800 then some ⟨.partition, some .partition, maskHL 47 5 ||| maskHL 51 48⟩
  else match o with
  | 0x1800 => some ⟨.partition, some .partition, 0⟩                                -- LQ.CANCEL, write-only (R334)
  | 0x1808 => some ⟨.root, some .root, maskHL 16 0 ||| maskHL 52 32⟩               -- SCHED.CTL (R330)
  | 0x2000 => some ⟨.partition, some .partition, 0⟩                                -- CPY.FRES (R140)
  | 0x2008 => some ⟨.partition, some .partition, logMask⟩                          -- FAULTQ
  | 0x2010 => some ⟨.partition, none, 0⟩ | 0x2018 => some ⟨.partition, none, 0⟩    -- BUD.LVL.u (R146)
  | 0x2020 => some ⟨.partition, none, 0⟩ | 0x2028 => some ⟨.partition, none, 0⟩
  | 0x3000 => some ⟨.partition, some .partition, logMask⟩                          -- MEMERR.LOG
  | 0x3008 => some ⟨.partition, some .partition, maskHL 31 0⟩                      -- MEMERR.ACK
  | 0x3010 => some ⟨.partition, some .partition, 1 ||| maskHL 31 16⟩               -- ATOM.AFF.CTL (R307)
  | 0x3018 => some ⟨.partition, some .partition, logMask⟩                          -- ATOM.AFF.LOG
  | 0x3020 => some ⟨.partition, some .partition, 1⟩                                -- RING.OVF.STAT (R310)
  | 0x3028 => some ⟨.partition, none, 0⟩                                           -- RING.OVF.ADDR
  | 0x4000 => some ⟨.partition, some .partition, 0⟩                                -- SAVE.RETRY (R362)
  | 0x4008 => some ⟨.partition, some .partition, logMask⟩                          -- STOP.LOG
  | 0x4010 => some ⟨.partition, some .partition, maskHL 6 0 ||| maskHL 47 16⟩      -- CTX.RESTORE (R363)
  | 0x5000 => some ⟨.partition, some .partition, logMask⟩                          -- REL.LOG
  | 0x5008 => some ⟨.partition, some .partition, 0⟩                                -- HB.KICK (R384)
  | 0x6000 => some ⟨.partition, some .partition, logMask⟩                          -- PMQ.LOG
  | 0x6008 => some ⟨.partition, some .partition, 0⟩                                -- PMQ.POST (R398)
  | 0x7000 => some ⟨.partition, some .partition, 1 ||| maskHL 47 3 ||| maskHL 51 48⟩   -- HASH.CTL (R430)
  | _ => none

/-- A register of root's page by its offset in the page (R389). -/
def rootReg (o : Nat) : Option WinReg :=
  if o % 8 ≠ 0 then none
  else if o < 0x3000 then some ⟨.root, some .root, 0x3F⟩                                          -- WU.CTL.n
  else if o = 0x4000 then some ⟨.root, some .root, 1 ||| maskHL 47 3⟩                             -- L2.HO.RING
  else if 0x5000 ≤ o ∧ o < 0x5200 then some ⟨.root, some .root, maskHL 19 0 ||| maskHL 26 24 ||| maskHL 51 32⟩
  else if 0x6000 ≤ o ∧ o < 0x7800 then some ⟨.root, some .root, 0x1F⟩                             -- BLK.CTL.b
  else if 0x8000 ≤ o ∧ o < 0x8400 then
    match o % 64 with
    | 0x00 => some ⟨.root, some .root, 0xFF⟩                         -- PART.CTL.p
    | 0x08 => some ⟨.root, some .root, allBits⟩ | 0x10 => some ⟨.root, some .root, allBits⟩    -- PART.CORES.p
    | 0x18 => some ⟨.root, some .root, 1 ||| maskHL 47 16⟩           -- XLT.S2.p
    | 0x20 => some ⟨.root, some .root, maskHL 23 0⟩                  -- WDOG.CTL.p
    | 0x28 => some ⟨.root, some .root, maskHL 15 0⟩                  -- HB.CTL.p
    | 0x30 => some ⟨.root, some .root, allBits⟩                      -- CNT.OFS.p
    | 0x38 => some ⟨.root, some .root, 0⟩                            -- PMQ.SEND.p
    | _ => none
  else if 0x9000 ≤ o ∧ o < 0x9400 then some ⟨.root, some .root, 0xF⟩                              -- MARGIN.OFS.n
  else if 0x9400 ≤ o ∧ o < 0x9800 then some ⟨.root, some .root, maskHL 31 0⟩                      -- REPLAY.CTL.n
  else if 0xB400 ≤ o ∧ o < 0xB800 then some ⟨.root, some .root, maskHL 15 0⟩                      -- RL.ROUTE.n
  else if 0xC100 ≤ o ∧ o < 0xC180 then some ⟨.root, some .root, 0xF⟩                              -- PWR.FLOOR.p
  else match o with
  | 0x9800 => some ⟨.root, some .root, allBits⟩ | 0x9808 => some ⟨.root, some .root, allBits⟩     -- CORE.QUARANTINE
  | 0x9810 => some ⟨.root, some .root, allBits⟩ | 0x9818 => some ⟨.root, some .root, allBits⟩     -- POOL.CORES
  | 0x9820 => some ⟨.root, some .root, maskHL 15 0⟩                                               -- POOL.CTL
  | 0xA000 => some ⟨.root, some .root, logMask⟩ | 0xA008 => some ⟨.root, some .root, logMask⟩     -- REL.LOG.ROOT, STOP.LOG
  | 0xA010 => some ⟨.root, some .root, logMask⟩ | 0xA018 => some ⟨.root, some .root, maskHL 31 0⟩ -- MEMERR
  | 0xA020 => some ⟨.root, some .root, logMask⟩                                                   -- PMQ.LOG
  | 0xB000 => some ⟨.root, some .root, maskHL 6 0⟩ | 0xB008 => some ⟨.root, some .root, maskHL 23 0⟩
  | 0xB010 => some ⟨.root, none, 0⟩
  | 0xB800 => some ⟨.root, some .root, 3⟩ | 0xB808 => some ⟨.root, some .root, allBits⟩
  | 0xB810 => some ⟨.root, some .root, 0⟩ | 0xB818 => some ⟨.root, none, 0⟩
  | 0xC000 => some ⟨.root, some .root, maskHL 11 0⟩
  | 0xC008 => some ⟨.root, none, 0⟩ | 0xC010 => some ⟨.root, none, 0⟩ | 0xC018 => some ⟨.root, none, 0⟩
  | 0xC020 => some ⟨.root, none, 0⟩ | 0xC028 => some ⟨.root, none, 0⟩ | 0xC030 => some ⟨.root, none, 0⟩
  | _ => none

/-- The range an offset of the window lies in (R388). -/
inductive WinRange | page (p o : Nat) | root (o : Nat) | reserved
deriving DecidableEq, Repr

def winRange (o : Nat) : WinRange :=
  if o < 0x10000000 then .page (o / 0x1000000) (o % 0x1000000)
  else if o < 0x20000000 then .root (o - 0x10000000) else .reserved

/-- The register at an offset of the window, if it is assigned. -/
def winReg (o : Nat) : Option WinReg :=
  match winRange o with
  | .page _ o => pageReg o
  | .root o => rootReg o
  | .reserved => none

/-- A context of partition p at level l may reach the offset for a read or a write (R388): its own page at the register's
level, root everywhere; an unassigned offset of a page reads as zero and takes no write. -/
def winMay (s : State) (p : Nat) (l : Level) (o : Nat) (write : Bool) : Bool :=
  let lvlOk : Bool := match winReg o with
    | none => true
    | some r => if write then (match r.wr with | some w => l.reaches w | none => true) else l.reaches r.rd
  match winRange o with
  | .reserved => false
  | .root _ => l == .root
  | .page q _ => (l == .root || (q == p && l.reaches .partition)) && lvlOk && s.partEN p

/-- The value a read of the window returns; computed registers are formed here. -/
def winRead (s : State) (o : Nat) : Word :=
  match winReg o with
  | none => 0
  | some _ => match winRange o with
    | .root 0xC008 => BitVec.ofNat 64 (s.lastMeas % 4096 + s.level * 4096 + b2n s.throtLow * 65536)
    | .root 0xC020 => (Config.rangerVendor.setWidth 64) ||| (if s.jx9p then 0x950#64 <<< 16 else 0x948#64 <<< 16) ||| (1#64 <<< 32) |||
        (Config.rangerRev.setWidth 64 <<< 40)
    | _ => s.rw o

/-- The happening that a write of the window is (R110, R374, R379, R392 and so on): a row of its own where it has one, else
a plain register write. -/
def winWrite (o : Nat) (l : Level) (v : Word) : Cur × Instr :=
  let plain : Cur × Instr := ({}, .registerWrite o l v)
  match winRange o with
  | .reserved => plain
  | .page p r =>
    if 0x1200 ≤ r ∧ r < 0x1400 ∧ r % 8 = 0 then ({}, .lqTailWrite p ((r - 0x1200) / 8) v)
    else match r with
    | 0x1800 => ({}, .lqCancelWrite p v)
    | 0x2000 => if bitN v.toNat 13 then ({}, .cpyFresAbandon p v) else ({}, .cpyFresResume p v)
    | 0x4000 => if bitN v.toNat 0 then ({ i := p }, .saveRetryWrite) else plain
    | 0x4010 => ({}, .ctxRestoreWrite p v)
    | 0x5008 => ({ i := p }, .hbKickWrite)
    | 0x6008 => ({}, .pmqPostWrite p v)
    | _ => plain
  | .root r =>
    if r < 0x3000 ∧ r % 8 = 0 then ({}, .wuCtlWrite (r / 8) v)
    else if 0x6000 ≤ r ∧ r < 0x7800 ∧ r % 8 = 0 then ({}, .blkCtlWrite ((r - 0x6000) / 8) v)
    else if 0x8000 ≤ r ∧ r < 0x8400 ∧ r % 64 = 0 then ({}, .partCtlWrite ((r - 0x8000) / 64) v)
    else if 0x8000 ≤ r ∧ r < 0x8400 ∧ (r % 64 = 8 ∨ r % 64 = 16) then ({}, .partCoresWrite ((r - 0x8000) / 64) (r % 64 / 8 - 1) v)
    else if 0x8000 ≤ r ∧ r < 0x8400 ∧ r % 64 = 0x38 then ({}, .pmqSendWrite ((r - 0x8000) / 64) v)
    else if 0x9000 ≤ r ∧ r < 0x9400 ∧ r % 8 = 0 then ({}, .marginOfsWrite ((r - 0x9000) / 8) v)
    else if 0x9400 ≤ r ∧ r < 0x9800 ∧ r % 8 = 0 then ({}, .replayCtlWrite ((r - 0x9400) / 8) v)
    else if r = 0x9800 ∨ r = 0x9808 then ({}, .coreQuarantineWrite ((r - 0x9800) / 8) v)
    else if r = 0x9810 ∨ r = 0x9818 then ({}, .poolCoresWrite ((r - 0x9810) / 8) v)
    else if r = 0xB810 then ({}, .timeSetWrite v)
    else if r = 0xB000 ∨ r = 0xB008 ∨ (0xB400 ≤ r ∧ r < 0xB800 ∧ r % 8 = 0) then ({}, .rootlinkRegWrite r v)
    else plain

end Sys2Proof.Machine
end

