-- ==== Sys2Proof/Machine/Agent.lean ====
section
/-! DEFINITION. Reads and writes at their homes with everything that follows from them: ownership and population, sector
checks, memory-error records, access and atomic counters, parked ring waits, ring overruns, and the logs that the hardware
writes as an agent (R83 to R87, R305 to R310, R390, R441). -/
namespace Sys2Proof.Machine

open Sys2Proof

/-! ## Interrupts (R408) -/

/-- The key of an entry of an MSI-X table: link, function and vector. -/
def msixKey (j fn v : Nat) : Nat := (j * 16 + fn % 16) * 128 + v % 128
/-- The message of vector v of function fn goes out on link j, or is held pending where the function's table masks it (R408). What the
tables hold at reset is a DESIGN CHOICE (log entry 121). -/
def State.msixSend (s : State) (j fn v : Nat) : State :=
  let e := Sparse.get {} s.msix (msixKey j fn v)
  if e.masked then { s with msix := Sparse.set {} s.msix (msixKey j fn v) { e with pending := true } } else s.send (.msix j fn v e.addr e.data)
/-- Raise MSI-X vector v of partition p's function, on each of its links that is up. -/
def State.irq (s : State) (p v : Nat) : State :=
  if s.partEN p then
    ([0, 1].filter fun j => bitN (s.partLinks p) j && s.linkUp j).foldl (fun s j => s.msixSend j (s.partFN p) v) s
  else s

/-! ## Configuration spaces (R407) -/

/-- The key of a doubleword of a function's configuration space. -/
def cfgKey (j fn i : Nat) : Nat := (j * 16 + fn % 16) * 1024 + i % 1024
/-- A doubleword of the configuration space of function fn of link j (R407, R419): the Vendor ID is the Ranger's, what a host has written
stands, and the rest is as PCIe resets it (log entry 122). -/
def State.cfgWord (s : State) (j fn i : Nat) : BitVec 32 :=
  let w := (Sparse.get none s.cfg (cfgKey j fn i)).getD (Config.cfgReset j fn i)
  if i % 1024 = 0 then (w &&& 0xFFFF0000) ||| Config.rangerVendor.setWidth 32 else w
/-- Function fn's configuration space and its MSI-X tables are as PCIe resets them, on either link (R407, R408). -/
def State.resetCfg (s : State) (fn : Nat) : State :=
  { s with cfg := s.cfg.filter fun e => e.1 / 1024 % 16 != fn % 16
           msix := s.msix.filter fun e => e.1 / 128 % 16 != fn % 16 }

/-! ## Parked waits (R309) -/

/-- A wait's target and the granule it compares. -/
def Op.watches (o : Op) (h : Home) (a n : Nat) : Bool :=
  o.phase == .parked && o.pieces.any fun q =>
    (match q.home, h with
     | .main _ _, .main _ _ => true
     | .clr u, .clr v => u == v
     | _, _ => false) && decide (q.at_ < a + n) && decide (a < q.at_ + 8)

/-- A parked wait of a far core is reached by a write (R309, R311). -/
def FarWait.reached (w : FarWait) (h : Home) (a n : Nat) (val : Nat → Nat) : Bool :=
  (match h with | .main _ _ => true | _ => false) && w.due.isNone && decide (w.pa < a + n) && decide (a < w.pa + 8)
    && decide (w.target ≤ val w.pa)

/-- A write to bytes at a home: every parked wait on a granule of them is compared, and one whose target is reached is
answered at once (R309): its operation has what it waits for. val reads a granule after the write. -/
def State.wake (s : State) (h : Home) (a n : Nat) (val : Nat → Nat) : State :=
  let done (w : FarWait) : Bool := w.reached h a n val
  let told := (s.farWaits.filter done).map fun w => Msg.fabCpl w.port w.tag true []
  let s : State := { s with out := s.out ++ told, farWaits := s.farWaits.filter fun w => !done w }
  let met (o : Op) : Bool := o.watches h a n && (match o.pieces with | q :: _ => decide ((o.ws.getD 1 0).toNat ≤ val q.at_) | [] => false)
  if s.cores.all fun e => e.2.pipe.all fun o => !met o then s
  else { s with cores := s.cores.map fun e =>
    (e.1, { e.2 with pipe := e.2.pipe.map fun o => if met o then { o with phase := .arrived, got := [], progress := 0 } else o }) }

/-! ## Plain bytes at main memory and the clearing -/

/-- The 8 bytes of a main-memory granule as a number. -/
def State.gran (s : State) (ms : Bool) (a : Nat) : Nat := natLE (s.peek ms a 8)
/-- The 8 bytes of a clearing granule. -/
def State.clrGran (s : State) (u a : Nat) : Nat := natLE (Sparse.bytes s.clr (u * 2 ^ 20 + a) 8)

/-- Write at main memory through the path that MS selects, then compare the waits; none where a sector refuses. -/
def State.putMain (s : State) (ms : Bool) (a : Nat) (bs : List Byte) : Option State :=
  (s.writeBytes ms a bs).map fun s => s.wake (.main 0 ms) a bs.length (s.gran ms)

/-- Write bytes of several sectors: each part follows R80 on its own, in ascending address. The first address that was refused, if any. -/
def State.putParts (s : State) (ms : Bool) (a : Nat) (bs : List Byte) : Option Nat × State :=
  (splitAt 32 a bs.length).foldl (fun (st : Option Nat × State) e =>
    match st.2.putMain ms (a + e.1) ((bs.drop e.1).take e.2) with
    | some s => (st.1, s)
    | none => (st.1 <|> some (a + e.1), st.2)) (none, s)

/-- A sector of the clearing fails verification: its held check against its bytes (R78). -/
def State.clrSectorBad (s : State) (b : Nat) : Bool := !verifies (s.clrBad.contains b) (Sparse.bytes s.clr (32 * b) 32)
/-- The sectors of the clearing that fail verification among those of n bytes at an address of way unit u. -/
def State.clrFails (s : State) (u a n : Nat) : Bool := (sectorsOf (u * 2 ^ 20 + a) n).any s.clrSectorBad

/-- Write at the clearing; none where a partly written sector fails (R80). -/
def State.putClr (s : State) (u a : Nat) (bs : List Byte) : Option State :=
  let k := u * 2 ^ 20 + a
  let part := (splitAt 32 k bs.length).any fun e => e.2 != 32 && s.clrSectorBad ((k + e.1) / 32)
  if part then none
  else
    let whole := (splitAt 32 k bs.length).filterMap fun e => if e.2 = 32 then some ((k + e.1) / 32) else none
    let s := { s with clr := Sparse.setBytes s.clr k bs, clrBad := s.clrBad.filter fun b => !whole.contains b }
    some (s.wake (.clr u) a bs.length (s.clrGran u))

/-- Before an access to a page with MS = 1 its home slice writes back and invalidates a valid line (R305). -/
def State.flushLine (s : State) (a : Nat) : State :=
  match s.lineOf (a / 128) with
  | some l => s.evict l
  | none => s

/-- An access that an engine or agent makes reaches the memory controller where the L2 holds no line of it (R86). -/
def State.reach (s : State) (ms : Bool) (pa : Nat) : State :=
  if !ms && (s.lineOf (pa / 128)).isSome then s else s.countAccess pa

/-- The same for n bytes: a granule counts once, where the L2 does not hold all the lines of them in it (R86). -/
def State.reachRange (s : State) (ms : Bool) (pa n : Nat) : State :=
  (splitAt 512 pa n).foldl (fun s e =>
    if ms || (splitAt 128 (pa + e.1) e.2).any fun l => (s.lineOf ((pa + e.1 + l.1) / 128)).isNone then s.countAccess (pa + e.1) else s) s

/-! ## Agent accesses and logs (R390, R441) -/

/-- What the walkers of an agent's address read comes to the L2 and counts (R86, R100). A failing read is told by agentAt. -/
def State.agentTouch (s : State) (p : Option Nat) (a : Nat) : State :=
  (agentAddr s p {} a).2.foldl (fun s e =>
    if (match blockOf e.1 with | some b => s.populated b | none => false) then s.touch (p.getD 0) 0 e.1 0 true else s) s

/-- An address that an agent of a partition (or of root) may use: translated, populated and owned (R441). Otherwise the device physical
address of a reserved or unpopulated range, or of a failing table sector, that it led to, if it did. -/
def State.agentAt (s : State) (p : Option Nat) (need : Need) (a : Nat) : Except (Option Nat) Nat :=
  let w := agentAddr s p need a
  match w.1 with
  | .error k => .error (if k % 16 = Xlt.WALK_ABORT then w.2.getLast?.map (·.1) else none)
  | .ok pa => match blockOf pa with
    | none => .error (some pa)
    | some b =>
      if !s.populated b then .error (some pa)
      else if (match p with | none => true | some p => s.owns p b) then .ok pa else .error none
/-- An agent's address that it may use (R441). -/
def State.agentOk (s : State) (p : Option Nat) (need : Need) (a : Nat) : Option Nat :=
  match s.agentAt p need a with | .ok pa => some pa | .error _ => none

/-- The overrun of a ring counter, reported to the partition that owns its address, else to partition 0 (R310). -/
def State.overrun (s : State) (p pa src core : Nat) : State :=
  let st := s.rw (ppage p 0x3020)
  let n := getF st 32 32
  if bitN st.toNat 0 then s.ww (ppage p 0x3020) (setF st 32 32 (min 0xFFFFFFFF (n + 1)))
  else
    let st := setF (setF (setF (setF st 0 1 1) 8 4 src) 16 8 core) 32 32 1
    ((s.ww (ppage p 0x3020) st).ww (ppage p 0x3028) (BitVec.ofNat 64 (pa / 8 * 8 % 2 ^ 48))).irq p 69

/-- The saturating sum of a radd and whether it overran (R308, R310). -/
def ringSum (old v : Nat) : Nat × Bool := if old + v < 2 ^ 64 then (old + v, false) else (2 ^ 64 - 1, true)

/-- Add to a ring counter in main memory, as an agent or engine does; none where the old value cannot be read. -/
def State.ringAddMain (s : State) (ms : Bool) (pa v src core : Nat) : Option State :=
  let s := (if ms then s.flushLine pa else s).reach ms pa
  match s.readChecked ms pa 8 with
  | none => none
  | some bs =>
    let r := ringSum (natLE bs) v
    match s.putMain ms pa (bytesLE 8 r.1) with
    | none => none
    | some s => some (if r.2 then s.overrun (((blockOf pa).bind s.ownerOf).getD 0) pa src core else s)

/-- Add to a ring counter in the clearing. -/
def State.ringAddClr (s : State) (u a v src core : Nat) : Option State :=
  if s.clrFails u a 8 then none
  else
    let r := ringSum (s.clrGran u a) v
    match s.putClr u a (bytesLE 8 r.1) with
    | none => none
    | some s => some (if r.2 then s.overrun (WuCtl.cur (s.wu u)) 0 src core else s)

/-- The registers of the logs, by partition or root's. -/
def relLog : Option Nat → Nat | none => rpage 0xA000 | some p => ppage p 0x5000
def stopLog : Option Nat → Nat | none => rpage 0xA008 | some p => ppage p 0x4008
def memLog : Option Nat → Nat | none => rpage 0xA010 | some p => ppage p 0x3000
def memAck : Option Nat → Nat | none => rpage 0xA018 | some p => ppage p 0x3008
def pmqLog : Option Nat → Nat | none => rpage 0xA020 | some p => ppage p 0x6000
def faultQ (p : Nat) : Nat := ppage p 0x2008
def affLog (p : Nat) : Nat := ppage p 0x3018
/-- A log whose register holds a device physical address: STOP.LOG, ATOM.AFF.LOG and REL.LOG, which has STOP.LOG's layout and placement
(R307, R362, R385). -/
def physLog (reg : Nat) : Bool :=
  decide (reg < 0x10000000) && (reg % 0x1000000 == 0x4008 || reg % 0x1000000 == 0x3018 || reg % 0x1000000 == 0x5000)

/-- An agent's address for a log's entry or counter: a device physical one is checked for ownership alone. -/
def State.logAt (s : State) (p : Option Nat) (reg : Nat) (need : Need) (a : Nat) : Except (Option Nat) Nat :=
  if physLog reg then
    match blockOf a with
    | none => .error (some a)
    | some b => if !s.populated b then .error (some a) else if p.all fun p => s.owns p b then .ok a else .error none
  else s.agentAt p need a

/-- What a log's access to n bytes leaves before it is made: the walkers' reads, and the granules that it reaches (R86, R100). -/
def State.logMeet (s : State) (p : Option Nat) (reg a pa n : Nat) : State :=
  (if physLog reg then s else s.agentTouch p a).reachRange false pa n

/-- Why an entry or its counter add could not be made: the address of the register's space, and the device physical address of an
unpopulated range or a failing sector that it met. -/
structure LogFail where
  addr : Nat
  met : Option Nat
deriving DecidableEq, Repr

/-- The words of an entry are stored, each range within one page through its translation, each sector by R80. -/
def State.logStore (s : State) (p : Option Nat) (reg a : Nat) (bs : List Byte) : Option LogFail × State :=
  let parts := splitAt 65536 a bs.length
  match parts.findSome? (fun e => match s.logAt p reg { w := true } (a + e.1) with | .error m => some (LogFail.mk (a + e.1) m) | .ok _ => none) with
  | some x => (some x, s)
  | none => parts.foldl (fun (st : Option LogFail × State) e =>
      match st.2.logAt p reg { w := true } (a + e.1) with
      | .error m => (st.1 <|> some { addr := a + e.1, met := m }, st.2)
      | .ok pa =>
        let (bad, s) := (st.2.logMeet p reg (a + e.1) pa e.2).putParts false pa ((bs.drop e.1).take e.2)
        (st.1 <|> bad.map fun b => { addr := a, met := some b }, s)) (none, s)

/-- One entry of a log: its words are stored, then 1 is added to its counter (R362, R390); an entry that could not be made takes no place
(R441). The answer tells what could not be made. reg is the window offset of the log's register, p its partition or none for root. -/
def State.logEntry (s : State) (p : Option Nat) (reg : Nat) (ws : List Word) : State × Option LogFail :=
  let w := s.rw reg
  let base := getF w 3 45 * 8
  if base = 0 then (s, none)
  else
    let i := Sparse.get 0 s.logCount reg
    match s.logStore p reg (base + 8 + 32 * (i % 2 ^ getF w 48 4)) (ws.flatMap fun w => bytesLE 8 w.toNat) with
    | (some x, s) => (s, some x)
    | (none, s) =>
      let s := { s with logCount := Sparse.set 0 s.logCount reg (i + 1) }
      match s.logAt p reg { r := true, w := true } base with
      | .error m => (s, some { addr := base, met := m })
      | .ok pc => match (s.logMeet p reg base pc 0).ringAddMain false pc 1 6 0xFF with
        | none => (s, some { addr := base, met := some pc })
        | some s => (s, none)

/-- A log that is set up raises its owner's interrupt. -/
def State.logIrq (s : State) (p : Option Nat) (reg v : Nat) : State :=
  if getF (s.rw reg) 3 45 = 0 then s else s.irq (p.getD 0) v

/-- One entry of a reliability log with its interrupt (R385). -/
def State.relEntry (s : State) (p : Option Nat) (ws : List Word) : State × Option LogFail :=
  let (s, e) := s.logEntry p (relLog p) ws
  (s.logIrq p (relLog p) 67, e)

/-- The words of a reliability entry (R385). -/
def relWords (s : State) (addr event unit core part : Nat) (wit : Bool) (count : Nat) : List Word :=
  [BitVec.ofNat 64 addr,
   BitVec.ofNat 64 (event + unit * 2 ^ 8 + core * 2 ^ 16 + b2n wit * 2 ^ 23 + part * 2 ^ 24),
   s.time, BitVec.ofNat 64 count]

/-- An agent access that could not be made: AGENT_FAULT in root's log and the partition's, but for the log that itself failed; an entry
of these that fails is such an access too, reported to the other log (R441). -/
def State.agentFaultN : Nat → State → Nat → Nat → Nat → Option Nat → State
  | 0, s, _, _, _, _ => s
  | n + 1, s, addr, code, part, skip =>
    let ws := relWords s addr 6 code 0 part false 1
    let put (s : State) (p : Option Nat) : State :=
      if skip = some (relLog p) then s
      else match s.relEntry p ws with
        | (s, none) => s
        | (s, some x) => State.agentFaultN n s x.addr 5 part (some (relLog p))
    put (put s none) (some part)
def State.agentFault (s : State) (addr code : Nat) (part : Nat) (skip : Option Nat) : State := State.agentFaultN 2 s addr code part skip

/-- Write an entry of a log, with its interrupt vector if it has one, and the report of a failure (R390, R441). The answer is the failing
or unpopulated address that the access met. -/
def State.logPlain (s : State) (p : Option Nat) (reg : Nat) (vec : Option Nat) (ws : List Word) : Option Nat × State :=
  let (s, e) := s.logEntry p reg ws
  let s := match vec with | some v => s.logIrq p reg v | none => s
  match e with
  | none => (none, s)
  | some x => (x.met, s.agentFault x.addr 5 (p.getD 0) (some reg))

/-! ## Memory-error records (R82, R83, R85) -/

/-- A detection: kind, site, die and core; the sector's address as the record gives it, its stack, and the partition that owns it. -/
structure Detect where
  kind : Nat
  site : Nat
  die : Nat
  core : Nat
deriving DecidableEq, Repr

/-- Add an event to the newest record of the kind in a full log (R85): its COUNT word. -/
def State.bumpRecord (s : State) (p : Option Nat) (kind : Nat) : State :=
  let w := s.rw (memLog p)
  let base := getF w 3 45 * 8
  let n := Sparse.get 0 s.logCount (memLog p)
  let find := (List.range (min n (2 ^ getF w 48 4))).find? fun j =>
    match s.agentOk p { r := true } (base + 8 + 32 * ((n - 1 - j) % 2 ^ getF w 48 4) + 8) with
    | some pa => !s.sectorBad false (pa / 32) && natLE (s.peek false pa 1) == kind
    | none => false
  match find with
  | none => s
  | some j => match s.agentOk p { r := true, w := true } (base + 8 + 32 * ((n - 1 - j) % 2 ^ getF w 48 4) + 24) with
    | none => s
    | some pa =>
      let c := natLE (s.peek false pa 4)
      if s.sectorBad false (pa / 32) then s else ((s.reach false pa).putMain false pa (bytesLE 4 (min 0xFFFFFFFF (c + 1)))).getD s

/-- A corrected error raises no interrupt (R82). -/
def errVector (kind : Nat) : Option Nat := if kind = 1 ∨ kind = 2 then none else some 66

/-- One memory-error record in one log (R85): when the log is full, the newest of its kind counts it. A failure of the log's own accesses
makes no further record (log entry 81), and a counter or a record that fails its check is not used (R78). -/
def State.memRecord (s : State) (p : Option Nat) (ws : List Word) (kind : Nat) : State :=
  let w := s.rw (memLog p)
  let base := getF w 3 45 * 8
  if base = 0 then s
  else
    let ack := getF (s.rw (memAck p)) 0 32
    let cnt := match s.agentOk p { r := true } base with | some pa => if s.sectorBad false (pa / 32) then ack else s.gran false pa | none => 0
    let full := decide ((cnt + 2 ^ 32 - ack) % 2 ^ 32 = 2 ^ getF w 48 4)
    if full then
      let s := s.bumpRecord p kind
      match errVector kind with | some v => s.logIrq p (memLog p) v | none => s
    else (s.logPlain p (memLog p) (errVector kind) ws).2

/-- The records of a detection: in the log of the partition given, if there is one, and in root's (R85). PART of a record that no
partition owns is 0 (log entry 82). -/
def State.record (s : State) (owner : Option Nat) (addr stack : Nat) (d : Detect) (high : Nat) : State :=
  let word := d.kind + d.site * 2 ^ 8 + stack * 2 ^ 16 + d.die * 2 ^ 20 + d.core * 2 ^ 24
  let ws (p : Nat) : List Word :=
    [BitVec.ofNat 64 (addr / 32 * 32), BitVec.ofNat 64 (word + p * 2 ^ 32), s.time, BitVec.ofNat 64 (1 + high * 2 ^ 32)]
  let p := owner.getD 0
  let s := match owner with | some p => s.memRecord (some p) (ws p) d.kind | none => s
  s.memRecord none (ws p) d.kind

/-- Every detection at a device physical address: a record in the owner's log, or for an unpopulated address and for a poisoned datum of
the host window the requester's, and in root's (R85). high is the access count of a HOT_PAGE record. -/
def State.memErr (s : State) (pa : Nat) (d : Detect) (reqPart : Nat) (high : Nat := 0) : State :=
  let owner := if d.kind = 7 ∨ (d.kind = 6 ∧ !inMain pa) then some reqPart else (blockOf pa).bind s.ownerOf
  let stack := if d.kind = 7 then
      (match blockOf pa with | some b => if b < 256 then b / 32 else 15 | none => 15)
    else if inHbm pa then stackOf pa else 15
  s.record owner pa stack d high

/-- Who makes an access: the context, the detecting site for an unpopulated address, the unit that verifies what it reads (0 a core, 3 a
base die, 7 a copy engine), and whether root's checks are skipped (R396: root-level accesses are not checked). -/
structure Req where
  core : Nat
  part : Nat
  root : Bool
  tag : Nat := 0
  site : Nat := 2
  die : Nat := 0
  unit : Nat := 0
deriving DecidableEq, Repr

/-- The request of a context. -/
def Ctx.req (cx : Ctx) : Req :=
  { core := cx.core, part := cx.part, root := cx.level == .root, tag := cx.tag, die := dieOf cx.core }

/-- The site of a main-memory address's controller (R85). -/
def siteOf (pa : Nat) : Nat := if inHbm pa then 0 else 1
/-- The address's datum lies in a line of the L2. -/
def State.inL2 (s : State) (ms : Bool) (pa : Nat) : Bool := !ms && (s.lineOf (pa / 128)).isSome

/-- The detection of a failing sector check: by the base die or copy engine that reads it, else where the sector lies (R78, R85). -/
def State.failSite (s : State) (r : Req) (ms : Bool) (pa : Nat) : Nat :=
  if r.unit ≠ 0 then r.unit else if s.inL2 ms pa then 2 else siteOf pa
/-- An upset of two bits lies in the sector of an address (R82, R83). -/
def State.doubleStruck (s : State) (pa : Nat) : Bool :=
  s.strikes.any fun x => x.arr == 5 && x.double && decide (x.wall ≤ s.wall) && x.word / 4 == pa / 32
/-- A sector that failed at an access (R83, R85): CHECK_FAIL, by the copy engine of its own die or at the sector's home; or the array's or
controller's UE where two bits of it were struck. -/
def State.failRecord (s : State) (r : Req) (ms : Bool) (pa : Nat) : State :=
  if s.doubleStruck pa then
    s.memErr pa { kind := if s.inL2 ms pa then 3 else 4, site := if s.inL2 ms pa then 2 else siteOf pa, die := homeDie pa, core := r.core } r.part
  else s.memErr pa { kind := 5, site := s.failSite r ms pa, die := if r.unit = 7 then r.die else homeDie pa, core := r.core } r.part

/-- A read of main memory corrects the upsets of one bit that it meets: each is recorded and gone (R82). -/
def State.correct (s : State) (r : Req) (ms : Bool) (pa n : Nat) : State :=
  if s.strikes.isEmpty then s
  else
    let hit := s.strikes.filter fun x => x.arr == 5 && !x.double && decide (x.wall ≤ s.wall) && (sectorsOf pa n).contains (x.word / 4)
    let s := hit.foldl (fun s x => s.memErr (x.word * 8)
      { kind := if s.inL2 ms (x.word * 8) then 1 else 2, site := if s.inL2 ms (x.word * 8) then 2 else siteOf (x.word * 8)
        die := homeDie (x.word * 8), core := r.core } r.part) s
    { s with strikes := s.strikes.filter fun x => !hit.contains x }

/-- The checks at the home (R74, R396): whether the access may be performed, and the record of an unpopulated address. An address of a
window that an agent or a walker is led to is no address of R74 (log entry 105). -/
def State.admits (s : State) (r : Req) (pa : Nat) : Bool × State :=
  match blockOf pa with
  | some b =>
    if !s.populated b then (false, s.memErr pa { kind := 7, site := r.site, die := r.die, core := r.core } r.part)
    else (r.root || s.owns r.part b, s)
  | none => (false, if inAnyWindow pa then s else s.memErr pa { kind := 7, site := r.site, die := r.die, core := r.core } r.part)

/-- The request of an agent of a partition or of root, as memory sees it. -/
def agentReq (p : Option Nat) (pa : Nat) : Req := { core := 0xFF, part := p.getD 0, root := true, die := if inMain pa then homeDie pa else 0 }
/-- An agent access met an unpopulated or failing address: its record (R74, R83). -/
def State.agentMet (s : State) (p : Option Nat) (met : Option Nat) : State :=
  match met with
  | none => s
  | some pa =>
    let r := agentReq p pa
    let a := s.admits r pa
    if a.1 then s.failRecord r false pa else a.2

/-- What an agent's access to n bytes leaves before it is made: the walkers' reads, the granules that it reaches, and the upsets that it
corrects (R82, R86, R100). -/
def State.agentMeet (s : State) (p : Option Nat) (a pa n : Nat) : State :=
  ((s.agentTouch p a).reachRange false pa n).correct (agentReq p pa) false pa n

/-- An agent of a partition reads n bytes within one page; none where the access cannot be made (R441). -/
def State.agentRead (s : State) (p : Option Nat) (a n : Nat) : Option (List Byte) × State :=
  match s.agentAt p { r := true } a with
  | .error m => (none, (s.agentTouch p a).agentMet p m)
  | .ok pa =>
    let s := s.agentMeet p a pa n
    match s.readChecked false pa n with
    | some bs => (some bs, s)
    | none => (none, s.agentMet p (((sectorsOf pa n).find? (s.sectorBad false)).map (32 * ·)))
/-- An agent of a partition stores bytes within one page; false where the access cannot be made. -/
def State.agentWrite (s : State) (p : Option Nat) (a : Nat) (bs : List Byte) : Bool × State :=
  match s.agentAt p { w := true } a with
  | .error m => (false, (s.agentTouch p a).agentMet p m)
  | .ok pa => match (s.agentMeet p a pa bs.length).putParts false pa bs with
    | (none, s) => (true, s)
    | (some b, s) => (false, s.agentMet p (some b))
/-- An agent of a partition adds to a ring counter; false where the access cannot be made. -/
def State.agentAdd (s : State) (p : Option Nat) (a v : Nat) : Bool × State :=
  match s.agentAt p { r := true, w := true } a with
  | .error m => (false, (s.agentTouch p a).agentMet p m)
  | .ok pa =>
    let s := s.agentMeet p a pa 0
    match s.ringAddMain false pa v 6 0xFF with
    | some s => (true, s)
    | none => (false, s.agentMet p (some pa))

/-- Write an entry of a log, with its interrupt vector and the report of a failure (R390, R441). -/
def State.log (s : State) (p : Option Nat) (reg vec : Nat) (ws : List Word) : State :=
  let r := s.logPlain p reg (some vec) ws
  r.2.agentMet p r.1

/-- An entry of a reliability log (R385, R386). -/
def State.rel (s : State) (p : Option Nat) (ws : List Word) : State := s.log p (relLog p) 67 ws

/-- A post to a message log: the word, who posted it, the time, the number of entries before (R398). -/
def State.pmq (s : State) (whom : Option Nat) (word : Word) (frm : Nat) (root hw : Bool) : State :=
  let reg := pmqLog whom
  s.log whom reg 65 [word, BitVec.ofNat 64 (frm + b2n root * 16 + b2n hw * 32), s.time,
    BitVec.ofNat 64 (Sparse.get 0 s.logCount reg % 2 ^ 32)]

/-- A message the hardware posts: type and argument. -/
def State.pmqHw (s : State) (whom : Option Nat) (type arg : Nat) : State :=
  s.pmq whom (BitVec.ofNat 64 (type + arg * 2 ^ 16)) 0 false true

/-- A HOT_PAGE record when the page's counter has reached the threshold of its owner, once an epoch (R87). Its site, die and core are the
controller of the address, its home die and none (log entry 83). -/
def State.hotCheck (s : State) (pa : Nat) : State :=
  let k := pa / 65536
  match (blockOf pa).bind s.ownerOf with
  | none => s
  | some p =>
    let ctl := s.rp p 0x086
    let n := Sparse.get 0 s.hot k
    if bitN ctl.toNat 0 && decide (max 1 (getF ctl 16 16) ≤ n) && !s.hotSeen.contains k then
      let s := { s with hotSeen := k :: s.hotSeen }
      s.memErr (k * 65536) { kind := 8, site := siteOf pa, die := homeDie pa, core := 0xFF } p n
    else s
/-- The pages whose counters have reached their thresholds by whatever accesses (R87). -/
def State.hotChecks (s : State) : State := s.hot.foldl (fun s e => s.hotCheck (e.1 * 65536)) s

/-- A counted atomic or ring operation of a core at a page (R306) and its notification (R307). -/
def State.countAtomic (s : State) (pa q : Nat) : State :=
  let k := pa / 65536
  let n := min 65535 (Sparse.get 0 s.atomCnt k + 1)
  let cw := Sparse.get 0 s.atomCand k
  let c := cw % 256
  let w := cw / 256
  let cw' := if w = 0 then q + 256 else if c = q then c + 256 * (w + 1) else c + 256 * (w - 1)
  let s := { s with atomCnt := Sparse.set 0 s.atomCnt k n, atomCand := Sparse.set 0 s.atomCand k cw' }
  match (blockOf pa).bind s.ownerOf with
  | none => s
  | some p =>
    let ctl := s.rw (ppage p 0x3010)
    if bitN ctl.toNat 0 && decide (max 1 (getF ctl 16 16) ≤ n) && !s.atomSeen.contains k then
      let s := { s with atomSeen := k :: s.atomSeen }
      s.log (some p) (affLog p) 70 [BitVec.ofNat 64 (k * 65536), BitVec.ofNat 64 (cw' % 256 + p * 256), s.time, BitVec.ofNat 64 n]
    else s

/-- Clear the counters of a partition's blocks and start an epoch (R87, R306). -/
def State.newEpoch (s : State) (p : Nat) : State :=
  let mine (k : Nat) : Bool := match blockOf (k * 65536) with | some b => s.owns p b | none => false
  { s with hot := s.hot.filter fun e => !mine e.1
           hotSeen := s.hotSeen.filter fun k => !mine k
           atomCnt := s.atomCnt.filter fun e => !mine e.1
           atomCand := s.atomCand.filter fun e => !mine e.1
           atomSeen := s.atomSeen.filter fun k => !mine k
           hotStart := Sparse.set 0 s.hotStart p s.time.toNat }

/-! ## Upsets in the arrays of the cores and of the clearing (R79, R82, R83) -/

/-- The upsets that have struck the words of n bytes at a of an array of core c. -/
def State.struck (s : State) (c arr a n : Nat) : List Strike :=
  s.strikes.filter fun x => decide (x.wall ≤ s.wall) && x.core == c && x.arr == arr && decide (x.word * 8 < a + n ∧ a < x.word * 8 + 8)

/-- Bytes of an array of core c are read: an upset of one bit is corrected in place, recorded and gone; a word with two is withheld, and
false is the answer (R82, R83). The record names the word's place in the array. Log entry 84. -/
def State.arrayRead (s : State) (c arr : Nat) (places : List (Nat × Nat)) : Bool × State :=
  if s.strikes.isEmpty then (true, s)
  else
    let hit := (places.flatMap fun e => s.struck c arr e.1 e.2).eraseDups
    let s := hit.foldl (fun s x => s.record (some (s.core c).part) (x.word * 8) 15
      { kind := if x.double then 3 else 1, site := 6, die := dieOf c, core := c } 0) s
    (hit.all fun x => !x.double, { s with strikes := s.strikes.filter fun x => x.double || !hit.contains x })
/-- Words all of whose bytes a write covers are whole again. -/
def State.arrayWritten (s : State) (c arr : Nat) (places : List (Nat × Nat)) : State :=
  if s.strikes.isEmpty then s
  else { s with strikes := s.strikes.filter fun x => !(decide (x.wall ≤ s.wall) && x.core == c && x.arr == arr &&
    (upto (x.word * 8) 8).all fun b => places.any fun e => decide (e.1 ≤ b ∧ b < e.1 + e.2)) }
/-- An upset of the registers or the accumulator store is found in its cycle: one of one bit is corrected, one of two is reported as
uncorrectable (R82, R83; log entry 84). One of an instruction cache strikes nothing where the cache does not hold the line; one of two bits
in main memory makes its sector fail from then on. -/
def State.scrubArrays (s : State) : State :=
  if s.strikes.isEmpty then s
  else
    let due (x : Strike) : Bool := decide (x.wall ≤ s.wall) && (x.arr == 2 || x.arr == 3)
    let gone (x : Strike) : Bool := decide (x.wall ≤ s.wall) && x.arr == 4 && (s.core x.core).icache.all fun l => l.line != x.word / 16
    let hit := s.strikes.filter due
    let s := hit.foldl (fun s x => s.record (some (s.core x.core).part) (x.word * 8) 15
      { kind := if x.double then 3 else 1, site := 6, die := dieOf x.core, core := x.core } 0) s
    let s : State := { s with strikes := s.strikes.filter fun x => !due x && !gone x }
    (s.strikes.filter fun x => x.arr == 5 && x.double && decide (x.wall ≤ s.wall)).foldl (fun s x => s.markBad false (x.word / 4)) s

/-- What struck a datum of the clearing (R82, R83): the array of an L2 slice. The record names the byte's place among the way units. -/
def State.strikeClr (s : State) (r : Req) (u a : Nat) (x : Upset) : State :=
  let k (n : Nat) : Detect := { kind := n, site := 2, die := wuDie u, core := r.core }
  let rec_ (s : State) (n : Nat) : State := s.record (some (WuCtl.cur (s.wu u))) (u * 2 ^ 20 + a) 15 (k n) 0
  match x with
  | .none => s
  | .corrected => rec_ s 1
  | .uncorrectable => rec_ { s with clrBad := if s.clrBad.contains ((u * 2 ^ 20 + a) / 32) then s.clrBad else (u * 2 ^ 20 + a) / 32 :: s.clrBad } 3
/-- A sector of the clearing failed at an access. -/
def State.failClr (s : State) (r : Req) (u a : Nat) : State :=
  s.record (some (WuCtl.cur (s.wu u))) (u * 2 ^ 20 + a) 15
    { kind := 5, site := if r.unit ≠ 0 then r.unit else 2, die := if r.unit = 7 then r.die else wuDie u, core := r.core } 0

/-! ## An access at main memory with its checks -/

/-- What struck the datum an event delivers (R82, R83): a corrected error is recorded, an uncorrectable one marks the sector. l2 says that
the datum lay in a line of the L2. -/
def State.strike (s : State) (r : Req) (ms : Bool) (pa : Nat) (l2 : Bool) (u : Upset) : State :=
  let k (n : Nat) : Detect := { kind := if l2 then n - 1 else n, site := if l2 then 2 else siteOf pa, die := homeDie pa, core := r.core }
  match u with
  | .none => s
  | .corrected => s.memErr pa (k 2) r.part
  | .uncorrectable => (s.markBad ms (pa / 32)).memErr pa (k 4) r.part

/-- The line or controller that an access meets: with MS the line is written back and dropped, and the base die's memory counts it; else a
miss is counted and may allocate (R86, R305). first says that its granule has not been counted. -/
def State.meet (s : State) (r : Req) (ca : Nat) (ms : Bool) (pa : Nat) (first : Bool) : State :=
  let s := s.correct r ms pa 1
  if ms then (if first then (s.flushLine pa).countAccess pa else s.flushLine pa) else s.touch r.part r.tag pa ca first

/-- Read n bytes of main memory at pa, page attributes ca and ms (R80, R83, R305, R396); none is an abort completion. first
says that the access has not yet counted in this 512-byte granule (R86). -/
def State.readMain (s : State) (r : Req) (ca : Nat) (ms : Bool) (pa n : Nat) (first : Bool) (u : Upset) :
    Option (List Byte) × State :=
  let l2 := s.inL2 ms pa
  let (ok, s) := s.admits r pa
  if !ok then (none, s)
  else
    let s := ((s.meet r ca ms pa first).hotCheck pa).strike r ms pa l2 u
    match s.readChecked ms pa n with
    | some bs => (some bs, s)
    | none => (none, if u = .uncorrectable then s else s.failRecord r ms pa)

/-- Write bytes of one sector of main memory at pa; false is an abort completion. -/
def State.writeMain (s : State) (r : Req) (ca : Nat) (ms : Bool) (pa : Nat) (bs : List Byte) (first : Bool) (u : Upset) :
    Bool × State :=
  let l2 := s.inL2 ms pa
  let (ok, s) := s.admits r pa
  if !ok then (false, s)
  else
    let s := ((s.meet r ca ms pa first).hotCheck pa).strike r ms pa l2 (if bs.length = 32 then .none else u)
    match s.putMain ms pa bs with
    | some s => (true, s)
    | none => (false, if u = .uncorrectable then s else s.failRecord r ms pa)

/-- What the walkers of a translation read, through the home L2 of each table (R100): each read counts and may bring its line in; one that
is aborted for an unpopulated address or a failing sector is a detection (R74, R83), but of a prefetch, which is silent (R247). -/
def State.walkedBy (s : State) (r : Req) (reads : List (Nat × Bool)) (quiet : Bool := false) : State :=
  reads.foldl (fun s e =>
    let r : Req := { r with root := e.2 || r.root }
    let a := s.admits r e.1
    if !a.1 then (if quiet then s else a.2)
    else
      let s := (s.meet r 0 false e.1 true).hotCheck e.1
      if s.sectorBad false (e.1 / 32) && !quiet then s.failRecord r false e.1 else s) s

/-- The same for a context's walkers. -/
def State.walked (s : State) (cx : Ctx) (reads : List (Nat × Bool)) (quiet : Bool := false) : State := s.walkedBy cx.req reads quiet

/-! ## Dirtied pages (R430) -/

/-- A write for launch key of partition p has performed to a guest-physical page: while HASH.CTL.EN is 1 the launch has dirtied it. -/
def State.dirtyKey (s : State) (p : Nat) (key : Option Nat) (gpa : Nat) : State :=
  if !bitN (s.rw (ppage p 0x7000)).toNat 0 then s
  else match key with
  | none => s
  | some key =>
    let own := match s.launches.find? fun l => l.key == key with | some l => l.parent.getD key | none => key
    { s with launches := s.launches.map fun l =>
        if l.key = own ∧ !l.pages.contains (gpa / 65536) then { l with pages := l.pages ++ [gpa / 65536] } else l }
/-- The same for a write of core c. -/
def State.dirty (s : State) (c gpa : Nat) : State := s.dirtyKey (s.core c).part (s.core c).launch gpa
/-- The same for a write of a context: of its own launch, where it names one. -/
def State.dirtyCx (s : State) (cx : Ctx) (gpa : Nat) : State :=
  match cx.key with
  | some k => s.dirtyKey cx.part (some k) gpa
  | none => s.dirty cx.core gpa
/-- The same for a write at a home that is main memory. -/
def State.dirtyAt (s : State) (c gpa : Nat) (h : Home) : State :=
  match h with
  | .main _ _ => s.dirty c gpa
  | _ => s

end Sys2Proof.Machine
end

