-- ==== Sys2Proof/Machine/Flags.lean ====
section
/-! DEFINITION. Number formats, rounding, overflow policies and exception flags (R183 to R200). Values are exact: a sign, a
natural number and a power of two; a result is formed exactly and rounded once. -/
namespace Sys2Proof.Machine

open Sys2Proof

/-! ## Flags (R200) -/

namespace Flag
def IV : Nat := 1
def DZ : Nat := 2
def OF : Nat := 4
def UF : Nat := 8
def NX : Nat := 16
def IW : Nat := 32
end Flag

/-- Raise a flag when a condition holds. -/
def flagIf (b : Bool) (f : Nat) : Nat := if b then f else 0

/-- An exception record after a landing raises flags (R200): the flags are ORed in; if V was 0 and any is raised, ADDR takes
bits [54:2] of the bundle's address and V becomes 1. -/
def excAfter (rec : Word) (flags addr : Nat) : Word :=
  if flags = 0 then rec
  else
    let r := rec ||| BitVec.ofNat 64 flags
    if bitN rec.toNat 8 then r
    else setF (r ||| 0x100) 11 53 (addr / 4)

/-! ## Formats (R183, R184) -/

/-- A floating format: exponent and fraction bits, bias, whether it has infinities, its canonical NaN and the magnitude code
of its largest finite value. -/
structure FFmt where
  eb : Nat
  mb : Nat
  bias : Nat
  inf : Bool
  nan : Option Nat
  big : Nat
deriving DecidableEq, Repr

def FFmt.f32 : FFmt := ⟨8, 23, 127, true, some 0x7FC00000, 0x7F7FFFFF⟩
def FFmt.bf16 : FFmt := ⟨8, 7, 127, true, some 0x7FC0, 0x7F7F⟩
def FFmt.f16 : FFmt := ⟨5, 10, 15, true, some 0x7E00, 0x7BFF⟩
def FFmt.e5m2 : FFmt := ⟨5, 2, 15, true, some 0x7E, 0x7B⟩
def FFmt.e4m3 : FFmt := ⟨4, 3, 7, false, some 0x7F, 0x7E⟩
def FFmt.e2m1 : FFmt := ⟨2, 1, 1, false, none, 0x7⟩

/-- The sign bit's weight. -/
def FFmt.sgn (f : FFmt) : Nat := 2 ^ (f.eb + f.mb)
/-- The exponent of the subnormal step. -/
def FFmt.umin (f : FFmt) : Int := 1 - (f.bias : Int) - (f.mb : Int)

/-- A value: NaN, an infinity, or (-1)^neg * m * 2^e, which covers signed zeros. -/
inductive Num
  | nan
  | inf (neg : Bool)
  | fin (neg : Bool) (m : Nat) (e : Int)
deriving DecidableEq, Repr

/-- The value of an encoding (R183, R184). -/
def FFmt.dec (f : FFmt) (w : Nat) : Num :=
  let neg := bitN w (f.eb + f.mb)
  let e := fldN w f.mb f.eb
  let m := fldN w 0 f.mb
  if f.inf && e == 2 ^ f.eb - 1 then (if m = 0 then .inf neg else .nan)
  else if !f.inf && f.nan == some (fldN w 0 (f.eb + f.mb)) then .nan
  else if e = 0 then .fin neg m f.umin
  else .fin neg (2 ^ f.mb + m) (f.umin + e - 1)

/-- The encoding of the canonical NaN, or zero where the format has none. -/
def FFmt.nanCode (f : FFmt) : Nat := f.nan.getD 0
/-- The encoding of an infinity (a format with infinities). -/
def FFmt.infCode (f : FFmt) (neg : Bool) : Nat := f.big + 1 + b2n neg * f.sgn
/-- The encoding of the largest finite value. -/
def FFmt.bigCode (f : FFmt) (neg : Bool) : Nat := f.big + b2n neg * f.sgn

/-- The value with its sign flipped. -/
def Num.negate : Num → Num
  | .nan => .nan
  | .inf n => .inf (!n)
  | .fin n m e => .fin (!n) m e
def Num.isNan : Num → Bool
  | .nan => true
  | _ => false
def Num.isZero : Num → Bool
  | .fin _ 0 _ => true
  | _ => false
def Num.neg : Num → Bool
  | .nan => false
  | .inf n => n
  | .fin n _ _ => n

/-! ## Rounding (R192, R193) -/

/-- Whether the magnitude goes up to n + 1, for a remainder r of den units and the mode; rb is the random word of rs. -/
def roundsUp (mode : Rnd) (neg : Bool) (n r den rb : Nat) : Bool :=
  if r = 0 then false
  else match mode with
  | .rne => decide (den < 2 * r) || (decide (2 * r = den) && n % 2 == 1)
  | .rna => decide (den ≤ 2 * r)
  | .rtz => false
  | .rup => !neg
  | .rdn => neg
  | .rs => decide (2 ^ 32 ≤ r * 2 ^ 32 / den + rb)
  | .rto => n % 2 == 0

/-- m * 2^e in units of 2^ue: the whole part, the remainder and its denominator. -/
def inUnits (m : Nat) (e ue : Int) : Nat × Nat × Nat :=
  if ue ≤ e then (m * 2 ^ (e - ue).toNat, 0, 1)
  else
    let den := 2 ^ (ue - e).toNat
    (m / den, m % den, den)

/-- m * 2^e rounded in units of 2^ue: the magnitude and whether it is inexact. -/
def roundUnits (mode : Rnd) (neg : Bool) (m : Nat) (e ue : Int) (rb : Nat) : Nat × Bool :=
  let (n, r, den) := inUnits m e ue
  (if roundsUp mode neg n r den rb then n + 1 else n, r != 0)

/-- A nonzero magnitude rounded to a format: the magnitude code with an unbounded exponent range (above largest finite:
overflow), whether inexact, and whether tiny (R194). -/
def FFmt.roundMag (f : FFmt) (mode : Rnd) (neg : Bool) (m : Nat) (e : Int) (rb : Nat) : Nat × Bool × Bool :=
  let top : Int := (Nat.log2 m : Int) + e
  let ue := max (top - f.mb) f.umin
  let (n, inexact) := roundUnits mode neg m e ue rb
  let code := (ue - f.umin).toNat * 2 ^ f.mb + n
  let (n2, _) := roundUnits mode neg m e (top - f.mb) rb
  let low : Int := 1 - (f.bias : Int)
  let tiny := decide (top < low) && !(decide (top = low - 1) && n2 == 2 ^ (f.mb + 1))
  (code, inexact, tiny)

/-- An exact value rounded nearest-even into a format, with the flags of overflow, underflow and inexactness (R194, R196). -/
def FFmt.pack (f : FFmt) (x : Num) : Nat × Nat :=
  match x with
  | .nan => (f.nanCode, 0)
  | .inf n => (f.infCode n, 0)
  | .fin neg 0 _ => (b2n neg * f.sgn, 0)
  | .fin neg m e =>
    let (code, inexact, tiny) := f.roundMag .rne neg m e 0
    if f.big < code then (f.infCode neg, Flag.OF + Flag.NX)
    else (code + b2n neg * f.sgn, flagIf inexact Flag.NX + flagIf (inexact && tiny) Flag.UF)

/-! ## Exact arithmetic (R185, R196) -/

/-- The signed integer of a finite value at a common exponent. -/
def signedAt (neg : Bool) (m : Nat) (e c : Int) : Int :=
  let k : Int := m * 2 ^ (e - c).toNat
  if neg then -k else k

/-- The exact sum; an exact zero is -0 only when both operands are -0; infinities of opposite sign give NaN and IV. -/
def Num.add (x y : Num) : Num × Nat :=
  match x, y with
  | .nan, _ => (.nan, 0)
  | _, .nan => (.nan, 0)
  | .inf a, .inf b => if a = b then (.inf a, 0) else (.nan, Flag.IV)
  | .inf a, _ => (.inf a, 0)
  | _, .inf b => (.inf b, 0)
  | .fin na ma ea, .fin nb mb eb =>
    let c := min ea eb
    let t := signedAt na ma ea c + signedAt nb mb eb c
    if t = 0 then (.fin (na && nb && ma == 0 && mb == 0) 0 0, 0)
    else (.fin (decide (t < 0)) t.natAbs c, 0)

/-- The exact product; infinity times zero gives NaN and IV. -/
def Num.mul (x y : Num) : Num × Nat :=
  match x, y with
  | .nan, _ => (.nan, 0)
  | _, .nan => (.nan, 0)
  | .inf a, .inf b => (.inf (a != b), 0)
  | .inf a, .fin b m _ => if m = 0 then (.nan, Flag.IV) else (.inf (a != b), 0)
  | .fin a m _, .inf b => if m = 0 then (.nan, Flag.IV) else (.inf (a != b), 0)
  | .fin a ma ea, .fin b mb eb => (.fin (a != b) (ma * mb) (ea + eb), 0)

/-- x * y + z exactly; a NaN operand gives a NaN and no flag (R209). -/
def Num.fma (x y z : Num) : Num × Nat :=
  if x.isNan || y.isNan || z.isNan then (.nan, 0)
  else
    let (p, f1) := Num.mul x y
    let (s, f2) := Num.add p z
    (s, f1 ||| f2)

/-- The integer of a word read as signed or unsigned. -/
def Num.ofInt (i : Int) : Num := .fin (decide (i < 0)) i.natAbs 0

/-- The order of two values that are not NaN, with -0 below +0 (R198). -/
def Num.below (x y : Num) : Bool :=
  match x, y with
  | .nan, _ => false
  | _, .nan => false
  | .inf a, .inf b => a && !b
  | .inf a, _ => a
  | _, .inf b => !b
  | .fin na ma ea, .fin nb mb eb =>
    let c := min ea eb
    let p := signedAt na ma ea c
    let q := signedAt nb mb eb c
    decide (p < q) || (decide (p = q) && ma == 0 && na && !nb)

/-- Equality and order as comparisons see them: the two zeros are equal, a NaN compares with nothing. -/
def Num.eq (x y : Num) : Bool :=
  !x.isNan && !y.isNan && ((x.isZero && y.isZero) || (!x.below y && !y.below x))
def Num.lt (x y : Num) : Bool := x.below y && !(x.isZero && y.isZero)

/-! ## 32-bit elements -/

def f32 (e : BitVec 32) : Num := FFmt.f32.dec e.toNat
def bf16 (n : Nat) : Num := FFmt.bf16.dec n
/-- A value rounded nearest-even to f32. -/
def toF32 (x : Num) : BitVec 32 × Nat := let (w, f) := FFmt.f32.pack x; (BitVec.ofNat 32 w, f)
/-- The sum of two f32 elements with one rounding (R194, R198). -/
def addF32 (a b : BitVec 32) : BitVec 32 × Nat :=
  let (s, f) := Num.add (f32 a) (f32 b)
  let (w, g) := toF32 s
  (w, f ||| g)
/-- The halves of a bf16 pair (R186). -/
def lo16 (e : BitVec 32) : Nat := e.toNat % 65536
def hi16 (e : BitVec 32) : Nat := e.toNat / 65536
def pair16 (lo hi : Nat) : BitVec 32 := BitVec.ofNat 32 (lo % 65536 + hi % 65536 * 65536)

/-! ## Conversion (R192 to R195, R217) -/

/-- The result of one conversion: the code, the flags, and whether policy stop stops. -/
structure Conv where
  code : Nat
  flags : Nat
  stop : Bool
deriving DecidableEq, Repr

/-- The float format of a narrow format, or the range of an integer one: bits and whether signed. -/
def cvFloat : CvFmt → Option FFmt
  | .bf16 => some .bf16 | .f16 => some .f16 | .e4m3 => some .e4m3 | .e5m2 => some .e5m2 | .e2m1 => some .e2m1 | _ => none
def cvInt : CvFmt → Option (Nat × Bool)
  | .i8 => some (8, true) | .i16 => some (16, true) | .i32 => some (32, true) | .n8 => some (8, false)
  | .n16 => some (16, false) | .n32 => some (32, false) | _ => none
/-- The bits of a value of a narrow format. -/
def cvWidth : CvFmt → Nat
  | .bf16 => 16 | .f16 => 16 | .e4m3 => 8 | .e5m2 => 8 | .e2m1 => 4 | .i8 => 8 | .i16 => 16 | .i32 => 32 | .n8 => 8
  | .n16 => 16 | .n32 => 32

/-- An overflow to a float format under a policy (R195). -/
def FFmt.overflow (f : FFmt) (mode : Rnd) (pol : OvPol) (neg : Bool) : Conv :=
  let code := match pol with
    | .sat => f.bigCode neg
    | .stop => f.bigCode neg
    | .nan => match f.nan with | some n => n | none => f.bigCode neg
    | .inf =>
      if f.inf then
        (if mode = .rtz ∨ mode = .rto ∨ (mode = .rup ∧ neg = true) ∨ (mode = .rdn ∧ neg = false) then f.bigCode neg
         else f.infCode neg)
      else match f.nan with | some n => n | none => f.bigCode neg
  { code := code, flags := Flag.OF + Flag.NX, stop := pol == .stop }

/-- Convert a value to a float format (R192, R195). -/
def FFmt.conv (f : FFmt) (mode : Rnd) (pol : OvPol) (rb : Nat) (x : Num) : Conv :=
  match x with
  | .nan => match f.nan with
    | some n => { code := n, flags := 0, stop := false }
    | none => { code := 0, flags := Flag.IV, stop := pol == .stop }
  | .inf neg => if f.inf then { code := f.infCode neg, flags := 0, stop := false } else f.overflow mode pol neg
  | .fin neg 0 _ => { code := b2n neg * f.sgn, flags := 0, stop := false }
  | .fin neg m e =>
    let (code, inexact, tiny) := f.roundMag mode neg m e rb
    if f.big < code then f.overflow mode pol neg
    else { code := code + b2n neg * f.sgn, flags := flagIf inexact Flag.NX + flagIf (inexact && tiny) Flag.UF, stop := false }

/-- The code of an integer in n bits. -/
def intCode (n : Nat) (i : Int) : Nat := (i % (2 ^ n : Int)).toNat
/-- The ends of an integer format's range (R187). -/
def intLow (n : Nat) (signed : Bool) : Int := if signed then -(2 ^ (n - 1) : Int) else 0
def intHigh (n : Nat) (signed : Bool) : Int := if signed then 2 ^ (n - 1) - 1 else 2 ^ n - 1
/-- The indefinite value of R195. -/
def indefinite (n : Nat) (signed : Bool) : Nat := intCode n (if signed then intLow n true else intHigh n false)

/-- Convert a value to an integer format (R187, R192, R195). -/
def intConv (n : Nat) (signed : Bool) (mode : Rnd) (pol : OvPol) (rb : Nat) (x : Num) : Conv :=
  let beyond (neg : Bool) : Conv :=
    { code := match pol with
        | .nan => indefinite n signed
        | _ => intCode n (if neg then intLow n signed else intHigh n signed)
      flags := Flag.OF + Flag.NX, stop := pol == .stop }
  match x with
  | .nan => { code := indefinite n signed, flags := Flag.IV, stop := pol == .stop }
  | .inf neg => beyond neg
  | .fin neg m e =>
    let (k, inexact) := roundUnits mode neg m e 0 rb
    let i : Int := if neg then -(k : Int) else k
    if i < intLow n signed ∨ intHigh n signed < i then beyond neg
    else { code := intCode n i, flags := flagIf inexact Flag.NX, stop := false }

/-- Convert an f32 value down to a narrow format. -/
def convDown (t : CvFmt) (mode : Rnd) (pol : OvPol) (rb : Nat) (x : Num) : Conv :=
  match cvFloat t with
  | some f => f.conv mode pol rb x
  | none => match cvInt t with
    | some (n, sg) => intConv n sg mode pol rb x
    | none => { code := 0, flags := 0, stop := false }

/-- The value of a code of a narrow format. -/
def convValue (t : CvFmt) (code : Nat) : Num :=
  match cvFloat t with
  | some f => f.dec code
  | none => match cvInt t with
    | some (n, sg) =>
      let v := code % 2 ^ n
      Num.ofInt (if sg && decide (2 ^ (n - 1) ≤ v) then (v : Int) - 2 ^ n else v)
    | none => .nan

/-- Convert a code up to f32 with a rounding mode; only i32 and n32 can be inexact, and none overflows (R194, R219). -/
def convUp (t : CvFmt) (mode : Rnd) (rb code : Nat) : BitVec 32 × Nat :=
  let c := FFmt.f32.conv mode .sat rb (convValue t code)
  (BitVec.ofNat 32 c.code, c.flags)

/-! ## Nested-plane integers (R190, R191) -/

/-- The value of an 8-bit integer read to its first k planes. -/
def planeValue (k x : Nat) : Int :=
  let q := x % 256 / 2 ^ (8 - k)
  let q : Int := if 2 ^ (k - 1) ≤ q then (q : Int) - 2 ^ k else q
  q * 2 ^ (8 - k)

/-! ## Sums (R198, R199) -/

/-- One level of the adjacent pairwise tree: neighbours are joined, a last one alone passes. -/
def pairUp {α : Type} (f : α → α → α) : List α → List α
  | [] => []
  | [a] => [a]
  | a :: b :: r => f a b :: pairUp f r

/-- The adjacent pairwise tree, to depth n. -/
def treeSum {α : Type} (f : α → α → α) : Nat → List α → List α
  | 0, l => l
  | n + 1, l => treeSum f n (pairUp f l)

/-- A sum with its flags. -/
def addFl (a b : BitVec 32 × Nat) : BitVec 32 × Nat :=
  let (s, f) := addF32 a.1 b.1
  (s, a.2 ||| b.2 ||| f)

/-- An i32 sum modulo 2^32 with IW on a wrap. -/
def addI32 (a b : BitVec 32 × Nat) : BitVec 32 × Nat :=
  let s := a.1 + b.1
  (s, a.2 ||| b.2 ||| flagIf (decide (s.toInt ≠ a.1.toInt + b.1.toInt)) Flag.IW)

/-- The sum of up to eight f32 elements in the tree of R199, absent ones passed through. -/
def treeEight (es : List (Option (BitVec 32))) : Option (BitVec 32) :=
  let j : Option (BitVec 32) → Option (BitVec 32) → Option (BitVec 32)
    | none, b => b
    | a, none => a
    | some a, some b => some (addF32 a b).1
  (treeSum j 3 es).head?.join

/-- A NaN becomes the canonical one (R185). -/
def canonF32 (e : BitVec 32) : BitVec 32 := if e.toNat % 2 ^ 31 ≤ 0x7F800000 then e else 0x7FC00000
/-- What the reduction engine writes for an element: an element that stands alone keeps its bits, but for a NaN's payload and sign (R185,
R199). -/
def reduceEight (es : List (Option (BitVec 32))) : BitVec 32 := canonF32 ((treeEight es).getD 0)

end Sys2Proof.Machine
end

