-- ==== Sys2Proof/Machine/Special.lean ====
section
/-! DEFINITION. The special functions of unit sf (R215, R216): exact results where the manual gives them, correctly rounded
reciprocals and roots, and elsewhere a member of the allowed set, which the part's revision chooses. Values are formed to 640
fractional bits. -/
namespace Sys2Proof.Machine

open Sys2Proof

/-- Fractional bits of the working values. -/
def sfBits : Nat := 640
/-- One, ln 2 and pi in units of 2^-640. -/
def sfOne : Nat := 2 ^ sfBits
def sfLn2 : Nat := 0xb17217f7d1cf79abc9e3b39803f2f6af40f343267298b62d8a0d175b8baafa2be7b876206debac98559552fb4afa1b10ed2eae35c138214427573b291169b8253e96ca16224ae8c51acbda11317c387e
def sfPi : Nat := 0x3243f6a8885a308d313198a2e03707344a4093822299f31d0082efa98ec4e6c89452821e638d01377be5466cf34e90c6cc0ac29b7c97c50dd3f84d5b5b54709179216d5d98979fb1bd1310ba698dfb5ac

/-- The product of two working values. -/
def sfMul (a b : Nat) : Nat := a * b / 2 ^ sfBits

/-- The integer square root, by Newton's steps from above. -/
def isqrtFrom (n : Nat) : Nat → Nat → Nat
  | 0, x => x
  | k + 1, x => let y := (x + n / x) / 2; if y < x then isqrtFrom n k y else x
def isqrt (n : Nat) : Nat := if n = 0 then 0 else isqrtFrom n 64 (2 ^ (Nat.log2 n / 2 + 1))

/-- m * 2^e in units of 2^-640, truncated. -/
def sfFix (m : Nat) (e : Int) : Nat :=
  if 0 ≤ e + sfBits then m * 2 ^ (e + sfBits).toNat else m / 2 ^ (-(e + sfBits)).toNat

/-- The exponential series 1 + y + y^2/2 + ..., k the next term's number. -/
def expSeries (y : Nat) : Nat → Nat → Nat → Nat → Nat
  | 0, _, _, s => s
  | n + 1, k, t, s => let t := sfMul t y / k; expSeries y n (k + 1) t (s + t)
/-- exp of a working value below 1. -/
def sfExp (y : Nat) : Nat := expSeries y 140 1 sfOne sfOne
/-- exp of minus a working value. -/
def sfExpNeg (y : Nat) : Nat :=
  let n := y / sfLn2
  let r := sfLn2 - y % sfLn2
  -- exp(-y) = 2^-(n+1) * exp(r)
  sfExp r / 2 ^ (n + 1)

/-- The odd series z + z^3/3 + z^5/5 + ... -/
def atanhSeries (z2 : Nat) : Nat → Nat → Nat → Nat → Nat
  | 0, _, _, s => s
  | n + 1, k, t, s => let t := sfMul t z2; atanhSeries z2 n (k + 2) t (s + t / k)
/-- ln of a working value from 1 to 2. -/
def sfLn (t : Nat) : Nat :=
  let z := (t - sfOne) * 2 ^ sfBits / (t + sfOne)
  2 * atanhSeries (sfMul z z) 220 3 z z

/-- The alternating series of sine (k = 2) or cosine (k = 1) from its first term. -/
def trigSeries (x2 : Nat) : Nat → Nat → Nat → Int → Int → Int
  | 0, _, _, _, s => s
  | n + 1, k, t, sg, s => let t := sfMul t x2 / (k * (k + 1)); trigSeries x2 n (k + 2) t (-sg) (s + sg * t)
def sfSinR (x : Nat) : Int := trigSeries (sfMul x x) 80 2 x (-1) x
def sfCosR (x : Nat) : Int := trigSeries (sfMul x x) 80 1 sfOne (-1) sfOne

/-- The series of erf without its factor: x - x^3/3 + x^5/(2! 5) - ... -/
def erfSeries (x2 : Nat) : Nat → Nat → Nat → Int → Int → Int
  | 0, _, _, _, s => s
  | n + 1, k, t, sg, s => let t := sfMul t x2 / k; erfSeries x2 n (k + 1) t (-sg) (s + sg * (t / (2 * k + 1) : Nat))

/-- A magnitude that is not exact: a working value, marked as lying strictly above its last bit. -/
def sfNum (neg : Bool) (v : Nat) : Num := .fin neg (2 * v + 1) (-(sfBits : Int) - 1)

/-- The functions, numbered as their op codes (R61). -/
inductive SfFn | exp2 | log2 | rcp | rsqrt | sqrt | tanh | sin | cos | erf
deriving DecidableEq, Repr
def SfFn.code : SfFn → Nat
  | .exp2 => 0 | .log2 => 1 | .rcp => 2 | .rsqrt => 3 | .sqrt => 4 | .tanh => 5 | .sin => 6 | .cos => 7 | .erf => 8

/-- The outcome of a function at an argument: an exact value, one rounded nearest-even, a faithful one, one within 2 ulps, a
sine beyond 65,536, or special bits with flags. -/
inductive SfVal
  | exact (x : Num)
  | nearest (x : Num)
  | faithful (x : Num)
  | near (x : Num)
  | far
  | special (x : Num) (flags : Nat)
deriving DecidableEq, Repr

def Num.one (neg : Bool) : Num := .fin neg 1 0
def Num.zero (neg : Bool) : Num := .fin neg 0 0

/-- m * 2^e is an integer; its value. -/
def asInt (m : Nat) (e : Int) : Option Nat :=
  if 0 ≤ e then some (m * 2 ^ e.toNat) else if m % 2 ^ (-e).toNat = 0 then some (m / 2 ^ (-e).toNat) else none

/-- 2^x for a finite x that is not zero. -/
def sfExp2 (neg : Bool) (m : Nat) (e : Int) : SfVal :=
  if 12 < (Nat.log2 m : Int) + e then        -- beyond 4096 in magnitude
    (if neg then .faithful (.fin false 1 (-5000)) else .nearest (.fin false 1 5000))
  else match asInt m e with
  | some k => .faithful (.fin false 1 (if neg then -(k : Int) else k))
  | none =>
    let y := sfFix m e
    let k := y / sfOne
    let f := y % sfOne
    if neg then
      let v := sfExp (sfMul (sfOne - f) sfLn2)
      .faithful (.fin false (2 * v + 1) (-(sfBits : Int) - 1 - (k : Int) - 1))
    else
      let v := sfExp (sfMul f sfLn2)
      .faithful (.fin false (2 * v + 1) (-(sfBits : Int) - 1 + (k : Int)))

/-- log2 of a positive finite value. -/
def sfLog2 (m : Nat) (e : Int) : SfVal :=
  let l := Nat.log2 m
  let k : Int := (l : Int) + e
  if m = 2 ^ l then .exact (.fin (decide (k < 0)) k.natAbs 0)
  else
    let f := sfLn (sfFix m (-(l : Int))) * 2 ^ sfBits / sfLn2
    if 0 ≤ k then .faithful (sfNum false (k.toNat * sfOne + f))
    else .faithful (sfNum true ((-k).toNat * sfOne - f))

/-- 1/x, rounded: the quotient with a sticky bit. -/
def sfRcp (neg : Bool) (m : Nat) (e : Int) : SfVal :=
  let q := 2 ^ 200 / m
  .nearest (.fin neg (2 * q + (if 2 ^ 200 % m = 0 then 0 else 1)) (-201 - e))

/-- The square root, rounded. -/
def sfSqrt (m : Nat) (e : Int) : SfVal :=
  let odd := e % 2
  let n := m * 2 ^ (odd.toNat + 160)
  let r := isqrt n
  .nearest (.fin false (2 * r + (if r * r = n then 0 else 1)) ((e - odd) / 2 - 81))

/-- 1/sqrt x. -/
def sfRsqrt (m : Nat) (e : Int) : SfVal :=
  let odd := e % 2
  let d := m * 2 ^ odd.toNat
  let n := 2 ^ 400 / d
  let r := isqrt n
  let ex := decide (r * r * d = 2 ^ 400)
  let x := Num.fin false (2 * r + (if ex then 0 else 1)) (-201 - (e - odd) / 2)
  if ex then .exact x else .faithful x

/-- tanh of a nonzero finite value. -/
def sfTanh (neg : Bool) (m : Nat) (e : Int) : SfVal :=
  let y := if 6 < (Nat.log2 m : Int) + e then 256 * sfOne else 2 * sfFix m e
  let t := sfExpNeg y
  .near (sfNum neg ((sfOne - t) * 2 ^ sfBits / (sfOne + t)))

/-- erf of a nonzero finite value. -/
def sfErf (neg : Bool) (m : Nat) (e : Int) : SfVal :=
  let x := if 3 < (Nat.log2 m : Int) + e then 10 * sfOne else min (sfFix m e) (10 * sfOne)
  let s := erfSeries (sfMul x x) 900 1 x (-1) x
  let root := isqrt (sfPi * sfOne)
  .near (sfNum neg (2 * s.toNat * 2 ^ sfBits / root))

/-- The sine after q quarter turns and r. -/
def quarter (q r : Nat) : Int :=
  match q with
  | 0 => sfSinR r
  | 1 => sfCosR r
  | 2 => -(sfSinR r)
  | _ => -(sfCosR r)

/-- sine or cosine of a nonzero finite value. -/
def sfTrig (cosine neg : Bool) (m : Nat) (e : Int) : SfVal :=
  if 16 < (Nat.log2 m : Int) + e ∨ ((Nat.log2 m : Int) + e = 16 ∧ m ≠ 2 ^ Nat.log2 m) then .far
  else
    let x := sfFix m e
    let half := sfPi / 2
    let q := x / half + (if cosine then 1 else 0)
    let r := x % half
    -- q counts quarter turns of the sine's argument
    let v := quarter (q % 4) r
    let s : Bool := decide (v < 0)
    .near (sfNum (if cosine then s else s != neg) v.natAbs)

/-- A function's value, with the special values of R216. -/
def sfValue (fn : SfFn) (x : Num) : SfVal :=
  match fn, x with
  | _, .nan => .special .nan 0
  | .exp2, .inf true => .special (.zero false) 0
  | .exp2, .inf false => .special (.inf false) 0
  | .exp2, .fin _ 0 _ => .special (.one false) 0
  | .exp2, .fin n m e => sfExp2 n m e
  | .log2, .fin _ 0 _ => .special (.inf true) Flag.DZ
  | .log2, .inf false => .special (.inf false) 0
  | .log2, .inf true => .special .nan Flag.IV
  | .log2, .fin true _ _ => .special .nan Flag.IV
  | .log2, .fin false m e => sfLog2 m e
  | .rcp, .fin n 0 _ => .special (.inf n) Flag.DZ
  | .rcp, .inf n => .special (.zero n) 0
  | .rcp, .fin n m e => sfRcp n m e
  | .rsqrt, .fin n 0 _ => .special (.inf n) Flag.DZ
  | .rsqrt, .inf false => .special (.zero false) 0
  | .rsqrt, .inf true => .special .nan Flag.IV
  | .rsqrt, .fin true _ _ => .special .nan Flag.IV
  | .rsqrt, .fin false m e => sfRsqrt m e
  | .sqrt, .fin n 0 _ => .special (.zero n) 0
  | .sqrt, .inf false => .special (.inf false) 0
  | .sqrt, .inf true => .special .nan Flag.IV
  | .sqrt, .fin true _ _ => .special .nan Flag.IV
  | .sqrt, .fin false m e => sfSqrt m e
  | .tanh, .inf n => .special (.one n) 0
  | .tanh, .fin n 0 _ => .special (.zero n) 0
  | .tanh, .fin n m e => sfTanh n m e
  | .sin, .inf _ => .special .nan Flag.IV
  | .sin, .fin n 0 _ => .special (.zero n) 0
  | .sin, .fin n m e => sfTrig false n m e
  | .cos, .inf _ => .special .nan Flag.IV
  | .cos, .fin _ 0 _ => .special (.one false) 0
  | .cos, .fin n m e => sfTrig true n m e
  | .erf, .inf n => .special (.one n) 0
  | .erf, .fin n 0 _ => .special (.zero n) 0
  | .erf, .fin n m e => sfErf n m e

/-- The encoding of a signed number of steps from zero. -/
def FFmt.stepCode (f : FFmt) (neg : Bool) (k : Int) : Nat :=
  if k = 0 then b2n neg * f.sgn else k.natAbs + (if k < 0 then f.sgn else 0)

/-- The signed difference of two finite values at the lesser exponent, and that exponent. -/
def numGap (x y : Num) : Nat × Int :=
  match x, y with
  | .fin na ma ea, .fin nb mb eb =>
    let c := min ea eb
    ((signedAt na ma ea c - signedAt nb mb eb c).natAbs, c)
  | _, _ => (0, 0)

/-- Representable values no more than n ulps away from a value that is not representable, as signed steps from zero: the
neighbours for faithful (n = 0), those within 2 ulps otherwise. -/
def FFmt.members (f : FFmt) (near : Bool) (neg : Bool) (m : Nat) (e : Int) : List Int :=
  let (code, _, _) := f.roundMag .rtz neg m e 0
  let sg : Int := if neg then -1 else 1
  if !near then (if f.big ≤ code then [sg * code] else [sg * code, sg * (code + 1)])
  else
    let ue := max ((Nat.log2 m : Int) + e - f.mb) f.umin
    ((List.range 12).map fun (i : Nat) => sg * ((code : Int) + i - 5)).filter fun k =>
      k.natAbs ≤ f.big &&
      (let (g, c) := numGap (f.dec (f.stepCode neg k)) (.fin neg m e)
       decide ((g : Int) * 2 ^ (c - (min c (ue + 1))).toNat ≤ 2 ^ ((ue + 1) - (min c (ue + 1))).toNat))

/-- A value in a format that the part's revision chooses among the allowed ones (R215). tag numbers the function and format,
arg is the operand. -/
def FFmt.chosen (f : FFmt) (near : Bool) (tag : Nat) (arg : BitVec 32) (x : Num) : Nat × Nat :=
  match x with
  | .fin neg m e =>
    let (rne, _, tiny) := f.roundMag .rne neg m e 0
    if f.big < rne then (f.infCode neg, Flag.OF + Flag.NX)
    else
      let ms := f.members near neg m e
      let k := ms.getD (Config.sfPick tag arg % ms.length) 0
      (f.stepCode neg k, Flag.NX + flagIf tiny Flag.UF)
  | _ => (f.nanCode, 0)

/-- A function in a format, with its flags. -/
def sfEval (f : FFmt) (fn : SfFn) (code : Nat) : Nat × Nat :=
  let tag := fn.code + 16 * f.mb
  let arg := BitVec.ofNat 32 code
  match sfValue fn (f.dec code) with
  | .special x fl => ((f.pack x).1, fl)
  | .exact x => f.pack x
  | .nearest x => f.pack x
  | .faithful x =>
    let (c, fl) := f.pack x
    if fl &&& Flag.NX = 0 then (c, fl) else f.chosen false tag arg x
  | .near x => f.chosen true tag arg x
  | .far =>
    let v := (Config.sfFar tag arg).toNat % (2 * f.sgn)
    let ok := match f.dec v with
      | .nan => false
      | .inf _ => false
      | y => !(y.below (.one true)) && !((Num.one false).below y)
    (if ok then v else 0, Flag.NX)

end Sys2Proof.Machine
end

