-- ==== Sys2Proof/Machine/VecOps.lean ====
section
/-! DEFINITION. The element results of the vector-side units (R207, R209 to R223): each operation as a function of the
captured latches, giving the result vector and the flags it raises at its landing. -/
namespace Sys2Proof.Machine

open Sys2Proof

/-- An element result with its flags. -/
abbrev ElemFl := Elem × Nat

/-- Combine three latches element by element; the flags are ORed. -/
def vec3 (f : Elem → Elem → Elem → ElemFl) (a b c : Vec) : Vec × Nat :=
  let rs := List.zipWith (fun (p : Elem × Elem) z => f p.1 p.2 z) (List.zip a.list b.list) c.list
  (Vec.ofList (rs.map (·.1)), rs.foldl (fun fl r => fl ||| r.2) 0)
def vec2 (f : Elem → Elem → ElemFl) (a b : Vec) : Vec × Nat := vec3 (fun x y _ => f x y) a b []
def vec1 (f : Elem → ElemFl) (a : Vec) : Vec × Nat := vec3 (fun x _ _ => f x) a [] []

/-- A floating function of three operands on f32 elements, or on each half of a bf16 pair (R186, R209). -/
def floatElem (fmt : Fmt) (g : Num → Num → Num → Num × Nat) (a b c : Elem) : ElemFl :=
  match fmt with
  | .bf16 =>
    let half (h : Elem → Nat) : Nat × Nat :=
      let (x, f) := g (bf16 (h a)) (bf16 (h b)) (bf16 (h c))
      let (w, k) := FFmt.bf16.pack x
      (w, f ||| k)
    let lo := half lo16
    let hi := half hi16
    (pair16 lo.1 hi.1, lo.2 ||| hi.2)
  | _ =>
    let (x, f) := g (f32 a) (f32 b) (f32 c)
    let (w, k) := toF32 x
    (w, f ||| k)

/-- An i32 function: modulo 2^32, with IW where the exact result lies outside the range (R209). -/
def intElem (g : Int → Int → Int → Int) (a b c : Elem) : ElemFl :=
  let r := g a.toInt b.toInt c.toInt
  (BitVec.ofInt 32 r, flagIf (decide (r < -2147483648 ∨ 2147483647 < r)) Flag.IW)

/-- An arithmetic operation by its format. -/
def vaArith (fmt : Fmt) (g : Num → Num → Num → Num × Nat) (h : Int → Int → Int → Int) (a b c : Elem) : ElemFl :=
  match fmt with
  | .i32 => intElem h a b c
  | _ => floatElem fmt g a b c

def onesIf (b : Bool) : Elem := if b then BitVec.allOnes 32 else 0

/-- A compare by its format: all ones where true, by halves for bf16 (R211). -/
def vaCompare (fmt : Fmt) (g : Num → Num → Bool) (h : Int → Int → Bool) (a b : Elem) : Elem :=
  match fmt with
  | .i32 => onesIf (h a.toInt b.toInt)
  | .bf16 =>
    let t (k : Elem → Nat) : Nat := if g (bf16 (k a)) (bf16 (k b)) then 65535 else 0
    pair16 (t lo16) (t hi16)
  | _ => onesIf (g (f32 a) (f32 b))

/-- The element functions of va (R209 to R212); a, b, c and m are the elements of the latches. -/
def eMov (_ : Fmt) (a _b _c _m : Elem) : ElemFl := (a, 0)
def eAdd (f : Fmt) (a b c _m : Elem) : ElemFl := vaArith f (fun x y _ => Num.add x y) (fun x y _ => x + y) a b c
def eSub (f : Fmt) (a b c _m : Elem) : ElemFl := vaArith f (fun x y _ => Num.add x y.negate) (fun x y _ => x - y) a b c
def eMul (f : Fmt) (a b c _m : Elem) : ElemFl := vaArith f (fun x y _ => Num.mul x y) (fun x y _ => x * y) a b c
def eFma (f : Fmt) (a b c _m : Elem) : ElemFl := vaArith f Num.fma (fun x y z => x * y + z) a b c
def eFms (f : Fmt) (a b c _m : Elem) : ElemFl := vaArith f (fun x y z => Num.fma x y z.negate) (fun x y z => x * y - z) a b c
def eFnma (f : Fmt) (a b c _m : Elem) : ElemFl := vaArith f (fun x y z => Num.fma x.negate y z) (fun x y z => -(x * y) + z) a b c
/-- The lesser and the greater, a NaN if either is one (R198, R209). -/
def numMin (x y : Num) : Num := if x.isNan || y.isNan then .nan else if y.below x then y else x
def numMax (x y : Num) : Num := if x.isNan || y.isNan then .nan else if x.below y then y else x
def numAbs : Num → Num
  | .nan => .nan
  | .inf _ => .inf false
  | .fin _ m e => .fin false m e
def eMin (f : Fmt) (a b c _m : Elem) : ElemFl := vaArith f (fun x y _ => (numMin x y, 0)) (fun x y _ => min x y) a b c
def eMax (f : Fmt) (a b c _m : Elem) : ElemFl := vaArith f (fun x y _ => (numMax x y, 0)) (fun x y _ => max x y) a b c
def eAbs (f : Fmt) (a b c _m : Elem) : ElemFl := vaArith f (fun x _ _ => (numAbs x, 0)) (fun x _ _ => x.natAbs) a b c
def eNeg (f : Fmt) (a b c _m : Elem) : ElemFl := vaArith f (fun x _ _ => (x.negate, 0)) (fun x _ _ => -x) a b c
def eAnd (_ : Fmt) (a b _c _m : Elem) : ElemFl := (a &&& b, 0)
def eOr (_ : Fmt) (a b _c _m : Elem) : ElemFl := (a ||| b, 0)
def eXor (_ : Fmt) (a b _c _m : Elem) : ElemFl := (a ^^^ b, 0)
def eAndn (_ : Fmt) (a b _c _m : Elem) : ElemFl := (a &&& ~~~b, 0)
def eNot (_ : Fmt) (a _b _c _m : Elem) : ElemFl := (~~~a, 0)
def eSll (_ : Fmt) (a b _c _m : Elem) : ElemFl := (if b.toNat ≥ 32 then 0 else a <<< b.toNat, 0)
def eSrl (_ : Fmt) (a b _c _m : Elem) : ElemFl := (if b.toNat ≥ 32 then 0 else a >>> b.toNat, 0)
def eSra (_ : Fmt) (a b _c _m : Elem) : ElemFl := (a.sshiftRight (min b.toNat 32), 0)
def eMulhi (_ : Fmt) (a b _c _m : Elem) : ElemFl := (BitVec.ofInt 32 ((a.toInt * b.toInt) / 2 ^ 32), 0)
def eSel (f : Fmt) (a b _c m : Elem) : ElemFl :=
  match f with
  | .bf16 => (pair16 (if lo16 m ≠ 0 then lo16 a else lo16 b) (if hi16 m ≠ 0 then hi16 a else hi16 b), 0)
  | _ => (if m ≠ 0 then a else b, 0)
def eCeq (f : Fmt) (a b _c _m : Elem) : ElemFl := (vaCompare f Num.eq (· == ·) a b, 0)
def eCne (f : Fmt) (a b _c _m : Elem) : ElemFl := (vaCompare f (fun x y => !Num.eq x y) (· != ·) a b, 0)
def eClt (f : Fmt) (a b _c _m : Elem) : ElemFl := (vaCompare f Num.lt (fun x y => decide (x < y)) a b, 0)
def eCle (f : Fmt) (a b _c _m : Elem) : ElemFl :=
  (vaCompare f (fun x y => Num.lt x y || Num.eq x y) (fun x y => decide (x ≤ y)) a b, 0)
def eCun (f : Fmt) (a b _c _m : Elem) : ElemFl := (vaCompare f (fun x y => x.isNan || y.isNan) (fun _ _ => false) a b, 0)
def eKand (_ : Fmt) (a b _c _m : Elem) : ElemFl := (onesIf (a != 0 && b != 0), 0)
def eKor (_ : Fmt) (a b _c _m : Elem) : ElemFl := (onesIf (a != 0 || b != 0), 0)
def eKxor (_ : Fmt) (a b _c _m : Elem) : ElemFl := (onesIf ((a != 0) != (b != 0)), 0)
def eKandn (_ : Fmt) (a b _c _m : Elem) : ElemFl := (onesIf (a != 0 && b == 0), 0)
def eKnot (_ : Fmt) (a _b _c _m : Elem) : ElemFl := (onesIf (a == 0), 0)

/-- An element function over the four captured latches. -/
def vecE (e : Elem → Elem → Elem → Elem → ElemFl) (ls : List Vec) : Vec × Nat :=
  let l (i : Nat) : List Elem := (ls.getD i []).list
  let rs := List.zipWith (fun (p q : Elem × Elem) => e p.1 p.2 q.1 q.2) (List.zip (l 0) (l 1)) (List.zip (l 2) (l 3))
  (Vec.ofList (rs.map (·.1)), rs.foldl (fun fl r => fl ||| r.2) 0)

/-- kcnt: the number of nonzero elements, in every element (R212). -/
def vecKcnt (ls : List Vec) : Vec × Nat :=
  (Vec.splat (BitVec.ofNat 32 (((ls.getD 0 []).filter fun e => e.2 != 0).length)), 0)

/-! ## vp (R213, R214) -/

/-- A vector by its element function of row and column. -/
def vecRC (f : Nat → Nat → Elem) : Vec := Vec.ofList ((List.range 1024).map fun p => f (p / 64) (p % 64))

def vRotr (ls : List Vec) : Vec × Nat :=
  let a := ls.getD 0 []
  let b := ls.getD 1 []
  (vecRC fun r c => a.at_ r ((c + 64 - (b.at_ r 0).toNat % 64) % 64), 0)
def vBcr (ls : List Vec) : Vec × Nat :=
  let a := ls.getD 0 []
  let b := ls.getD 1 []
  (vecRC fun r _ => a.at_ r ((b.at_ r 0).toNat % 64), 0)
def vRotc (ls : List Vec) : Vec × Nat :=
  let a := ls.getD 0 []
  let b := ls.getD 1 []
  (vecRC fun r c => a.at_ ((r + 16 - (b.at_ 0 c).toNat % 16) % 16) c, 0)
def vBcc (ls : List Vec) : Vec × Nat :=
  let a := ls.getD 0 []
  let b := ls.getD 1 []
  (vecRC fun _ c => a.at_ ((b.at_ 0 c).toNat % 16) c, 0)
def vTrn16 (ls : List Vec) : Vec × Nat :=
  let a := ls.getD 0 []
  (vecRC fun r c => a.at_ (c % 16) (c / 16 * 16 + r), 0)
def vShuf (ls : List Vec) : Vec × Nat :=
  let a := ls.getD 0 []
  let b := ls.getD 1 []
  (vecRC fun r c => a.at_ r ((b.at_ r c).toNat % 64), 0)

/-- Row r and column c of a vector as lists. -/
def rowOf (a : Vec) (r : Nat) : List Elem := (List.range 64).map fun c => a.at_ r c
def colOf (a : Vec) (c : Nat) : List Elem := (List.range 16).map fun r => a.at_ r c

/-- A sum of R198 over a list of 2^n elements. -/
def sumList (f : Fmt) (n : Nat) (es : List Elem) : ElemFl :=
  match f with
  | .i32 => (treeSum addI32 n (es.map fun e => (e, 0))).headD (0, 0)
  | .bf16 =>
    let half (h : Elem → Nat) : Nat × Nat :=
      let (s, fl) := (treeSum addFl n (es.map fun e => ((toF32 (bf16 (h e))).1, 0))).headD (0, 0)
      let (w, k) := FFmt.bf16.pack (f32 s)
      (w, fl ||| k)
    let lo := half lo16
    let hi := half hi16
    (pair16 lo.1 hi.1, lo.2 ||| hi.2)
  | _ => (treeSum addFl n (es.map fun e => (e, 0))).headD (0, 0)

/-- A maximum or minimum over a list (R198, R214). -/
def pickList (e : Fmt → Elem → Elem → Elem → Elem → ElemFl) (f : Fmt) (es : List Elem) : ElemFl :=
  match es with
  | [] => (0, 0)
  | x :: r => (r.foldl (fun m y => (e f m y 0 0).1) (e f x x 0 0).1, 0)

/-- A reduction along rows or columns, its value put in every element it covers. -/
def reduceRows (g : List Elem → ElemFl) (ls : List Vec) : Vec × Nat :=
  let rs := (List.range 16).map fun r => g (rowOf (ls.getD 0 []) r)
  (Vec.ofList (rs.flatMap fun x => List.replicate 64 x.1), rs.foldl (fun fl x => fl ||| x.2) 0)
def reduceCols (g : List Elem → ElemFl) (ls : List Vec) : Vec × Nat :=
  let cs := (List.range 64).map fun c => g (colOf (ls.getD 0 []) c)
  (Vec.ofList ((List.range 16).flatMap fun _ => cs.map (·.1)), cs.foldl (fun fl x => fl ||| x.2) 0)

/-! ## sf and cv (R215 to R219) -/

/-- A special function of every element, or of each half. -/
def vecSf (fn : SfFn) (f : Fmt) (ls : List Vec) : Vec × Nat :=
  vec1 (fun a => match f with
    | .bf16 =>
      let lo := sfEval .bf16 fn (lo16 a)
      let hi := sfEval .bf16 fn (hi16 a)
      (pair16 lo.1 hi.1, lo.2 ||| hi.2)
    | _ => let r := sfEval .f32 fn a.toNat; (BitVec.ofNat 32 r.1, r.2)) (ls.getD 0 [])

/-- A down-conversion of every element; the last part tells whether policy stop stops it (R195, R218). -/
def vecDown (t : CvFmt) (r : Rnd) (o : OvPol) (ls : List Vec) : Vec × Nat × Bool :=
  let cs := List.zipWith (fun (a b : Elem) => convDown t r o b.toNat (f32 a)) (ls.getD 0 []).list (ls.getD 1 []).list
  (Vec.ofList (cs.map fun c => BitVec.ofNat 32 c.code), cs.foldl (fun fl c => fl ||| c.flags) 0, cs.any (·.stop))

/-- An up-conversion of every element (R217, R219). -/
def vecUp (t : CvFmt) (r : Rnd) (ls : List Vec) : Vec × Nat :=
  vec2 (fun a b => convUp t r b.toNat (a.toNat % 2 ^ cvWidth t)) (ls.getD 0 []) (ls.getD 1 [])

/-! ## wc (R220, R221) -/

/-- One bit of the signature. -/
def sigBit (s : Nat) : Nat := if bitN s 31 then (s * 2 ^^^ 0x04C11DB7) % 2 ^ 32 else s * 2 % 2 ^ 32
/-- Fold one byte into the signature. -/
def sigByte (s b : Nat) : Nat := sigBit (sigBit (sigBit (sigBit (sigBit (sigBit (sigBit (sigBit (s ^^^ b * 2 ^ 24))))))))
/-- Fold one element, lowest address first. -/
def sigElem (s : Nat) (e : Elem) : Nat :=
  sigByte (sigByte (sigByte (sigByte s (e.toNat % 256)) (e.toNat / 256 % 256)) (e.toNat / 65536 % 256)) (e.toNat / 2 ^ 24)
/-- Fold the elements that .b does not exclude. -/
def sigVec (s : Elem) (a b : Vec) : Elem :=
  BitVec.ofNat 32 ((List.zip a.list b.list).foldl (fun s e => if e.2 = 0 then sigElem s e.1 else s) s.toNat)

/-! ## The constant table (R207) -/

/-- An entry of the table that is one value in every element. -/
def cstWord (n : Nat) : Elem :=
  if n < 32 then BitVec.ofNat 32 n
  else if n < 64 then (1 : Elem) <<< (n - 32)
  else if 96 ≤ n then (toF32 (.fin false (n - 96) 0)).1
  else match n with
  | 64 => 0x00000000 | 65 => 0x3F800000 | 66 => 0x40000000 | 67 => 0x3F000000 | 68 => 0xBF800000 | 69 => 0x80000000
  | 70 => 0x7F800000 | 71 => 0xFF800000 | 72 => 0x7FC00000 | 73 => 0x7F7FFFFF | 74 => 0x00800000 | 75 => 0x3F317218
  | 76 => 0x3FB8AA3B | 77 => 0x40490FDB | 78 => 0x3E22F983 | 79 => 0x3FB504F3 | 84 => 0xFFFFFFFF | 85 => 0x7FFFFFFF
  | 86 => 0x0000FFFF | 87 => 0xFFFF0000 | 88 => 0x000000FF | 89 => 0x3F803F80 | 94 => 0x55555555 | 95 => 0xAAAAAAAA
  | _ => 0

/-- An entry of the constant table as a vector value. -/
def cstVec (n : Nat) : Vec :=
  match n with
  | 80 => vecRC fun r _ => BitVec.ofNat 32 r
  | 81 => vecRC fun _ c => BitVec.ofNat 32 c
  | 82 => vecRC fun r c => BitVec.ofNat 32 (64 * r + c)
  | 83 => vecRC fun r c => BitVec.ofNat 32 (r % 4 * 64 + c)
  | 90 => vecRC fun r c => onesIf ((r + c) % 2 == 0)
  | 91 => vecRC fun _ c => onesIf (c < 32)
  | 92 => vecRC fun r _ => onesIf (r < 8)
  | 93 => vecRC fun r c => onesIf (r == c % 16)
  | _ => Vec.splat (cstWord n)

/-! ## Accumulator chunks (R223) -/

/-- The tile element, as a key of the accumulator store, that element p of chunk q of tile n is. -/
def chunkKey (n q p : Nat) : Nat := n * 16384 + (16 * (q / 2) + p / 64) * 128 + 64 * (q % 2) + p % 64
/-- The chunk as a vector. -/
def chunkRead (acc : Sparse Elem) (n q : Nat) : Vec :=
  if acc.isEmpty then [] else Vec.ofList ((List.range 1024).map fun p => Sparse.get 0 acc (chunkKey n q p))
/-- The store with a chunk replaced. -/
def chunkWrite (acc : Sparse Elem) (n q : Nat) (v : Vec) : Sparse Elem :=
  ((List.range 1024).zip v.list).foldl (fun m e => Sparse.set 0 m (chunkKey n q e.1) e.2) acc

end Sys2Proof.Machine
end

