-- ==== Sys2Proof/Machine/Form.lean ====
section
/-! DEFINITION. The form of a memory access by its instruction (R163 to R182, R300 to R313): space, class, landing latency,
size, alignment and kind; the ranges of the spaces (R114, R149, R155, R159, R160); and the parts an access is made of
(R284, R297). -/
namespace Sys2Proof.Machine

open Sys2Proof

/-- What an access does at its home. -/
inductive Acc | load | store | atomic | queue | line | command
deriving DecidableEq, Repr

/-- The form of an access. elems marks gathers and scatters, whose elements are separate accesses. -/
structure Form where
  acc : Acc
  sp : Space
  cls : Nat
  land : Nat
  bytes : Nat
  align : Nat
  grp : Nat := 0
  elems : Bool := false
  det : Nat := 2
deriving DecidableEq, Repr

def mForm (acc : Acc) (m : MArgs) (n al det : Nat) : Form :=
  { acc := acc, sp := m.sp, cls := m.cls.toNat, land := m.land.toNat, bytes := n, align := al, grp := m.grp.toNat, det := det }
def msForm (acc : Acc) (m : MSArgs) (n det : Nat) : Form :=
  { acc := acc, sp := m.sp, cls := m.cls.toNat, land := m.land.toNat, bytes := n, align := 8, grp := m.grp.toNat, det := det }
def gForm (acc : Acc) (m : GArgs) (det : Nat) : Form :=
  { acc := acc, sp := m.sp, cls := m.cls.toNat, land := m.land.toNat, bytes := 4096, align := 4, grp := m.grp.toNat, elems := true
    det := det }
def aForm (m : AArgs) (n : Nat) : Form :=
  { acc := .atomic, sp := m.sp, cls := m.cls.toNat, land := m.land.toNat, bytes := n, align := n }
/-- Whole-register accesses need 512-byte alignment, 16 in the lane space (R168). -/
def regAlign (sp : Space) : Nat := if sp = .lane then 16 else 512

/-- The form of a memory-slot instruction that makes an access; none for the others. det is its latency on a deterministic
space (R72). -/
def memForm : Instr → Option Form
  | .ldb m => some (mForm .load m 1 1 6) | .ldbs m => some (mForm .load m 1 1 6)
  | .ldh m => some (mForm .load m 2 2 6) | .ldhs m => some (mForm .load m 2 2 6)
  | .ldw m => some (mForm .load m 4 4 6) | .ldws m => some (mForm .load m 4 4 6)
  | .ldd m => some (mForm .load m 8 8 6)
  | .stb m => some (mForm .store m 1 1 2) | .sth m => some (mForm .store m 2 2 2)
  | .stw m => some (mForm .store m 4 4 2) | .std m => some (mForm .store m 8 8 2)
  | .vld m => some (mForm .load m 4096 (regAlign m.sp) 14) | .vst m => some (mForm .store m 4096 (regAlign m.sp) 2)
  | .vld16 m => some (msForm .load m 16 6) | .vld32 m => some (msForm .load m 32 6)
  | .vst16 m => some (msForm .store m 16 2) | .vst32 m => some (msForm .store m 32 2)
  | .qld m => some (mForm .queue m 4096 512 14)
  | .vgath m => some (gForm .load m 24) | .vscat m => some (gForm .store m 2)
  | .vlut m => some (gForm .load m 8) | .vlst m => some (gForm .store m 2)
  | .aincW m => some (aForm m 4) | .aincD m => some (aForm m 8) | .afaddbW m => some (aForm m 4) | .afaddbD m => some (aForm m 8)
  | .aaddW m => some (aForm m 4) | .aaddD m => some (aForm m 8) | .aaddfW m => some (aForm m 4)
  | .acasW m => some (aForm m 4) | .acasD m => some (aForm m 8) | .axchgW m => some (aForm m 4) | .axchgD m => some (aForm m 8)
  | .amaxW m => some (aForm m 4) | .amaxD m => some (aForm m 8) | .aminW m => some (aForm m 4) | .aminD m => some (aForm m 8)
  | .radd m => some (aForm m 8) | .rwait m => some (aForm m 8) | .rrd m => some (aForm m 8)
  | .tlbiva m => some (mForm .line m 0 1 2) | .l2wb m => some (mForm .line m 0 1 2)
  | .l2inv m => some (mForm .line m 0 1 2) | .l2wbinv m => some (mForm .line m 0 1 2)
  | .red m => some (mForm .command m 128 128 2) | .coll m => some (mForm .command m 128 128 2)
  | .lqput m => some (mForm .command m 128 128 2)
  | _ => none

/-- The ordering class of an access (R283), where it has one. red, coll and lqput are commands and have none (R290). -/
def Instr.ordClass (i : Instr) : Option Nat :=
  match memForm i with
  | some f => if f.acc = .command then none else some f.cls
  | none => none

/-! ## Ranges (R169) -/

/-- The causes of R350 that an access check raises. -/
def cDATA_ABORT : Nat := 0x91
def cMISALIGN : Nat := 0x92
def cSPM_RANGE : Nat := 0x93
def cGRV_RANGE : Nat := 0x94
def cLANE_RANGE : Nat := 0x95
def cCLR_RANGE : Nat := 0x96

/-- The partition's clearing list (R113). -/
def State.clrList (s : State) (p : Nat) : List Nat :=
  (List.range 1536).filter fun n => let w := s.wu n; WuCtl.state w == 1 && WuCtl.use w && WuCtl.cur w == p

/-- The range check of n bytes at an address of a space; the cause of a failure. reg marks a whole register in lane space. -/
def State.rangeCheck (s : State) (c : Nat) (sp : Space) (a n : Nat) (reg : Bool) : Option Nat :=
  match sp with
  | .glb => none
  | .spm => if a + n ≤ 0x400000 then none else some cSPM_RANGE
  | .grv =>
    let m := ((s.core c).rsr 0x084).toNat
    if a + n ≤ 0x800000 ∧ bitN m (4 * (a / 2 ^ 20) + 3) ∧ a % 2 ^ 20 + n ≤ 2 ^ 20 then none else some cGRV_RANGE
  | .clr => if a + n ≤ (s.clrList (s.core c).part).length * 2 ^ 20 then none else some cCLR_RANGE
  | .lane =>
    if reg then (if a < 2048 ∧ a + 16 ≤ 2048 then none else some cLANE_RANGE)
    else if a + n ≤ 0x80000 then none else some cLANE_RANGE

/-- The addresses and sizes of an access: one for a plain access, one an element for a gather or scatter (R174). -/
def accessAddrs (f : Form) (a : Word) (vi : Vec) : List (Nat × Nat) :=
  if f.elems then vi.list.map fun e => ((a + (e.setWidth 64) * 4).toNat, 4) else [(a.toNat, f.bytes)]

/-- The offset of a lane-table element (R175) and its lane. -/
def laneElem (a : Word) (p : Nat) (e : Elem) : Nat := (p / 64 % 4 * 64 + p % 64) * 2048 + (a.toNat % 2048 + 4 * e.toNat)

/-- Alignment then range of an access at issue (R168, R169, R175). -/
def State.accessCheck (s : State) (c : Nat) (i : Instr) (f : Form) (a : Word) (vi : Vec) : Option Nat :=
  if f.sp = .lane ∧ f.elems then
    if a.toNat % 4 ≠ 0 then some cMISALIGN
    else if a.toNat / 2048 ≠ 0 ∨ vi.list.any (fun e => decide (2044 < a.toNat % 2048 + 4 * e.toNat)) then some cLANE_RANGE
    else none
  else if a.toNat % f.align ≠ 0 then some cMISALIGN
  else
    let seg := match i with | .vld16 _ | .vld32 _ | .vst16 _ | .vst32 _ => true | _ => false
    let whole := f.sp = .lane && (match i with | .vld _ | .vst _ => true | _ => false)
    if f.sp = .lane && seg && decide (2048 < a.toNat % 2048 + f.bytes) then some cMISALIGN
    else (accessAddrs f a vi).findSome? fun e => s.rangeCheck c f.sp e.1 e.2 whole

/-! ## The core's own spaces (R149, R159 to R161, R167) -/

/-- The place in the lane slices of byte i of a vector register laid at a (R160). -/
def laneByte (a i : Nat) : Nat :=
  let p := i / 4
  let r := p / 64
  (r % 4 * 64 + p % 64) * 2048 + a + 4 * (r / 4) + i % 4

/-- The place of byte i of an access in spm or lane. -/
def detByte (i : Instr) (f : Form) (a : Word) (vi : Vec) (k : Nat) : Nat :=
  if f.elems then
    let e := Sparse.get 0 vi (k / 4)
    if f.sp = .lane then laneElem a (k / 4) e + k % 4 else (a + (e.setWidth 64) * 4).toNat + k % 4
  else if f.sp == .lane && (match i with | .vld _ | .vst _ => true | _ => false) then laneByte a.toNat k
  else a.toNat + k

/-- The bytes an access reads in spm or lane. -/
def Core.detRead (c : Core) (i : Instr) (f : Form) (a : Word) (vi : Vec) : Sparse Byte :=
  let m := if f.sp = .lane then c.lane else c.spm
  if m = [] then []
  else if !f.elems && f.sp == .spm then
    m.filterMap fun e => if a.toNat ≤ e.1 ∧ e.1 < a.toNat + f.bytes then some (e.1 - a.toNat, e.2) else none
  else Sparse.ofFn 0 f.bytes fun k => Sparse.get 0 m (detByte i f a vi k)

/-- The places in spm or lane that an access touches: address and length. -/
def detPlaces (i : Instr) (f : Form) (a : Word) (vi : Vec) : List (Nat × Nat) :=
  if !f.elems && f.sp == .spm then [(a.toNat, f.bytes)] else (List.range f.bytes).map fun k => (detByte i f a vi k, 1)

/-- Write the bytes of a map, n of them, at the places that at_ gives, in ascending order. -/
def putBytes (m : Sparse Byte) (at_ : Nat → Nat) (n : Nat) (bs : Sparse Byte) : Sparse Byte :=
  (List.range n).foldl (fun m k => Sparse.set 0 m (at_ k) (Sparse.get 0 bs k)) m

/-- A store performs in spm or lane. -/
def Core.detWrite (c : Core) (i : Instr) (f : Form) (a : Word) (vi : Vec) (bs : Sparse Byte) : Core :=
  if f.sp = .lane then { c with lane := putBytes c.lane (detByte i f a vi) f.bytes bs }
  else { c with spm := putBytes c.spm (detByte i f a vi) f.bytes bs }

/-! ## Ports (R150, R151, R161, R254) -/

/-- Port numbers: bank group g reads at 2g and writes at 2g + 1; the lane slices are group 4. -/
def portOf (g : Nat) (write : Bool) : Nat := 2 * g + b2n write

/-- The ports an access takes and for how many cycles. -/
def accessPorts (i : Instr) (f : Form) (a : Word) : List (Nat × Nat) :=
  let wr := f.acc == .store
  match f.sp with
  | .spm =>
    if f.elems then (List.range 4).map fun g => (portOf g wr, 16)
    else
      let n := if f.bytes = 4096 then 8 else 1
      let g := a.toNat / 2 ^ 20 % 4
      let h := (a.toNat + f.bytes - 1) / 2 ^ 20 % 4
      if g = h then [(portOf g wr, n)] else [(portOf g wr, n), (portOf h wr, n)]
  | .lane => [(portOf 4 wr, match i with | .vld _ | .vst _ | .vlut _ | .vlst _ => 4 | _ => 1)]
  | _ => []

/-! ## Parts of an elastic access (R115, R156, R157, R284, R297) -/

/-- Split an access into parts: (offset, address, length). Loads go granule by granule, stores sector by sector, grv by 512
bytes, gathers and scatters element by element; an atomic is one part. -/
def accessParts (f : Form) (a : Word) (vi : Vec) : List (Nat × Nat × Nat) :=
  if f.elems then ((accessAddrs f a vi).zip (List.range 1024)).map fun e => (4 * e.2, e.1.1, 4)
  else if f.acc = .atomic then [(0, a.toNat, f.bytes)]
  else
    let q := match f.sp with
      | .grv => 512
      | _ => if f.acc = .store then 32 else 8
    (splitAt q a.toNat f.bytes).map fun e => (e.1, a.toNat + e.1, e.2)

/-- The home of a clr address: way unit and byte. -/
def State.clrHome (s : State) (p a : Nat) : Nat × Nat := ((s.clrList p).getD (a / 2 ^ 20) 0, a % 2 ^ 20)

/-- The core whose bank group 3 is logical window w of core c (R155). -/
def State.grvCore (s : State) (c w : Nat) : Nat := groveOf c * 8 + fldN ((s.core c).rsr 0x084).toNat (4 * w) 3

/-- The parts of a clr or grv access with their homes and arrival cycles, counted from schedule cycle t (R115, R156). -/
def State.fixedPieces (s : State) (c : Nat) (f : Form) (a : Word) (vi : Vec) (t : Nat) : List Piece :=
  (accessParts f a vi).map fun e =>
    match f.sp with
    | .clr =>
      let (u, o) := s.clrHome (s.core c).part e.2.1
      { off := e.1, len := e.2.2, home := .clr u, at_ := o, due := t + (if wuDie u = dieOf c then 48 else 96) }
    | _ =>
      let k := s.grvCore c (e.2.1 / 2 ^ 20)
      { off := e.1, len := e.2.2, home := .grv k, at_ := 0x300000 + e.2.1 % 2 ^ 20, due := t + 12 + 2 * meshDist (posOf c) (posOf k) }

end Sys2Proof.Machine
end

