-- ==== Sys2Proof/Machine/Sys.lean ====
section
/-! DEFINITION. System registers as a core reads and writes them (R239 to R241, R267, R323, R341, R358, R387, R401, R402,
R415, R422): stored, shared by a partition, or computed. -/
namespace Sys2Proof.Machine

open Sys2Proof

/-- Q.STAT of a core (R176). -/
def Core.qStat (c : Core) : Word :=
  BitVec.ofNat 64 ((List.range 4).foldl (fun a n =>
    let q := c.queues.getD n []
    let rdy := (q.takeWhile (·.filled)).length
    a + (q.length + 16 * rdy) * 2 ^ (8 * n)) 0)

/-- TK.PEND and TK.FAIL (R241). -/
def Core.tkPend (c : Core) : Word :=
  BitVec.ofNat 64 (c.tokens.foldl (fun a e => if e.2.pend && decide (e.1 < 64) then a + 2 ^ e.1 else a) 0)
def Core.tkFail (c : Core) : Word :=
  BitVec.ofNat 64 (c.tokens.foldl (fun a e => if e.2.fail && decide (e.1 < 64) then a + 2 ^ e.1 else a) 0)

/-- GRP.STAT (R323). -/
def Core.grpStat (c : Core) : Word :=
  let f := (List.range 4).foldl (fun a n => let g := c.groups.getD n {}; a + (g.st + 4 * g.last) * 2 ^ (8 * n)) 0
  BitVec.ofNat 64 (f + (c.groups.map (·.lines.length)).sum * 2 ^ 32)

/-- The virtual counter of partition p (R401). -/
def State.vc (s : State) (p : Nat) : Word := s.time - s.rw (rpage (0x8030 + 64 * p))

/-- The counter that LPC.SEL selects (R427): its key in the profile counters, none where the index is unassigned. -/
def lpcKey (sel : Word) : Option Nat :=
  let i := getF sel 2 6
  if i ≤ 26 ∧ i ≠ 7 ∧ i ≠ 15 then some (getF sel 0 2 * 64 + i) else none

/-- An event identifier that the core implements (R402, R427). -/
def eventKnown (id : Nat) : Bool :=
  let n := id % 65536
  decide (id / 65536 = 1 ∧ n ≤ 26 ∧ n ≠ 7 ∧ n ≠ 15)

/-- The value of a system register as core c reads it. -/
def State.sysRead (s : State) (c i : Nat) : Word :=
  let k := s.core c
  if i = 0x000 then BitVec.ofNat 64 (c % 128 + k.lpos * 2 ^ 8 + k.part * 2 ^ 16)
  else if i = 0x001 then s.time
  else if i = 0x002 then BitVec.ofNat 64 ((s.vc k.part).toNat % 2 ^ 32)
  else if i = 0x003 then k.shadow.setWidth 64
  else if i = 0x004 then s.vc k.part
  else if i = 0x01A then k.qStat
  else if i = 0x080 then k.tkPend
  else if i = 0x081 then k.tkFail
  else if i = 0x085 then s.memCap
  else if sysShared i then s.rp k.part i
  else if i = 0x140 then s.rw (rpage (0x9000 + 8 * c))
  else if i = 0x141 then s.rw (rpage (0x9400 + 8 * c))
  else if i = 0x143 then s.rw (rpage (0x8020 + 64 * k.part))
  else if i = 0x162 then k.grpStat
  else if i = 0x182 then BitVec.ofNat 64 k.sched
  else if i = 0x191 then (match lpcKey (k.rsr 0x190) with | some n => Sparse.get 0 k.prof n | none => 0)
  else k.rsr i

/-- A wc operation that leaves a signature has triggered and not landed: the next one starts from what it leaves, whatever is written
to WC.SIG before its landing (R221, R222). -/
def Core.signing (c : Core) : Bool := c.pipe.any fun o => match o.act with
  | some (.wcSig _) | some (.wcSigclr _) => !o.fault
  | _ => false

/-- A system register takes a value: the fields its map marks RW change (R239). -/
def State.sysWrite (s : State) (c i : Nat) (v : Word) : State :=
  let k := s.core c
  let new (old : Word) : Word := maskWrite old v (sysMask i)
  if i = 0x086 then (s.wp k.part i (new (s.rp k.part i))).newEpoch k.part
  else if sysShared i then s.wp k.part i (new (s.rp k.part i))
  else if i = 0x018 then s.modCore c fun k => { (k.wsr i (new (k.rsr i))) with sig := if k.signing then k.sig else v.setWidth 32 }
  else if i = 0x191 then
    match lpcKey (k.rsr 0x190) with
    | some n => s.modCore c fun k => { k with prof := Sparse.set 0 k.prof n v }
    | none => s
  else if i = 0x198 then
    s.modCore c fun k => { k.wsr i (new (k.rsr i)) with trcDue := s.wall + getF v 8 24 * 1024 }
  else if 0x1A0 ≤ i ∧ i < 0x1A8 then
    let bad := !eventKnown (v.toNat % 2 ^ 32)
    s.modCore c fun k =>
      let k := k.wsr i (setF (new (k.rsr i)) 32 1 (b2n bad))
      if bad then k.wsr (i + 8) 0 else k
  else if 0x1A8 ≤ i ∧ i < 0x1B0 then
    if bitN (k.rsr (i - 8)).toNat 32 then s else s.modCore c fun k => k.wsr i v
  else s.modCore c fun k => k.wsr i (new (k.rsr i))

/-- The registers whose reads sample and are not replayed (R380, R401, R415). -/
def sysSampled (i : Nat) : Bool := i = 0x001 || i = 0x002 || i = 0x004

end Sys2Proof.Machine
end

