-- ==== Sys2Proof/Machine/Operands.lean ====
section
/-! DEFINITION. Operands: move sources (R58, R65, R178, R203, R205, R207), the source and unit of a trigger (R60), the operation
record an instruction leaves when it issues (R352, R353), and its latency, unit and destination (R72). -/
namespace Sys2Proof.Machine

open Sys2Proof

/-- The vector value of a move source as it stands (R58). -/
def Core.src (c : Core) : Src → Vec
  | .v n => c.rv n.toNat
  | .x n => Vec.splat ((c.rx n.toNat).setWidth 32)
  | .y u => c.rRes (0x140 + u.code)
  | .pop n => (match c.queues.getD n.toNat [] with | e :: _ => Vec.ofImage e.data | [] => [])
  | .peek n => (match c.queues.getD n.toNat [] with | e :: _ => Vec.ofImage e.data | [] => [])
  | .k n => Vec.ofMask (c.rk n.toNat)
  | .cst n => cstVec n.toNat

/-- The source and the unit of a trigger. -/
def Instr.trigger : Instr → Option (Src × VUnit)
  | .vaMov a u _ => some (a, u.unit) | .vaAdd a u _ => some (a, u.unit) | .vaSub a u _ => some (a, u.unit)
  | .vaMul a u _ => some (a, u.unit) | .vaFma a u _ => some (a, u.unit) | .vaFms a u _ => some (a, u.unit)
  | .vaFnma a u _ => some (a, u.unit) | .vaMin a u _ => some (a, u.unit) | .vaMax a u _ => some (a, u.unit)
  | .vaAbs a u _ => some (a, u.unit) | .vaNeg a u _ => some (a, u.unit) | .vaAnd a u _ => some (a, u.unit)
  | .vaOr a u _ => some (a, u.unit) | .vaXor a u _ => some (a, u.unit) | .vaAndn a u _ => some (a, u.unit)
  | .vaNot a u _ => some (a, u.unit) | .vaSll a u _ => some (a, u.unit) | .vaSrl a u _ => some (a, u.unit)
  | .vaSra a u _ => some (a, u.unit) | .vaMulhi a u _ => some (a, u.unit) | .vaSel a u _ => some (a, u.unit)
  | .vaCeq a u _ => some (a, u.unit) | .vaCne a u _ => some (a, u.unit) | .vaClt a u _ => some (a, u.unit)
  | .vaCle a u _ => some (a, u.unit) | .vaCun a u _ => some (a, u.unit) | .vaKand a u _ => some (a, u.unit)
  | .vaKor a u _ => some (a, u.unit) | .vaKxor a u _ => some (a, u.unit) | .vaKandn a u _ => some (a, u.unit)
  | .vaKnot a u _ => some (a, u.unit) | .vaKcnt a u _ => some (a, u.unit) | .vpRotr a _ => some (a, .vp)
  | .vpBcr a _ => some (a, .vp) | .vpSumr a _ => some (a, .vp) | .vpMaxr a _ => some (a, .vp)
  | .vpMinr a _ => some (a, .vp) | .vpRotc a _ => some (a, .vp) | .vpBcc a _ => some (a, .vp)
  | .vpSumc a _ => some (a, .vp) | .vpMaxc a _ => some (a, .vp) | .vpMinc a _ => some (a, .vp)
  | .vpTrn16 a _ => some (a, .vp) | .vpShuf a _ => some (a, .vp) | .sfExp2 a _ => some (a, .sf)
  | .sfLog2 a _ => some (a, .sf) | .sfRcp a _ => some (a, .sf) | .sfRsqrt a _ => some (a, .sf)
  | .sfSqrt a _ => some (a, .sf) | .sfTanh a _ => some (a, .sf) | .sfSin a _ => some (a, .sf)
  | .sfCos a _ => some (a, .sf) | .sfErf a _ => some (a, .sf) | .cvDn a _ _ _ => some (a, .cv)
  | .cvUp a _ => some (a, .cv) | .cvUpRounding a _ _ => some (a, .cv) | .wcSig a => some (a, .wc)
  | .wcSigclr a => some (a, .wc) | .wcCmp a => some (a, .wc) | .apRd a => some (a, .ap) | .apWr a => some (a, .ap)
  | .apAcc a => some (a, .ap)
  | _ => none

/-- The source of any move. -/
def Instr.moveSrc : Instr → Option Src
  | .move a _ => some a
  | i => (Instr.trigger i).map (·.1)

/-- The latches a unit has, as vectors in the order .a, .b, .c, .m (R353). -/
def Core.latches (c : Core) (u : VUnit) : List Vec := u.latches.map fun l => c.rLatch l.code

/-- The unit code of a record (R352). -/
def Instr.unitCode (i : Instr) : Nat :=
  match Instr.trigger i with
  | some (_, u) => u.code + 1
  | none => match i with
    | .move .. => 0
    | .mul .. => 9 | .mulh .. => 9 | .mulhu .. => 9
    | .div .. => 10 | .divu .. => 10 | .rem .. => 10 | .remu .. => 10
    | i => match i.kind with
      | some .sa => 8 | some .sb => 8 | some .mx => 11 | some .sc => 12 | some .mem => 13 | _ => 0

/-- The record kind of an instruction (R352). -/
def Instr.recKind (i : Instr) : Nat :=
  match i.kind with
  | some .sa => 1 | some .sb => 1 | some .mv => 2 | some .mem => 3 | some .mx => 4 | some .sc => 5 | none => 6

/-! ## Issue -/

/-- The slot of the cursor issues an operation that lands n cycles later: it goes to the end of the operations in flight. -/
def Core.push (c : Core) (u : Cur) (i : Instr) (n : Nat) (f : Op → Op) : Core :=
  { c with nextId := c.nextId + 1
           pipe := c.pipe ++ [f { id := c.nextId, act := some i, slot := u.slot, land := c.sched + n, addr := u.addr, wit := u.wit, root := c.rsr 0x082, tag := getF (c.rsr 0x083) 0 4 }] }

/-- Issue an operation of the cursor's core. -/
def State.issue (s : State) (i : Instr) (n : Nat) (f : Core → Op → Op) : State :=
  s.modMe fun c => c.push s.cur i n (f c)

/-- Raise exception flags of a landing operation in its unit's record (R200). -/
def Core.raise (c : Core) (i flags addr : Nat) : Core := c.wsr i (excAfter (c.rsr i) flags addr)

/-! ## Registers of the control path -/

/-- LOOP.n.CNT, FIRST and END of a core (R241). -/
def Core.loopCnt (c : Core) (n : Nat) : Nat := getF (c.rsr (0x20 + 4 * n)) 0 32
def Core.loopFirst (c : Core) (n : Nat) : Nat := (c.rsr (0x21 + 4 * n)).toNat
def Core.loopEnd (c : Core) (n : Nat) : Nat := (c.rsr (0x22 + 4 * n)).toNat

/-- The address of generator n (R237). -/
def Core.ag (c : Core) (n : Nat) : Word := c.rsr (0x30 + 4 * n) + c.rsr (0x33 + 4 * n)
/-- The remainder of R238. -/
def agWrap (ofs wrap : Word) : Word := if wrap = 0 then ofs else BitVec.ofInt 64 (ofs.toInt.emod (wrap.toNat : Int))
/-- A use of generator n advances it (R238). -/
def Core.agStep (c : Core) (n : Nat) : Core :=
  c.wsr (0x33 + 4 * n) (agWrap (c.rsr (0x33 + 4 * n) + c.rsr (0x31 + 4 * n)) (c.rsr (0x32 + 4 * n)))

/-- A code address: bits [54:2], the others zero. -/
def codeAddr (a : Nat) : Nat := a % 2 ^ 55 / 4 * 4
/-- The target address + 4 off with a signed offset. -/
def relTarget (addr : Nat) {n : Nat} (off : BitVec n) : Nat := (BitVec.ofNat 64 addr + (off.signExtend 64) * 4).toNat / 4 * 4
/-- A register target: bits [1:0] cleared (R46); an address at or above 2^55 fails its fetch (R88). -/
def regTarget (w : Word) : Nat := w.toNat / 4 * 4

/-! ## Tags of the core context -/

/-- The context of accesses of core c for a request. -/
def State.reqOf (s : State) (c : Nat) : Req := (s.ctx c).req

end Sys2Proof.Machine
end

