-- ==== Sys2Proof/Machine/Scalar.lean ====
section
/-! DEFINITION. The scalar slots (R227 to R243, R344, R364, R425): what each instruction does in its issue cycle, and the values
that land. -/
namespace Sys2Proof.Machine

open Sys2Proof

/-! ## Shared issue -/

/-- The word 1 for true and 0 for false. -/
def flagWord (b : Bool) : Word := if b then 1 else 0

/-- A scalar operation with two sources and a destination, landing n cycles later (R227, R353). -/
def issueRR (i : Instr) (n : Nat) (d a b : BitVec 6) (s : State) : State :=
  s.issue i n fun c o => { o with ws := [c.rx a.toNat, c.rx b.toNat, 0], dest := 0x100 + d.toNat }

/-- A scalar operation with one source. -/
def issueRI (i : Instr) (d a : BitVec 6) (s : State) : State :=
  s.issue i 1 fun c o => { o with ws := [c.rx a.toNat, 0, 0], dest := 0x100 + d.toNat }

/-- A divide holds its slot's divider for 18 cycles (R66, R229). -/
def issueDiv (i : Instr) (d a b : BitVec 6) (s : State) : State :=
  (issueRR i 18 d a b s).modMe fun c => { c with unitEnd := Sparse.set 0 c.unitEnd (7 + s.cur.slot) (c.sched + 18) }

/-- An operation that delivers a value read at issue (lcrd, agrd, srrd, links). -/
def issueVal (i : Instr) (n : Nat) (d : BitVec 6) (w1 : Word) (v : Core → Word) (s : State) : State :=
  s.issue i n fun c o => { o with ws := [w1, v c, 0], dest := 0x100 + d.toNat }

/-- A transfer taken: its target issues after two more bundles (R231). -/
def Core.take (c : Core) (target : Nat) : Core := { c with pend := c.pend ++ [(target, 3)] }

/-- A branch (R232). -/
def branchIf (cond : Word → Word → Bool) (a b : BitVec 6) (off : BitVec 12) (s : State) : State :=
  s.modMe fun c => if cond (c.rx a.toNat) (c.rx b.toNat) then c.take (relTarget s.cur.addr off) else c

/-- A slot instruction that needs a level the core is not at: the bundle stops with PRIVILEGE (R67, R68). bundleIssue checks
it before any slot issues; this is the same check made by the instruction itself. -/
def guardLevel (i : Instr) (s : State) (f : State → State) : State :=
  if s.me.level.reaches i.needs then f s
  else s.modMe fun c => { c with trapped := some (0x81, 7 + 16 * s.cur.slot) }

/-! ## Results (R228 to R230) -/

/-- Signed quotient rounded toward zero with the corners of R229, and the flags. -/
def divVal (a b : Word) : Word × Nat :=
  if b = 0 then (BitVec.allOnes 64, 2)
  else if a = BitVec.intMin 64 ∧ b = BitVec.allOnes 64 then (BitVec.intMin 64, 32)
  else (BitVec.ofInt 64 (a.toInt.tdiv b.toInt), 0)
def divuVal (a b : Word) : Word × Nat := if b = 0 then (BitVec.allOnes 64, 2) else (a / b, 0)
def remVal (a b : Word) : Word × Nat :=
  if b = 0 then (a, 2)
  else if a = BitVec.intMin 64 ∧ b = BitVec.allOnes 64 then (0, 32)
  else (BitVec.ofInt 64 (a.toInt.tmod b.toInt), 0)
def remuVal (a b : Word) : Word × Nat := if b = 0 then (a, 2) else (a % b, 0)

/-- The number of leading zero bits among the low n bits of a number. -/
def lead (w : Word) : Nat → Nat
  | 0 => 0
  | n + 1 => if w.getLsbD n then 0 else lead w n + 1
def clzVal (a : Word) : Word := BitVec.ofNat 64 (lead a 64)
def ctzVal (a : Word) : Word := BitVec.ofNat 64 (lead a.reverse 64)
def popcVal (a : Word) : Word := BitVec.ofNat 64 ((List.range 64).countP fun i => a.getLsbD i)

/-- The value and the flags that a scalar operation lands, from its three payload words (R228 to R230, R353). -/
def scalarVal (i : Instr) (a b c : Word) : Option (Word × Nat) :=
  match i with
  | .add .. => some (a + b, 0) | .sub .. => some (a - b, 0)
  | .and .. => some (a &&& b, 0) | .or .. => some (a ||| b, 0) | .xor .. => some (a ^^^ b, 0) | .andn .. => some (a &&& ~~~b, 0)
  | .sll .. => some (a <<< (b.toNat % 64), 0) | .srl .. => some (a >>> (b.toNat % 64), 0)
  | .sra .. => some (a.sshiftRight (b.toNat % 64), 0)
  | .slt .. => some (flagWord (a.slt b), 0) | .sltu .. => some (flagWord (a.ult b), 0) | .seq .. => some (flagWord (a == b), 0)
  | .min .. => some (if a.slt b then a else b, 0) | .max .. => some (if a.slt b then b else a, 0)
  | .minu .. => some (if a.ult b then a else b, 0) | .maxu .. => some (if a.ult b then b else a, 0)
  | .mul .. => some (a * b, 0)
  | .mulh .. => some (BitVec.ofInt 64 (a.toInt * b.toInt / 2 ^ 64), 0)
  | .mulhu .. => some (BitVec.ofNat 64 (a.toNat * b.toNat / 2 ^ 64), 0)
  | .div .. => some (divVal a b) | .divu .. => some (divuVal a b) | .rem .. => some (remVal a b) | .remu .. => some (remuVal a b)
  | .clz .. => some (clzVal a, 0) | .ctz .. => some (ctzVal a, 0) | .popc .. => some (popcVal a, 0)
  | .addi _ _ n => some (a + sext n, 0) | .andi _ _ n => some (a &&& zext n, 0) | .ori _ _ n => some (a ||| zext n, 0)
  | .xori _ _ n => some (a ^^^ zext n, 0)
  | .slli _ _ n => some (a <<< n.toNat, 0) | .srli _ _ n => some (a >>> n.toNat, 0) | .srai _ _ n => some (a.sshiftRight n.toNat, 0)
  | .slti _ _ n => some (flagWord (a.slt (sext n)), 0) | .sltiu _ _ n => some (flagWord (a.ult (sext n)), 0)
  | .li _ n => some (sext n, 0) | .lui _ n => some (sext n <<< 18, 0) | .lsh _ n => some ((c <<< 18) ||| zext n, 0)
  | .lcrd .. => some (b, 0) | .agrd .. => some (b, 0) | .srrd .. => some (b, 0) | .jl .. => some (b, 0) | .jlr .. => some (b, 0)
  | _ => none

/-- The value of a system register that a write form leaves (R239), by the write form and the value of xa. -/
def sysNew (i : Instr) (old a : Word) : Word :=
  match i with
  | .srset .. => old ||| a
  | .srclr .. => old &&& ~~~a
  | _ => a

/-! ## Register-register (R228, R229) -/

/-- R228: xd := xa + xb. -/
def execAdd (d a b : BitVec 6) (s : State) : Out := onCore s (issueRR (.add d a b) 1 d a b)

/-- R228: xd := xa - xb. -/
def execSub (d a b : BitVec 6) (s : State) : Out := onCore s (issueRR (.sub d a b) 1 d a b)

/-- R228: bitwise and. -/
def execAnd (d a b : BitVec 6) (s : State) : Out := onCore s (issueRR (.and d a b) 1 d a b)

/-- R228: bitwise or. -/
def execOr (d a b : BitVec 6) (s : State) : Out := onCore s (issueRR (.or d a b) 1 d a b)

/-- R228: bitwise exclusive or. -/
def execXor (d a b : BitVec 6) (s : State) : Out := onCore s (issueRR (.xor d a b) 1 d a b)

/-- R228: xa and not xb. -/
def execAndn (d a b : BitVec 6) (s : State) : Out := onCore s (issueRR (.andn d a b) 1 d a b)

/-- R228: left shift. -/
def execSll (d a b : BitVec 6) (s : State) : Out := onCore s (issueRR (.sll d a b) 1 d a b)

/-- R228: logical right shift. -/
def execSrl (d a b : BitVec 6) (s : State) : Out := onCore s (issueRR (.srl d a b) 1 d a b)

/-- R228: arithmetic right shift. -/
def execSra (d a b : BitVec 6) (s : State) : Out := onCore s (issueRR (.sra d a b) 1 d a b)

/-- R228: signed less-than. -/
def execSlt (d a b : BitVec 6) (s : State) : Out := onCore s (issueRR (.slt d a b) 1 d a b)

/-- R228: unsigned less-than. -/
def execSltu (d a b : BitVec 6) (s : State) : Out := onCore s (issueRR (.sltu d a b) 1 d a b)

/-- R228: equality. -/
def execSeq (d a b : BitVec 6) (s : State) : Out := onCore s (issueRR (.seq d a b) 1 d a b)

/-- R228: signed minimum. -/
def execMin (d a b : BitVec 6) (s : State) : Out := onCore s (issueRR (.min d a b) 1 d a b)

/-- R228: signed maximum. -/
def execMax (d a b : BitVec 6) (s : State) : Out := onCore s (issueRR (.max d a b) 1 d a b)

/-- R228: unsigned minimum. -/
def execMinu (d a b : BitVec 6) (s : State) : Out := onCore s (issueRR (.minu d a b) 1 d a b)

/-- R228: unsigned maximum. -/
def execMaxu (d a b : BitVec 6) (s : State) : Out := onCore s (issueRR (.maxu d a b) 1 d a b)

/-- R228: low product, landing at t + 3 (R72). -/
def execMul (d a b : BitVec 6) (s : State) : Out := onCore s (issueRR (.mul d a b) 3 d a b)

/-- R228: high signed product, landing at t + 3 (R72). -/
def execMulh (d a b : BitVec 6) (s : State) : Out := onCore s (issueRR (.mulh d a b) 3 d a b)

/-- R228: high unsigned product, landing at t + 3 (R72). -/
def execMulhu (d a b : BitVec 6) (s : State) : Out := onCore s (issueRR (.mulhu d a b) 3 d a b)

/-- R229: signed quotient. -/
def execDiv (d a b : BitVec 6) (s : State) : Out := onCore s (issueDiv (.div d a b) d a b)

/-- R229: unsigned quotient. -/
def execDivu (d a b : BitVec 6) (s : State) : Out := onCore s (issueDiv (.divu d a b) d a b)

/-- R229: signed remainder. -/
def execRem (d a b : BitVec 6) (s : State) : Out := onCore s (issueDiv (.rem d a b) d a b)

/-- R229: unsigned remainder. -/
def execRemu (d a b : BitVec 6) (s : State) : Out := onCore s (issueDiv (.remu d a b) d a b)

/-- R228: leading zeros. -/
def execClz (d a : BitVec 6) (s : State) : Out := onCore s (issueRI (.clz d a) d a)

/-- R228: trailing zeros. -/
def execCtz (d a : BitVec 6) (s : State) : Out := onCore s (issueRI (.ctz d a) d a)

/-- R228: one bits. -/
def execPopc (d a : BitVec 6) (s : State) : Out := onCore s (issueRI (.popc d a) d a)


/-! ## Immediates (R230) -/

/-- R230. -/
def execAddi (d a : BitVec 6) (imm : BitVec 12) (s : State) : Out := onCore s (issueRI (.addi d a imm) d a)

/-- R230. -/
def execAndi (d a : BitVec 6) (imm : BitVec 12) (s : State) : Out := onCore s (issueRI (.andi d a imm) d a)

/-- R230. -/
def execOri (d a : BitVec 6) (imm : BitVec 12) (s : State) : Out := onCore s (issueRI (.ori d a imm) d a)

/-- R230. -/
def execXori (d a : BitVec 6) (imm : BitVec 12) (s : State) : Out := onCore s (issueRI (.xori d a imm) d a)

/-- R230. -/
def execSlti (d a : BitVec 6) (imm : BitVec 12) (s : State) : Out := onCore s (issueRI (.slti d a imm) d a)

/-- R230. -/
def execSltiu (d a : BitVec 6) (imm : BitVec 12) (s : State) : Out := onCore s (issueRI (.sltiu d a imm) d a)

/-- R230. -/
def execSlli (d a sh : BitVec 6) (s : State) : Out := onCore s (issueRI (.slli d a sh) d a)

/-- R230. -/
def execSrli (d a sh : BitVec 6) (s : State) : Out := onCore s (issueRI (.srli d a sh) d a)

/-- R230. -/
def execSrai (d a sh : BitVec 6) (s : State) : Out := onCore s (issueRI (.srai d a sh) d a)

/-- R230. -/
def execLi (d : BitVec 6) (imm : BitVec 18) (s : State) : Out := onCore s (issueVal (.li d imm) 1 d 0 (fun _ => 0))

/-- R230. -/
def execLui (d : BitVec 6) (imm : BitVec 18) (s : State) : Out := onCore s (issueVal (.lui d imm) 1 d 0 (fun _ => 0))

/-- R230: the old xd is read at issue. -/
def execLsh (d : BitVec 6) (imm : BitVec 18) (s : State) : Out :=
  onCore s fun s => s.issue (.lsh d imm) 1 fun c o => { o with ws := [0, 0, c.rx d.toNat], dest := 0x100 + d.toNat }

/-! ## Control transfers (R231, R232) -/

/-- R232. -/
def execBeq (a b : BitVec 6) (off : BitVec 12) (s : State) : Out := onCore s (branchIf (fun x y => x == y) a b off)

/-- R232. -/
def execBne (a b : BitVec 6) (off : BitVec 12) (s : State) : Out := onCore s (branchIf (fun x y => x != y) a b off)

/-- R232. -/
def execBlt (a b : BitVec 6) (off : BitVec 12) (s : State) : Out := onCore s (branchIf (fun x y => x.slt y) a b off)

/-- R232. -/
def execBge (a b : BitVec 6) (off : BitVec 12) (s : State) : Out := onCore s (branchIf (fun x y => !x.slt y) a b off)

/-- R232. -/
def execBltu (a b : BitVec 6) (off : BitVec 12) (s : State) : Out := onCore s (branchIf (fun x y => x.ult y) a b off)

/-- R232. -/
def execBgeu (a b : BitVec 6) (off : BitVec 12) (s : State) : Out := onCore s (branchIf (fun x y => !x.ult y) a b off)


/-- The link of a jl or jlr (R232): three bundles forward from the bundle at an address, by the headers in the instruction
cache. header reads the header at an address, where it is held. -/
def linkFrom (header : Nat → Option Nat) : Nat → Nat → Option Nat
  | 0, a => some a
  | n + 1, a => match header a with
    | some h => linkFrom header n (codeAddr (a + Header.len h))
    | none => none

/-- The instruction cache of core c holds a virtual line: its set holds the device physical line that it translates to (R244). -/
def State.heldLine (s : State) (c line : Nat) : Option ICLine :=
  match s.fetchPa c line with
  | some pl => (s.core c).icache.find? fun l => l.set_ == line % 256 && l.line == pl
  | none => none
def State.lineHeld (s : State) (c line : Nat) : Bool := (s.heldLine c line).isSome

/-- n bytes of code at a virtual address, as a number, if every line of them is held (R245). -/
def State.code (s : State) (c a n : Nat) : Option Nat :=
  let lines := (upto (a / 128) ((a + n - 1) / 128 - a / 128 + 1)).map fun l => (l, s.heldLine c l)
  if lines.all fun e => e.2.isSome then
    some (natLE ((List.range n).map fun i => match lines.find? fun e => e.1 == (a + i) / 128 with
      | some (_, some l) => Sparse.get 0 l.data ((a + i) % 128)
      | _ => 0))
  else none
/-- The header word at a virtual address of the cursor's core. -/
def State.header (s : State) (a : Nat) : Option Nat := s.code s.cur.core a 4

/-- The link of the bundle at the cursor; bundleIssue holds a jl or jlr until its headers are held (R232). -/
def State.link (s : State) : Word := BitVec.ofNat 64 ((linkFrom s.header 3 s.cur.addr).getD s.cur.addr)

/-- R232: j target. -/
def execJ (off : BitVec 24) (s : State) : Out := onCore s fun s => s.modMe fun c => c.take (relTarget s.cur.addr off)
/-- R232: jl xd, target. -/
def execJl (d : BitVec 6) (off : BitVec 18) (s : State) : Out :=
  onCore s fun s => (issueVal (.jl d off) 1 d 0 (fun _ => s.link) s).modMe fun c => c.take (relTarget s.cur.addr off)
/-- R232: jr xa. -/
def execJr (a : BitVec 6) (s : State) : Out :=
  onCore s fun s => s.modMe fun c => c.take (regTarget (c.rx a.toNat))
/-- R232: jlr xd, xa; xa is read at issue. -/
def execJlr (d a : BitVec 6) (s : State) : Out :=
  onCore s fun s => (issueVal (.jlr d a) 1 d (s.me.rx a.toNat) (fun _ => s.link) s).modMe fun c =>
    c.take (regTarget (s.me.rx a.toNat))

/-! ## Loops and generators (R233, R236, R237) -/

/-- Arm a loop counter at t + 1: the count and the first bundle are the payload (R233, R353). -/
def issueLoop (i : Instr) (xa : Word) (cnt : Nat) (s : State) : State :=
  let first := ((linkFrom s.header 1 s.cur.addr).getD (s.cur.addr + 4))
  s.issue i 1 fun _ o => { o with ws := [xa, BitVec.ofNat 64 (if cnt = 0 then 1 else cnt), BitVec.ofNat 64 (codeAddr first)] }

/-- R233: loop lcn, xa, end. -/
def execLoop (n : BitVec 2) (a : BitVec 6) (off : BitVec 12) (s : State) : Out :=
  onCore s fun s => issueLoop (.loop n a off) (s.me.rx a.toNat) ((s.me.rx a.toNat).toNat % 2 ^ 32) s
/-- R233: loopi lcn, count, end. -/
def execLoopi (n : BitVec 2) (cnt : BitVec 10) (off : BitVec 12) (s : State) : Out :=
  onCore s fun s => issueLoop (.loopi n cnt off) 0 (cnt.toNat + 1) s
/-- R236: lcrd xd, lcn. -/
def execLcrd (d : BitVec 6) (n : BitVec 2) (s : State) : Out :=
  onCore s (issueVal (.lcrd d n) 1 d 0 (fun c => c.rsr (0x20 + 4 * n.toNat)))

/-- The counter, the loop's number and the bounds that a landing loop instruction sets. -/
def Core.arm (c : Core) (n : Nat) (cnt first : Word) (addr off : Nat) : Core :=
  ((c.wsr (0x20 + 4 * n) (cnt &&& 0xFFFFFFFF)).wsr (0x21 + 4 * n) (first &&& maskHL 54 2)).wsr (0x22 + 4 * n)
    (BitVec.ofNat 64 (codeAddr (addr + 4 * off)))

/-- R237: agbase agn, xa. -/
def execAgbase (n : BitVec 2) (a : BitVec 6) (s : State) : Out :=
  onCore s fun s => s.issue (.agbase n a) 1 fun c o => { o with ws := [c.rx a.toNat, 0, 0] }
/-- R237: agstep agn, xa. -/
def execAgstep (n : BitVec 2) (a : BitVec 6) (s : State) : Out :=
  onCore s fun s => s.issue (.agstep n a) 1 fun c o => { o with ws := [c.rx a.toNat, 0, 0] }
/-- R237: agwrap agn, xa. -/
def execAgwrap (n : BitVec 2) (a : BitVec 6) (s : State) : Out :=
  onCore s fun s => s.issue (.agwrap n a) 1 fun c o => { o with ws := [c.rx a.toNat, 0, 0] }
/-- R237: agrd xd, agn. -/
def execAgrd (d : BitVec 6) (n : BitVec 2) (s : State) : Out :=
  onCore s (issueVal (.agrd d n) 1 d 0 (fun c => c.ag n.toNat))

/-! ## System registers (R239) -/

/-- R239: srrd xd, SYS. The value is sampled at issue; a read of CNTRD.LO has its shadow write follow in the same cycle
(R401). -/
def execSrrd (d : BitVec 6) (sys : BitVec 12) (s : State) : Out :=
  onCore s fun s => guardLevel (.srrd d sys) s fun s =>
    let t := issueVal (.srrd d sys) 2 d 0 (fun _ => s.sysRead s.cur.core sys.toNat) s
    if sys.toNat = 0x002 then { t with turn := { cur := { core := s.cur.core }, act := .cntrdLoRead } :: t.turn } else t

/-- R401: the shadow takes VC[63:32] of the sample. -/
def execCntrdLoRead (s : State) : Out :=
  onCore s fun s => s.modMe fun c => { c with shadow := BitVec.ofNat 32 ((s.vc c.part).toNat / 2 ^ 32) }

/-- R239: srwr SYS, xa, seen from t + 2. -/
def execSrwr (sys : BitVec 12) (a : BitVec 6) (s : State) : Out :=
  onCore s fun s => guardLevel (.srwr sys a) s fun s => s.issue (.srwr sys a) 2 fun c o => { o with ws := [c.rx a.toNat, 0, 0] }
/-- R239: srset SYS, xa. -/
def execSrset (sys : BitVec 12) (a : BitVec 6) (s : State) : Out :=
  onCore s fun s => guardLevel (.srset sys a) s fun s => s.issue (.srset sys a) 2 fun c o => { o with ws := [c.rx a.toNat, 0, 0] }
/-- R239: srclr SYS, xa. -/
def execSrclr (sys : BitVec 12) (a : BitVec 6) (s : State) : Out :=
  onCore s fun s => guardLevel (.srclr sys a) s fun s => s.issue (.srclr sys a) 2 fun c o => { o with ws := [c.rx a.toNat, 0, 0] }

/-! ## trap, brk, done, resume (R242, R243, R364, R425) -/

/-- R242: the core stops with TRAP in the next schedule cycle, STOP.DETAIL holding imm. -/
def execTrap (imm : BitVec 12) (s : State) : Out :=
  onCore s fun s => s.modMe fun c => { c with trapped := some (0x87, imm.toNat) }
/-- R425: as trap, with cause BREAKPOINT and DBG.HIT zero. -/
def execBrk (imm : BitVec 12) (s : State) : Out :=
  onCore s fun s => s.modMe fun c => { (c.wsr 0x181 0) with trapped := some (0x88, imm.toNat) }
/-- R243: no further bundle issues. -/
def execDone (s : State) : Out :=
  onCore s fun s => s.modMe fun c => { c with run := .ended }
/-- R364: end the in-place handler; with none running, an urgent stop NO_CONTEXT, and with a claim held CLAIM_HELD (R278, R365). -/
def execResume (s : State) : Out :=
  onCore s fun s => guardLevel .resume s fun s => s.modMe fun c =>
    if !c.handler then { c with trapped := some (0xA6, 0) }
    else if c.mx.claim then { c with trapped := some (0xA4, 0) }
    else { c with resuming := true }

/-! ## Guarded tiles (R343, R344) -/

/-- The core runs a tile of a guarded-surrogate launch: LAUNCH.TILE bit 16 (R341). -/
def Core.guarded (c : Core) : Bool := bitN (c.rsr 0x161).toNat 16

/-- The residual of a tile takes the greater magnitude; a NaN makes it NaN (R343). -/
def residual (got : Bool) (r : Elem) (v : Elem) : Elem :=
  let a := v &&& 0x7FFFFFFF
  let isNan (e : Elem) : Bool := decide (0x7F800000 < (e &&& 0x7FFFFFFF).toNat)
  if isNan v then 0x7FC00000 else if !got then a else if isNan r then r else if r.toNat < a.toNat then a else r

/-- A gsres or gsend outside a guarded tile: the instruction is recorded with status FAULT (R344). -/
def gsFault (i : Instr) (xa : Word) (s : State) : State :=
  s.issue i 1 fun _ o => { o with ws := [xa, 0, 0], fault := true, cause := 0xA3 }

/-- R343: gsres xa. -/
def execGsres (a : BitVec 6) (s : State) : Out :=
  onCore s fun s =>
    if s.me.guarded then
      let v : Elem := (s.me.rx a.toNat).setWidth 32
      { s with launches := s.launches.map fun l =>
          if s.me.launch = some l.key then
            { l with tiles := l.tiles.map fun t =>
                if s.me.tile = some t.n then { t with got := true, r := residual t.got t.r v } else t }
          else l }
    else gsFault (.gsres a) (s.me.rx a.toNat) s

/-- R344: gsend ends the core's part of the tile. -/
def execGsend (s : State) : Out :=
  onCore s fun s => if s.me.guarded then s.modMe fun c => { c with run := .ended } else gsFault .gsend 0 s

end Sys2Proof.Machine
end

