-- ==== Sys2Proof/Machine/Access.lean ====
section
/-! DEFINITION. Accesses on their way (R97, R101, R104, R106, R115, R157, R158, R165, R182, R283 to R289, R297, R320): routing by
translation, the parts of an access performed at their homes, held stores, and the operations in flight. -/
namespace Sys2Proof.Machine

open Sys2Proof

/-! ## Operations in flight -/

def Core.op (c : Core) (id : Nat) : Option Op := c.pipe.find? fun o => o.id == id
def Core.setOp (c : Core) (o : Op) : Core := { c with pipe := c.pipe.map fun p => if p.id = o.id then o else p }
def Core.dropOp (c : Core) (id : Nat) : Core := { c with pipe := c.pipe.filter fun p => p.id != id }
def State.setOp (s : State) (c : Nat) (o : Op) : State := s.modCore c fun k => k.setOp o
def State.dropOp (s : State) (c id : Nat) : State := s.modCore c fun k => k.dropOp id
/-- The form of an operation's access. -/
def Op.form (o : Op) : Option Form := o.act.bind memForm
/-- An access to an elastic space. -/
def Op.elastic (o : Op) : Bool := match o.form with | some f => !f.sp.det | none => false
/-- An operation fails: its record has status FAULT (R97, R169). -/
def State.failOp (s : State) (c : Nat) (o : Op) (cause : Nat) : State := s.setOp c { o with fault := true, cause := cause }

/-- An access has performed for the order of its class (R283): its data is fixed, or it has left. -/
def Op.performed (o : Op) : Bool := o.phase == .arrived
/-- The ordering class of an operation (R283): its instruction's, or that of the record from which it was reissued (R352, R365). -/
def Op.ordClass (o : Op) : Option Nat := (o.act.bind Instr.ordClass).map fun k => if o.reissued then o.cls else k
/-- An earlier access of the same class has not performed (R283, R285). -/
def Core.heldBack (c : Core) (o : Op) : Bool :=
  (c.pipe.takeWhile fun p => p.id != o.id).any fun p =>
    p.elastic && p.ordClass == o.ordClass && o.ordClass.isSome && !p.performed
/-- An access that a fence of its own bundle holds (R289). -/
def Core.fenceHeld (c : Core) (o : Op) : Bool := o.deps.any fun i => c.pipe.any fun p => p.id == i && !p.performed
/-- The operation may perform. -/
def Core.free_ (c : Core) (o : Op) : Bool := !o.fault && o.phase == .fly && !c.heldBack o && !c.fenceHeld o

/-- Outstanding-request entries held (R101, R166). -/
def Core.requests (c : Core) : Nat :=
  c.pipe.countP fun o => o.elastic || (match o.act with | some (.pref _) => true | some (.ipref _) => true | _ => false)

/-! ## The throttle (R345, R435) -/

/-- The level at which a core is throttled: L, or the floor in force of its partition or of the pool's holder (R435). -/
def State.throttle (s : State) (c : Nat) : Nat :=
  let floor (p : Nat) : Nat := max s.level (Sparse.get 0 s.floors p)
  if s.poolCore c then floor s.poolHolder
  else match State.parts.find? fun p => s.partEN p && s.partCore p c with
    | some p => floor p
    | none => s.level
/-- The pulse of this wall cycle is swallowed for core c and its remote port (R345, R435). -/
def State.swallows (s : State) (c : Nat) : Bool := decide (s.pulse < s.throttle c)

/-! ## Routing (R74, R92, R106, R301, R304) -/

/-- The context of an operation's accesses: XLT.ROOT and the tag as they were when it issued (R93, R117), and the micro-TLB of its slot
(R99). -/
def State.opCtx (s : State) (c : Nat) (o : Op) : Ctx :=
  { s.ctx c with root := o.root, tag := o.tag, op := o.id + 2, cache := if o.slot = 5 then 1 else if o.slot = 6 then 2 else 0 }

/-- Requests for a link's host go out Translated (else Untranslated): the host has enabled ATS for the function (R106). -/
def State.translated (s : State) (p link : Nat) : Bool := Config.atsEnabled link (s.partFN p)

/-- A translation of the host enters the cache of its link, of 4096 entries; which one makes room is free (R105, R106). -/
def State.addAts (s : State) (e : AtsEntry) : State :=
  let here := s.ats.filter (·.link == e.link)
  if here.length < 4096 then { s with ats := e :: s.ats }
  else
    let (k, s) := s.pick here.length
    { s with ats := e :: (match here[k]? with | some v => s.ats.erase v | none => s.ats) }

/-- The host's translation denies the page: one PRI Page Request for it is sent (R106). -/
def State.denyPage (s : State) (link page : Nat) : Except Nat (Home × Nat) × State :=
  (.error Xlt.HOST, s.send (.pri link (page * 4096)))

/-- Where an address of the host window lies: the link and the address sent on it. Where the host has enabled ATS for the function, the
link's cache or a Translation Request gives a translated one, or the host denies the page; a page that a PRG Response refused stays
denied. Else the request goes untranslated, and the host's translation of it may deny it all the same (R106). A cached translation has no
permission of its own: it serves reads and writes (DESIGN CHOICE, log entry 107). -/
def State.hostHome (s : State) (p ca pa : Nat) : Except Nat (Home × Nat) × State :=
  let link := pa / 2 ^ 45 % 2
  let fn := s.partFN p
  let page := pa % 2 ^ 45 / 4096
  if !bitN (s.partLinks p) link then (.error Xlt.NOLINK, s)
  else if !Config.atsEnabled link fn then
    let (ok, s) := s.coin
    if !ok || s.refused.contains (link, fn, page) then s.denyPage link page else (.ok (.host link ca, pa % 2 ^ 45), s)
  else match s.ats.find? fun a => a.link == link && a.fn == fn && a.page == page with
    | some a => (.ok (.host link ca, a.out * 4096 + pa % 4096), s)
    | none =>
      let s := s.send (.ats link fn (page * 4096))
      let (ok, s) := s.coin
      if !ok || s.refused.contains (link, fn, page) then s.denyPage link page
      else
        let (b, s) := s.outside 8
        let out := natLE b / 4096
        (.ok (.host link ca, out * 4096 + pa % 4096), s.addAts { link := link, fn := fn, page := page, out := out })

/-- Where a translated address lies for partition p, and the address there (R92). -/
def State.homeOf (s : State) (p : Nat) (e : TlbEntry) (pa : Nat) : Except Nat (Home × Nat) × State :=
  if inWindow pa then (.ok (.regs, pa), s)
  else if inHost pa then s.hostHome p e.ca pa
  else if inFabric pa then (.ok (.fabric (pa / 2 ^ 40 % 128), pa), s)
  else (.ok (.main e.ca e.ms, pa), s)

/-- An operation of core e waits for a translation of a page with a context's partition and address space, and no cached entry serves it
(R101). -/
def State.waitsFor (s : State) (cx : Ctx) (e : Nat) (k : Core) (o : Op) (va size : Nat) : Bool :=
  let cy := { s.ctx e with root := o.root }
  let span : List (Nat × Nat) := match o.form with | some f => accessAddrs f (BitVec.ofNat 64 o.va) (o.vs.getD 0 []) | none => [(o.va, 1)]
  (match o.phase with | .walk _ => true | _ => false) && dieOf e == dieOf cx.core && k.part == cx.part &&
    (cy.level == .root) == (cx.level == .root) && bitN o.root.toNat 0 == bitN cx.root.toNat 0 &&
    fldN o.root.toNat 4 12 == fldN cx.root.toNat 4 12 && (tlbHits s cy {} va).isEmpty &&
    span.any fun a => decide (va / size * size < a.1 + max 1 a.2 ∧ a.1 < va / size * size + size)

/-- The misses of a die for the page of a walk, of the same partition and address space, are merged into it: its answer is theirs (R101;
log entry 125). -/
def State.mergeMisses (s : State) (cx : Ctx) (va : Nat) (r : Except Nat (Leaf × Leaf × TlbEntry)) : State :=
  let size := match r with | .ok (_, _, e) => e.size | .error _ => 65536
  let told (c op : Nat) : Merged :=
    { core := c, op := op, va := va / size * size, size := size, found := r.toOption, err := match r with | .ok _ => 0 | .error k => k }
  let ops := s.cores.flatMap fun e => (e.2.pipe.filter fun o => !(e.1 == cx.core && o.id + 2 == cx.op) && s.waitsFor cx e.1 e.2 o va size).map
    fun o => told e.1 (o.id + 2)
  let kept := s.merged.filter fun m => m.op == 1 || ((s.core m.core).op (m.op - 2)).isSome
  if ops.isEmpty && kept.isEmpty then s else { s with merged := ops ++ kept }

/-- Translate one address, with what the walkers' reads leave behind (R100, R101): a cached entry serves it, or the walk of another miss of
the die, or a walk of its own. quiet: no memory-error record is written (R247). -/
def State.xlate (s : State) (cx : Ctx) (need : Need) (va : Nat) (quiet : Bool := false) : Except Nat TlbEntry × State :=
  if 2 ^ 55 ≤ va then (.error (Xlt.cause Xlt.RANGE false 0), s)
  else match s.merged.find? fun m => m.core == cx.core && m.op == cx.op && cx.op != 0 && m.va == va / m.size * m.size with
  | some m => { s with merged := s.merged.erase m }.walkAnswer cx need va (match m.found with | some x => .ok x | none => .error m.err)
  | none => match tlbLook s cx need va with
    | (some e, s) => (.ok e, s)
    | (none, s) =>
      let (w, s) := missWalk s cx va
      let (r, s) := (if w.2.isEmpty then s else s.mergeMisses cx va w.1).walkAnswer cx need va w.1
      (r, s.walked cx w.2 quiet)

/-- The port by which a fabric access leaves now (R410): none where no port reaches the node or the node is this device. -/
def State.fabricPort (s : State) (node : Nat) : Option Nat :=
  if s.rwF (rpage 0xB000) 0 7 = node then none
  else
    let ok := ((s.rw (rpage (0xB400 + 8 * node))).toNat &&& (s.rw (rpage 0xB010)).toNat)
    (List.range 16).find? fun k => bitN ok k

/-- Translate and route one address: its home, the address there, and its guest-physical address (for the host window, the address that
the host translates). -/
def State.route (s : State) (cx : Ctx) (need : Need) (va : Nat) : Except Nat (Home × Nat × Nat) × State :=
  match s.xlate cx need va with
  | (.error k, s) => (.error k, s)
  | (.ok e, s) =>
    match s.homeOf cx.part e (e.out va) with
    | (.error k, s) => (.error k, s)
    | (.ok (h, a), s) => (.ok (h, a, match h with | .host .. => e.out va | _ => e.gpa + va % e.size), s)

/-- The travel from core c to the slice of a main-memory address (R109); no figure bounds what lies beyond the part. -/
def travelTo (c : Nat) (h : Home) (a : Nat) : Nat :=
  match h with
  | .main _ _ => if !inMain a then 0 else if homeDie a = dieOf c then 48 else 96
  | _ => 0

/-- Parts of one page share a translation: 64 KiB, and 4 KiB in the host window (R91, R106). -/
def sharePage (h : Home) : Nat := match h with | .host .. => 4096 | _ => 65536

/-- The progress of routing: parts so far (latest first), the last translated address with what it led to, the time the next part
sets out, and whether a part has failed. -/
structure Routing where
  done : List Piece := []
  last : Option (Nat × Home × Nat × Nat) := none
  wait : Nat
  bad : Bool := false
deriving DecidableEq, Repr

/-- What the last translation says of an address, if it lies in the same page. -/
def Routing.known (g : Routing) (va : Nat) : Option (Home × Nat × Nat) :=
  match g.last with
  | some (v, h, a, gp) =>
    if v / sharePage h = va / sharePage h then some (h, a - v % sharePage h + va % sharePage h, gp - v % sharePage h + va % sharePage h) else none
  | none => none

/-- Route one part (offset, address, length) of an access issued at schedule cycle t. A store's parts set out one after another; nothing
follows a part that fails (R182). -/
def routePart (cx : Ctx) (need : Need) (store : Bool) (t : Nat) (st : Routing × State) (e : Nat × Nat × Nat) : Routing × State :=
  let (g, s) := st
  if g.bad then st
  else
    let (off, va, n) := e
    let (d, s) := if store then s.freeTime else (0, s)
    let (r, s) := match g.known va with
      | some k => (Except.ok k, s)
      | none => s.route cx need va
    match r with
    | .error k =>
      let q : Piece := { off := off, len := n, home := .bad k, at_ := va, due := t, wait := g.wait + d }
      ({ g with done := if store then q :: g.done else [q], bad := true }, s)
    | .ok (h, a, gp) =>
      let q : Piece := { off := off, len := n, home := h, at_ := a, gpa := gp, due := t + travelTo cx.core h a, wait := g.wait + d
                         port := match h with | .fabric k => s.fabricPort k | _ => none }
      ({ done := q :: g.done, last := some (va, h, a, gp), wait := g.wait + d }, s)

/-- Route the parts of an access in order. -/
def State.routeParts (s : State) (cx : Ctx) (need : Need) (store : Bool) (t wait : Nat) (parts : List (Nat × Nat × Nat)) :
    List Piece × State :=
  let (g, s) := parts.foldl (routePart cx need store t) ({ wait := wait }, s)
  (g.done.reverse, s)

/-! ## Issuing an access (R163 to R169) -/

/-- The permissions an access needs (R96). -/
def accessNeed (i : Instr) (f : Form) : Need :=
  match i with
  | .l2wb _ | .l2wbinv _ => { r := true }
  | .l2inv _ => { w := true }
  | .rwait _ | .rrd _ => { r := true }
  | _ => match f.acc with
    | .store => { w := true }
    | .atomic => { r := true, w := true }
    | _ => { r := true }

/-- An access issues (R163 to R167): it joins the operations in flight with its operands; a failing check of R169 marks it; in
spm and lane a load reads now; in clr and grv its parts set out with their exact travel; in glb it waits for translation. -/
def State.issueAccess (s : State) (i : Instr) (f : Form) (a : Word) (fill : Op → Op) : State :=
  let c := s.cur.core
  let k := s.core c
  let vi := ((fill { id := 0, act := none, land := 0 }).vs.getD 0 [])
  let lat := if f.sp.det then f.det else f.land
  let held := (k.pipe.filter fun p => match p.act with
    | some (.fence m _) => bitN m.toNat f.cls && p.addr == s.cur.addr && decide (p.slot < s.cur.slot)
    | _ => false).map (·.id)
  let check := s.accessCheck c i f a vi
  let reads := f.sp.det && f.acc != .store && check.isNone
  let (whole, s) := if reads then s.arrayRead c (if f.sp = .lane then 1 else 0) (detPlaces i f a vi) else (true, s)
  let check := if whole then check else some cDATA_ABORT
  let (d, s) := if f.sp = .glb then s.freeTime else (0, s)
  let ports := (accessPorts i f a).map fun e => (e.1, k.sched + e.2, s.cur.slot)
  s.modCore c fun k =>
    let k := { k with ports := k.ports ++ ports }
    k.push s.cur i lat fun o =>
      let o := fill { o with cls := f.cls, va := a.toNat, deps := if f.sp.det || f.acc == .command then [] else held
                             resvEnd := maxOf (ports.map (·.2.1)) }
      match check with
      | some cause => { o with fault := true, cause := cause }
      | none => match f.sp with
        | .glb => { o with phase := .walk (s.wall + d) }
        | .spm | .lane => { o with got := if f.acc = .store then [] else k.detRead i f a vi }
        | _ => { o with phase := .fly, pieces := s.fixedPieces c f a vi k.sched }

/-! ## Group holding (R320 to R322) -/

/-- The held lines of a core across its groups (R321). -/
def Core.heldLines (c : Core) : Nat := (c.groups.map fun g => g.lines.length).sum

def Core.setGroup (c : Core) (n : Nat) (g : Group) : Core :=
  { c with groups := (List.range 4).map fun i => if i = n then g else c.groups.getD i {} }

/-- A group overflows: it holds nothing any more and is FAILED (R321); closing: a gcommit or gabort of it has issued since, and the group that
may be open now is another (R319). -/
def Group.spill (g : Group) (closing : Bool) : Group :=
  { g with st := if g.st = 1 && !closing then 2 else g.st, spilt := true, held := [], lines := [], ways := [], pages := [] }

/-- A gcommit or gabort of group n issued after operation id has yet to perform (R319). -/
def Core.closing (c : Core) (n id : Nat) : Bool :=
  c.pipe.any fun p => decide (id < p.id) && (match p.act with | some (.gcommit g) | some (.gabort g) => g.toNat == n | _ => false)

/-- The held copy of a line finds its way unit: one that the group has, or a new one of the partition's (R320, R321). None where it
cannot be held. -/
def State.heldWay (s : State) (c n tag line : Nat) : Option (Option Nat) × State :=
  let k := s.core c
  if (k.groups.getD n {}).lines.contains line then (some none, s)
  else if 16384 ≤ k.heldLines then (none, s)
  else match s.takeWay k.part tag line with
    | (some w, s) => (some (some w), s.reach false (line * 128))
    | (none, s) => (none, s)

/-- A held store's bytes within one line go to group n, or overflow it (R320, R321). -/
def State.hold (s : State) (c n tag pa gpa : Nat) (bs : List Byte) (stamp : Nat) : State :=
  let g := (s.core c).groups.getD n {}
  let line := pa / 128
  if g.spilt then s
  else match s.heldWay c n tag line with
    | (none, s) => s.modCore c fun k => k.setGroup n (g.spill (k.closing n stamp))
    | (some w, s) =>
      let held := (List.range bs.length).foldl (fun m i => Sparse.set (0, 0) m (pa + i) (stamp + 1, bs.getD i 0)) g.held
      s.modCore c fun k => k.setGroup n
        { g with held := held, pages := if g.pages.contains (gpa / 65536) then g.pages else g.pages ++ [gpa / 65536]
                 lines := (match w with | some _ => [line] | none => []) ++ g.lines, ways := w.toList ++ g.ways }

/-- The byte that the context's open groups hold at an address: that of the later store (R320). -/
def Core.heldByte (c : Core) (pa : Nat) : Option Byte :=
  let best := c.groups.foldl (fun b g =>
    let e := Sparse.get (0, 0) g.held pa
    if b.1 < e.1 then e else b) ((0, 0) : Nat × Byte)
  if best.1 = 0 then none else some best.2

/-- The bytes that a load of the context sees: held bytes replace visible ones (R320). -/
def Core.overlay (c : Core) (pa : Nat) (bs : List Byte) : List Byte :=
  if c.groups.all fun g => g.held.isEmpty then bs
  else (List.range bs.length).map fun i => (c.heldByte (pa + i)).getD (bs.getD i 0)

/-! ## Parts performed (R158, R388, R410) -/

/-- A device-register access of a core: an 8-byte aligned ldd or std, at the register's level (R388). -/
def State.winOk (s : State) (cx : Ctx) (i : Instr) (pa : Nat) (write : Bool) : Bool :=
  (match i with | .ldd _ | .std _ => true | _ => false) && decide (pa % 8 = 0) && winMay s cx.part cx.level (pa - 2 ^ 41) write

/-- A poisoned datum came from host link l: its record (R83, R85). -/
def State.poisoned (s : State) (r : Req) (l pa : Nat) : State :=
  s.memErr pa { kind := 6, site := 4, die := l, core := r.core } r.part

/-- Read bytes of the clearing with their checks (R82, R83). -/
def State.readClr (s : State) (r : Req) (w a n : Nat) (u : Upset) : Option (List Byte) × State :=
  let s := s.strikeClr r w a u
  if s.clrFails w a n then (none, if u = .uncorrectable then s else s.failClr r w a)
  else (some (Sparse.bytes s.clr (w * 2 ^ 20 + a) n), s)
/-- Write bytes of the clearing with their checks (R80, R83). -/
def State.writeClr (s : State) (r : Req) (w a : Nat) (bs : List Byte) (u : Upset) : Bool × State :=
  let s := s.strikeClr r w a (if bs.length = 32 then .none else u)
  match s.putClr w a bs with
  | some s => (true, s)
  | none => (false, if u = .uncorrectable then s else s.failClr r w a)

/-- Read one part of an access (R83, R297): its bytes, or an abort completion. -/
def State.readPart (s : State) (cx : Ctx) (i : Instr) (q : Piece) (first : Bool) (u : Upset) : Option (List Byte) × State :=
  match q.home with
  | .main ca ms =>
    let (r, s) := s.readMain cx.req ca ms q.at_ q.len first u
    (r.map fun bs => (s.core cx.core).overlay q.at_ bs, s)
  | .clr w => s.readClr cx.req w q.at_ q.len u
  | .grv k =>
    let (ok, s) := s.arrayRead k 0 [(q.at_, q.len)]
    (if ok then some (Sparse.bytes (s.core k).spm q.at_ q.len) else none, s)
  | .host l _ =>
    let s := s.send (.hostRead l (s.translated cx.part l) q.at_ q.len)
    if u = .uncorrectable then (none, s.poisoned cx.req l q.gpa)
    else if !s.linkUp l then (none, s) else (let (b, s) := s.outside q.len; (some b, s))
  | .fabric _ =>
    if q.port.isNone || u = .uncorrectable then (none, s) else (let (b, s) := s.outside q.len; (some b, s))
  | .regs => if s.winOk cx i q.at_ false then (some (bytesLE 8 (winRead s (q.at_ - 2 ^ 41)).toNat), s) else (none, s)
  | .bad _ => (none, s)

/-- The bytes of a store that a grove window's remote port takes: they lie in its scratchpad from the next wall cycle on (R158). -/
def State.writeGrv (s : State) (k a : Nat) (bs : List Byte) : State :=
  (s.arrayWritten k 0 [(a, bs.length)]).modCore k fun c =>
    { c with rwrite := c.rwrite ++ (List.range bs.length).map fun j => (a + j, bs.getD j 0) }

/-- Write one part of a store (R80, R158, R165): whether it was accepted. -/
def State.writePart (s : State) (cx : Ctx) (i : Instr) (q : Piece) (bs : List Byte) (first : Bool) (u : Upset) : Bool × State :=
  match q.home with
  | .main ca ms => s.writeMain cx.req ca ms q.at_ bs first u
  | .clr w => s.writeClr cx.req w q.at_ bs u
  | .grv k => (true, s.writeGrv k q.at_ bs)
  | .host l _ => if s.linkUp l then (true, s.send (.hostWrite l (s.translated cx.part l) q.at_ bs)) else (false, s)
  | .fabric n => if q.port.isNone then (false, s) else (decide (u ≠ .uncorrectable), s.send (.fabWrite n (q.at_ % 2 ^ 40) bs))
  | .regs =>
    if s.winOk cx i q.at_ true then
      let w := winWrite (q.at_ - 2 ^ 41) cx.level (BitVec.ofNat 64 (natLE bs))
      (true, { s with turn := { cur := w.1, act := w.2 } :: s.turn })
    else (false, s)
  | .bad _ => (false, s)

/-- Core k's remote port serves position p of its grove: one read and one write in a wall cycle, none in a pulse that the throttle
swallows for it, and none once it is taken (R157, R345), but by a copy command of the position for which the grant is held. -/
def State.grantAt (s : State) (k p : Nat) (write : Bool) : Option State :=
  let w := s.core k
  if s.swallows k || (Sparse.get 0 w.rportBusy (b2n write) == s.wall + 1 && Sparse.get 0 w.rportHeld (b2n write) != p + 1) then none
  else some (s.modCore k fun w =>
    { w with rportBusy := Sparse.set 0 w.rportBusy (b2n write) (s.wall + 1), rport := p, rportHeld := Sparse.set 0 w.rportHeld (b2n write) 0 })
/-- The grant that a part of an access of core c needs. -/
def State.grant (s : State) (q : Piece) (c : Nat) (write : Bool) : Option State :=
  match q.home with
  | .grv k => s.grantAt k (posOf c) write
  | _ => some s

/-- The part is left to perform. -/
def Piece.left (q : Piece) : Bool := !q.done && !q.granted
/-- The part has come to its home: its schedule cycle and its wall cycle are there (R10, R109, R115, R156). -/
def Piece.arrived (q : Piece) (wall sched : Nat) : Bool := q.left && decide (q.due ≤ sched) && decide (q.wait ≤ wall)
/-- The parts of an operation that are served now: those that have come to their homes, or whose port has granted them. -/
def Op.arrived (o : Op) (wall sched : Nat) : List Nat :=
  (List.range o.pieces.length).filter fun k => match o.pieces[k]? with | some q => q.arrived wall sched || (q.granted && !q.done) | none => false
/-- Every part is done or taken by its port: the access has come in time (R157, R165). -/
def Op.taken (o : Op) : Bool := !o.pieces.isEmpty && o.pieces.all fun q => q.done || q.granted

/-- No part of the access has been counted in this part's 512-byte granule (R86). -/
def firstTouch (ps : List Piece) (q : Piece) : Bool := ps.all fun p => !(p.counted && p.at_ / 512 == q.at_ / 512)
/-- The part is one that its access counts: the first of its granule that reaches a memory controller or a base die. -/
def State.counts (s : State) (ps : List Piece) (q : Piece) : Bool :=
  match q.home with
  | .main _ ms => firstTouch ps q && (ms || !s.inL2 ms q.at_)
  | _ => false

/-- Change part k. -/
def Op.markPart (o : Op) (k : Nat) (f : Piece → Piece) : Op :=
  { o with pieces := (List.range o.pieces.length).filterMap fun j => (o.pieces[j]?).map fun q => if j = k then f q else q }

/-- The bytes of part q of a store's data. -/
def Op.partBytes (o : Op) (q : Piece) : List Byte := (List.range q.len).map fun j => Sparse.get 0 o.bs (q.off + j)

/-- The part's remote port has yet to serve it: the grant comes first, the window's bytes are read after the landings of the cycle (R158). -/
def Piece.asks (q : Piece) : Bool := match q.home with | .grv _ => !q.granted | _ => false
/-- Perform part k of a load (R165, R297): its bytes are fixed. -/
def State.loadPart (s : State) (c : Nat) (o : Op) (i : Instr) (k : Nat) (u : Upset) : State :=
  match o.pieces[k]? with
  | none => s
  | some q =>
    if q.done || !(q.granted || q.arrived s.wall (s.core c).sched) then s
    else match (if q.granted then some s else s.grant q c false) with
    | none => s
    | some s =>
      if q.asks then s.setOp c (o.markPart k fun q => { q with granted := true })
      else
      let cnt := s.counts o.pieces q
      match s.readPart (s.opCtx c o) i q (firstTouch o.pieces q) u with
      | (none, s) => s.failOp c o (match q.home with | .bad k => k | _ => cDATA_ABORT)
      | (some bs, s) =>
        let o := { (o.markPart k fun q => { q with done := true, counted := cnt }) with got := Sparse.setBytes o.got q.off bs }
        s.setOp c (if o.pieces.all (·.done) then { o with phase := .arrived } else o)

/-- Perform parts ks of a load, in order. -/
def State.loadParts (s : State) (c id : Nat) (i : Instr) (ks : List Nat) (u : Upset) : State :=
  (ks.foldl (fun (st : State × Upset) k =>
    match (st.1.core c).op id with
    | some o => if o.fault then st else (st.1.loadPart c o i k st.2, .none)
    | none => st) (s, u)).1

/-- The group a store is tagged with (R164). -/
def Form.group (f : Form) : Option Nat := if 4 ≤ f.grp then some (f.grp - 4) else none

/-- The part of a store that performs next: the lowest that is left, in elements and in glb; in clr and grv the lowest that has come and
that its window's port takes. want names the part that an event means (0: any). -/
def State.nextPart (s : State) (c : Nat) (o : Op) (f : Form) (want : Nat) : Option Nat :=
  let here (k : Nat) : Bool := match o.pieces[k]? with
    | some q => q.arrived s.wall (s.core c).sched && (s.grant q c true).isSome
    | none => false
  if f.elems || f.sp == .glb then (o.pieces.findIdx? (·.left)).filter here
  else (List.range o.pieces.length).find? fun k => (want == 0 || k + 1 == want) && here k

/-- How far a store has come (R182): the bytes, or the elements, before the first part that is left. -/
def Op.reach (o : Op) (f : Form) : Nat :=
  match o.pieces.find? (·.left) with
  | some q => if f.elems then q.off / 4 else q.off
  | none => if f.elems then 1024 else f.bytes

/-- A part of a store whose port has granted it and whose bytes it has yet to take. want names the part that an event means (0: any). -/
def Op.grantedPart (o : Op) (want : Nat) : Option Nat :=
  (List.range o.pieces.length).find? fun k => (want == 0 || k + 1 == want) && (match o.pieces[k]? with | some q => q.granted && !q.counted | none => false)

/-- Part k of a store has performed; one that a remote port has granted is over in the next wall cycle (R158, R165). -/
def State.storeDone (s : State) (c : Nat) (o : Op) (f : Form) (k : Nat) (cnt : Bool) : State :=
  let o := o.markPart k fun q => match q.home with
    | .grv _ => { q with granted := true }
    | _ => { q with done := true, counted := cnt }
  let o := { o with progress := o.reach f }
  if o.pieces.all (·.done) then s.dropOp c o.id else s.setOp c o

/-- A part of a store tagged with group n is held, discarded or stops (R320); it meets its group as it stood at its issue. -/
def State.storeHeld (s : State) (c : Nat) (o : Op) (f : Form) (n k : Nat) (q : Piece) (u : Upset) : State :=
  let cx := s.opCtx c o
  let bs := o.partBytes q
  let routeOk := match q.home with | .main ca ms => inMain q.at_ && !ms && decide (ca ≠ 2) | _ => false
  if !routeOk then s.failOp c o 0x9F
  else if o.gst = 0 then s.failOp c o 0x9E
  else if o.gst = 2 then s.storeDone c o f k false
  else match s.admits cx.req q.at_ with
    | (false, s) => s.failOp c o cDATA_ABORT
    | (true, s) =>
      let l2 := s.inL2 false q.at_
      let s := s.strike cx.req false q.at_ l2 (if bs.length = 32 then .none else u)
      let g := (s.core c).groups.getD n {}
      let bad := ((List.range 4).map (q.at_ / 128 * 4 + ·)).find? (s.sectorBad false)
      match (if g.lines.contains (q.at_ / 128) || g.spilt then none else bad) with
      | some b => (if u = .uncorrectable then s else s.failRecord cx.req false (b * 32)).failOp c o cDATA_ABORT
      | none => (s.hold c n cx.tag q.at_ q.gpa bs o.id).storeDone c o f k false

/-- Perform part k of a store at its home (R80, R165, R297, R320); in a grove window its port grants it, and takes its bytes after the
landings of the cycle (R158). -/
def State.storeAt (s : State) (c : Nat) (o : Op) (i : Instr) (f : Form) (k : Nat) (q : Piece) (u : Upset) : State :=
  match q.home with
  | .bad cause => s.failOp c o cause
  | h => match s.grant q c true with
    | none => s
    | some s => match f.group, h with
      | some n, _ => s.storeHeld c o f n k q u
      | none, .grv _ => s.storeDone c o f k false
      | none, _ =>
        let cnt := s.counts o.pieces q
        match s.writePart (s.opCtx c o) i q (o.partBytes q) (firstTouch o.pieces q) u with
        | (false, s) => s.failOp c o cDATA_ABORT
        | (true, s) => (s.dirtyAt c q.gpa q.home).storeDone c o f k cnt

/-- The port of a grove window takes the bytes of a part that it has granted. -/
def State.storeGrv (s : State) (c : Nat) (o : Op) (k : Nat) (q : Piece) : State :=
  match q.home with
  | .grv w => (s.writeGrv w q.at_ (o.partBytes q)).setOp c (o.markPart k fun q => { q with counted := true })
  | _ => s

/-- Perform the next part of a store (R165, R182), or let its port take the bytes of one that it has granted. -/
def State.storePart (s : State) (c : Nat) (o : Op) (i : Instr) (f : Form) (u : Upset) : State :=
  match o.grantedPart s.cur.j with
  | some k => (match o.pieces[k]? with | some q => s.storeGrv c o k q | none => s)
  | none => match s.nextPart c o f s.cur.j with
    | none => s
    | some k => match o.pieces[k]? with
      | none => s
      | some q => s.storeAt c o i f k q u

/-! ## Remote ports at the end of a wall cycle (R157, R158) -/

/-- The writes that the remote port took in the last wall cycle lie in the scratchpad. -/
def Core.takeRemote (c : Core) : Core :=
  if c.rwrite = [] then c else { c with spm := c.rwrite.foldl (fun m e => Sparse.set 0 m e.1 e.2) c.spm, rwrite := [] }
/-- The stores whose parts the ports took are over where nothing of them is left. -/
def Core.settleGrants (c : Core) : Core :=
  { c with pipe := c.pipe.filterMap fun o =>
      if (match o.form with | some f => f.acc == .store | none => false) && o.pieces.any (·.granted) then
        let o := { o with pieces := o.pieces.map fun q => if q.granted && q.counted then { q with done := true, granted := false } else q }
        if o.pieces.all (·.done) then none else some o
      else some o }
/-- The core has cycles of its own: it runs, or what it issued has yet to finish. -/
def Core.on (c : Core) : Bool := c.run == .running || c.run == .ended
/-- A wall cycle begins: what remote ports took in the last one is over, and lies in the scratchpads of the cores that have no landings of
their own before it (R158). -/
def State.settleRemote (s : State) : State :=
  if s.cores.all fun e => e.2.rwrite.isEmpty && e.2.pipe.all fun o => o.pieces.all fun q => !q.granted then s
  else { s with cores := s.cores.map fun e =>
    let k := if e.2.on then e.2 else e.2.takeRemote
    (e.1, if s.swallows e.1 then k else k.settleGrants) }

end Sys2Proof.Machine
end

