-- ==== Sys2Proof/Machine/LoadStore.lean ====
section
/-! DEFINITION. Loads, stores, gathers, scatters, lane tables, queues and prefetches (R163 to R182, R247), and the events by
which elastic accesses go on (R97, R101, R165, R177, R245). -/
namespace Sys2Proof.Machine

open Sys2Proof

/-! ## Shared issue -/

/-- The address of a format M or MS access (R163). -/
def addrM (c : Core) (m : MArgs) : Word := c.rx m.a.toNat + m.off.signExtend 64
def addrMS (c : Core) (m : MSArgs) : Word := c.rx m.a.toNat + m.off.signExtend 64

/-- Issue a load of format M with a destination code. -/
def loadM (i : Instr) (m : MArgs) (dest : Nat) (s : State) : State :=
  let a := addrM s.me m
  match memForm i with
  | some f => s.issueAccess i f a fun o => { o with ws := [a], dest := dest }
  | none => s

/-- Issue a scalar store: xv is read at issue. -/
def storeM (i : Instr) (m : MArgs) (s : State) : State :=
  let a := addrM s.me m
  let v := s.me.rx (m.tg.toNat % 64)
  match memForm i with
  | some f => s.issueAccess i f a fun o =>
      { o with ws := [a, v], bs := Sparse.ofFn 0 f.bytes fun k => (bytesLE 8 v.toNat).getD k 0
               gst := ((s.me.groups.getD (f.grp - 4) {}).st) }
  | none => s

/-- Issue a load or store of a segment or of a whole register; img is the register's image at issue. -/
def loadMS (i : Instr) (m : MSArgs) (s : State) : State :=
  let a := addrMS s.me m
  match memForm i with
  | some f => s.issueAccess i f a fun o => { o with ws := [a], dest := m.tg.toNat }
  | none => s
def storeImg (i : Instr) (a : Word) (img : Sparse Byte) (s : State) : State :=
  match memForm i with
  | some f => s.issueAccess i f a fun o => { o with ws := [a], bs := img, gst := ((s.me.groups.getD (f.grp - 4) {}).st) }
  | none => s
/-- n bytes of a register's image from segment seg on (R171, R173). -/
def segment (v : Vec) (seg n : Nat) : Sparse Byte := Sparse.ofFn 0 n fun k => v.byte (16 * seg + k)

/-- Issue a gather, scatter or lane-table access (R174, R175); vi and vd are read at issue. -/
def accessG (i : Instr) (m : GArgs) (s : State) : State :=
  let a := s.me.rx m.a.toNat
  let vi := s.me.rv m.vi.toNat
  let vd := s.me.rv m.vd.toNat
  match memForm i with
  | some f => s.issueAccess i f a fun o =>
      { o with ws := [a], vs := [vi, vd], bs := if f.acc = .store then vd.image else []
               dest := if f.acc = .store then 0 else m.vd.toNat
               gst := ((s.me.groups.getD (f.grp - 4) {}).st) }
  | none => s

/-! ## Scalar loads and stores (R170) -/

/-- R170. -/
def execLdb (m : MArgs) (s : State) : Out := onCore s (loadM (.ldb m) m (0x100 + m.tg.toNat % 64))

/-- R170. -/
def execLdh (m : MArgs) (s : State) : Out := onCore s (loadM (.ldh m) m (0x100 + m.tg.toNat % 64))

/-- R170. -/
def execLdw (m : MArgs) (s : State) : Out := onCore s (loadM (.ldw m) m (0x100 + m.tg.toNat % 64))

/-- R170. -/
def execLdd (m : MArgs) (s : State) : Out := onCore s (loadM (.ldd m) m (0x100 + m.tg.toNat % 64))

/-- R170. -/
def execLdbs (m : MArgs) (s : State) : Out := onCore s (loadM (.ldbs m) m (0x100 + m.tg.toNat % 64))

/-- R170. -/
def execLdhs (m : MArgs) (s : State) : Out := onCore s (loadM (.ldhs m) m (0x100 + m.tg.toNat % 64))

/-- R170. -/
def execLdws (m : MArgs) (s : State) : Out := onCore s (loadM (.ldws m) m (0x100 + m.tg.toNat % 64))

/-- R170. -/
def execStb (m : MArgs) (s : State) : Out := onCore s (storeM (.stb m) m)

/-- R170. -/
def execSth (m : MArgs) (s : State) : Out := onCore s (storeM (.sth m) m)

/-- R170. -/
def execStw (m : MArgs) (s : State) : Out := onCore s (storeM (.stw m) m)

/-- R170. -/
def execStd (m : MArgs) (s : State) : Out := onCore s (storeM (.std m) m)


/-! ## Vector registers in memory (R171 to R175) -/

/-- R172: vld vn. -/
def execVld (m : MArgs) (s : State) : Out := onCore s (loadM (.vld m) m m.tg.toNat)
/-- R172: vst vn; the image is read at issue. -/
def execVst (m : MArgs) (s : State) : Out :=
  onCore s fun s => storeImg (.vst m) (addrM s.me m) (s.me.rv m.tg.toNat).image s
/-- R173: vld16 vn, seg. -/
def execVld16 (m : MSArgs) (s : State) : Out := onCore s (loadMS (.vld16 m) m)
/-- R173: vld32 vn, seg. -/
def execVld32 (m : MSArgs) (s : State) : Out := onCore s (loadMS (.vld32 m) m)
/-- R173: vst16 vn, seg. -/
def execVst16 (m : MSArgs) (s : State) : Out :=
  onCore s fun s => storeImg (.vst16 m) (addrMS s.me m) (segment (s.me.rv m.tg.toNat) m.seg.toNat 16) s
/-- R173: vst32 vn, seg. -/
def execVst32 (m : MSArgs) (s : State) : Out :=
  onCore s fun s => storeImg (.vst32 m) (addrMS s.me m) (segment (s.me.rv m.tg.toNat) m.seg.toNat 32) s
/-- R174: vgath vd. -/
def execVgath (m : GArgs) (s : State) : Out := onCore s (accessG (.vgath m) m)
/-- R174: vscat vd. -/
def execVscat (m : GArgs) (s : State) : Out := onCore s (accessG (.vscat m) m)
/-- R175: vlut vd. -/
def execVlut (m : GArgs) (s : State) : Out := onCore s (accessG (.vlut m) m)
/-- R175: vlst vd. -/
def execVlst (m : GArgs) (s : State) : Out := onCore s (accessG (.vlst m) m)

/-! ## Queues (R176, R177) -/

def Core.queue (c : Core) (n : Nat) : List QEntry := c.queues.getD n []
def Core.setQueue (c : Core) (n : Nat) (q : List QEntry) : Core :=
  { c with queues := (List.range 4).map fun i => if i = n then q else c.queues.getD i [] }

/-- R177: qld reserves an entry at the tail and reads 4096 bytes into it. -/
def execQld (m : MArgs) (s : State) : Out :=
  onCore s fun s =>
    let id := s.me.nextId
    let n := m.tg.toNat % 4
    (loadM (.qld m) m 0 s).modMe fun c =>
      c.setQueue n (c.queue n ++ [{ op := id, spm := decide (m.sp = .spm), filled := false, data := [] }])

/-- Fill the entry that an operation reserved. -/
def Core.fill (c : Core) (id : Nat) (d : Sparse Byte) : Core :=
  { c with queues := c.queues.map fun q => q.map fun e => if e.op = id ∧ !e.filled then { e with filled := true, data := d } else e }

/-- The first entry of each queue that a bundle pops leaves (R65, R178). -/
def Core.popHeads (c : Core) (ns : List Nat) : Core :=
  { c with queues := (List.range 4).map fun i => if ns.contains i then (c.queue i).drop 1 else c.queue i }

/-! ## Prefetches (R181, R247) -/

/-- A prefetch issues: it waits for its translation and holds an entry, or is dropped when all are held. -/
def issuePref (i : Instr) (m : MArgs) (s : State) : State :=
  let a := addrM s.me m
  if 1024 ≤ s.me.requests then s
  else
    let (d, s) := s.freeTime
    s.issue i 0 fun _ o => { o with ws := [a], va := a.toNat, phase := .walk (s.wall + d) }

/-- R181: pref. -/
def execPref (m : MArgs) (s : State) : Out := onCore s (issuePref (.pref m) m)
/-- R247: ipref. -/
def execIpref (m : MArgs) (s : State) : Out := onCore s (issuePref (.ipref m) m)

/-! ## The values that land (R170, R173) -/

/-- The value of a scalar load from its bytes. -/
def loadVal (i : Instr) (bs : List Byte) : Word :=
  match i with
  | .ldbs _ => (BitVec.ofNat 8 (natLE (bs.take 1))).signExtend 64
  | .ldhs _ => (BitVec.ofNat 16 (natLE (bs.take 2))).signExtend 64
  | .ldws _ => (BitVec.ofNat 32 (natLE (bs.take 4))).signExtend 64
  | _ => BitVec.ofNat 64 (natLE bs)

/-- The bytes of a segment load replace part of the register. -/
def Vec.putSegment (v : Vec) (seg n : Nat) (d : Sparse Byte) : Vec :=
  (List.range n).foldl (fun v k => v.setByte (16 * seg + k) (Sparse.get 0 d k)) v

/-! ## Instruction lines (R244, R245) -/

/-- Make a held line the most recently used (R244). -/
def Core.icTouch (c : Core) (set_ pl : Nat) : Core :=
  { c with icAge := c.icAge + 1
           icache := c.icache.map fun l => if l.set_ = set_ ∧ l.line = pl then { l with age := c.icAge + 1 } else l }

/-- A line fills: the least recently used line of its set makes room (R244). -/
def Core.icFill (c : Core) (set_ pl : Nat) (d : Sparse Byte) : Core :=
  let here := c.icache.filter fun l => l.set_ == set_
  let oldest := here.foldl (fun m l => min m l.age) c.icAge
  let kept := if here.length < 4 then c.icache
    else c.icache.filter fun l => !(l.set_ == set_ && l.age == oldest)
  let kept := kept.filter fun l => !(l.set_ == set_ && l.line == pl)
  { c with icAge := c.icAge + 1, icache := { set_ := set_, line := pl, data := d, age := c.icAge + 1 } :: kept }

/-- A fetch of a virtual line by core c: its physical line and its bytes, or the cause and whether the datum was uncorrectable
(R246). -/
def State.fetchLine (s : State) (c line : Nat) (u : Upset) : Except (Nat × Bool) (Nat × Sparse Byte) × State :=
  let cx := { s.ctx c with cache := 3, op := 1 }
  match s.route cx { x := true } (line * 128) with
  | (.error k, s) => (.error (k, false), s)
  | (.ok (.main ca ms, pa, _), s) =>
    match (s.correct cx.req ms pa 128).readMain cx.req ca ms pa 128 true u with
    | (some bs, s) => (.ok (pa / 128, Sparse.setBytes [] 0 bs), s)
    | (none, s) => (.error (0, true), s)
  | (.ok (.host l _, _, pa), s) =>
    let s := s.send (.hostRead l (s.translated cx.part l) pa 128)
    if u = .uncorrectable then (.error (0, true), s.poisoned cx.req l pa)
    else if !s.linkUp l then (.error (0, true), s)
    else (let (b, s) := s.outside 128; (.ok (pa / 128, Sparse.setBytes [] 0 b), s))
  | (.ok (.fabric n, pa, _), s) =>
    if (s.fabricPort n).isNone || u = .uncorrectable then (.error (0, true), s)
    else (let (b, s) := s.outside 128; (.ok (pa / 128, Sparse.setBytes [] 0 b), s))
  | (.ok _, s) => (.error (0, true), s)

/-- R245: a line that the core waits for fills; a fetch that fails is the demand-fetch fault of R246, which the core meets when it
next tries the bundle. -/
def execLineFill (line : Nat) (u : Upset) (s : State) : Out :=
  onCore s fun s =>
    let c := s.cur.core
    match s.fetchLine c line u with
    | (.ok (pl, d), s) => s.modCore c fun k => { (k.icFill (line % 256) pl d) with fetchWait := none, fetchFail := none }
    | (.error (cause, dat), s) =>
      s.modCore c fun k => { k with fetchWait := none, fetchFail := some (line, cause % 256 + 256 * b2n dat + line % 2 ^ 48 * 2 ^ 16) }

/-! ## Events of elastic accesses -/

/-- The parts of a load that answer now among those that have come: in glb those of one load that lie in several granules come in any
order (R284), in clr and grv all come at their own cycles (R115, R156). -/
def State.arrivals (s : State) (o : Op) (f : Form) (ks : List Nat) : List Nat × State :=
  if f.sp != .glb || o.pieces.length == 1 then (ks, s)
  else ks.foldl (fun (st : List Nat × State) k =>
    let (b, s) := st.2.coin
    (if b then st.1 ++ [k] else st.1, s)) ([], s)

/-- R177: the data of an elastic qld arrives and fills its entry, which ends the operation. -/
def execQldFill (u : Upset) (s : State) : Out :=
  onCore s fun s =>
    let c := s.cur.core
    match (s.core c).op s.cur.i with
    | none => s
    | some o => match o.act, o.form with
      | some i, some f =>
        if f.acc = .queue ∧ (s.core c).free_ o then
          let (ks, s) := s.arrivals o f (o.arrived s.wall (s.core c).sched)
          let ks := if s.cur.j = 0 then ks else ks.filter fun k => k + 1 == s.cur.j
          let s := s.loadParts c o.id i ks u
          match (s.core c).op o.id with
          | some o => if o.phase = .arrived then (s.modCore c fun k => (k.fill o.id o.got)).dropOp c o.id else s
          | none => s
        else s
      | _, _ => s

/-- Apply a cache-maintenance instruction to the line of an address (R119, R120). -/
def State.maintain (s : State) (i : Instr) (pa : Nat) : State :=
  match s.lineOf (pa / 128) with
  | none => s
  | some l => match i with
    | .l2wb _ => s.writeBack l
    | .l2inv _ => s.dropLine l.line
    | .l2wbinv _ => s.evict l
    | _ => s

/-- A store in spm or lane that has not performed yet. -/
def Op.detStore (o : Op) : Bool := match o.form with | some f => f.sp.det && f.acc == .store | none => false
/-- A store to PMQ.POST or PMQ.SEND waits until every access of earlier bundles has performed, as a command does (R131, R398). -/
def Core.postHeld (c : Core) (o : Op) : Bool :=
  let post (a : Nat) : Bool := match winRange a with
    | .page _ r => r == 0x6008
    | .root r => decide (0x8000 ≤ r ∧ r < 0x8400) && r % 64 == 0x38
    | .reserved => false
  (match o.pieces with | q :: _ => q.home == .regs && post (q.at_ - 2 ^ 41) | [] => false) &&
  (c.pipe.takeWhile fun p => p.id != o.id).any fun p =>
    ((p.elastic && !p.performed) || p.detStore) && !(p.addr == o.addr && decide (p.slot < o.slot) && p.id + 1 == o.id)

/-- Remove the translations that an invalidation names and the accesses that must have performed before it lands (R103): those that use
a byte of a page whose entry is removed, or made room since, and the reductions begun on such a page. An rwait that has reached its home is
none of them, satisfied, parked, or to be compared again (DESIGN CHOICE, log entry 106). -/
def State.invalidate (s : State) (c : Nat) (o : Op) (va : Option Nat) : State :=
  let cx := s.opCtx c o
  let asid := fldN cx.root.toNat 4 12
  let hit (e : TlbEntry) : Bool := match va with
    | some va => e.part == cx.part && (e.glob || e.asid == asid) && e.va == va / e.size * e.size
    | none => cx.level == Level.root || e.part == cx.part
  let gone := (s.tlb ++ s.evicted).filter hit
  let uses (k : Core) (p : Op) : Bool := p.phase == .fly && !p.fault && (match p.form with
    | some f => f.sp == .glb && (accessAddrs f (BitVec.ofNat 64 p.va) (p.vs.getD 0 [])).any fun a =>
        gone.any fun e => e.part == k.part && decide (e.va < a.1 + max 1 a.2 ∧ a.1 < e.va + e.size)
    | none => false)
  let waits := s.cores.flatMap fun e => (e.2.pipe.filter fun p => uses e.2 p && !(e.1 == c && p.id == o.id)).map fun p => (e.1, p.id)
  let reds := (s.reds.filter fun r => r.begun && gone.any fun e => e.part == r.part && (e.glob || e.asid == fldN r.root.toNat 4 12) &&
    r.map.any fun g => decide (e.va < g.va * 65536 + 65536 ∧ g.va * 65536 < e.va + e.size)).map (·.key)
  let s := match va with
    | some va => s.invalidateVa cx asid va
    | none => s.invalidateAll (if cx.level = Level.root then none else some cx.part)
  s.setOp c { o with phase := .arrived, xdeps := waits, rdeps := reds }

/-- A maintenance access performs: on a page with CA = 2, and in the windows, it changes nothing. It does not ask who owns the block
(log entry 85); one to a reserved or unpopulated address is aborted and recorded (R74). -/
def State.linePart (s : State) (c : Nat) (o : Op) (i : Instr) : State :=
  match i with
  | .tlbiva _ => s.invalidate c o (some o.va)
  | i => match o.pieces with
    | q :: _ => if !q.arrived s.wall (s.core c).sched then s else match q.home with
      | .main ca _ => match s.admits { (s.opCtx c o).req with root := true } q.at_ with
        | (false, s) => s.failOp c o cDATA_ABORT
        | (true, s) => (if ca = 2 then s else s.maintain i q.at_).dropOp c o.id
      | .bad k => s.failOp c o k
      | _ => s.dropOp c o.id
    | [] => s.dropOp c o.id

/-- R165: an elastic store, or a cache-maintenance access, performs its next part at its home; an invalidation removes its translations
(R104). -/
def execStorePerforms (u : Upset) (s : State) : Out :=
  onCore s fun s =>
    let c := s.cur.core
    match (s.core c).op s.cur.i with
    | none => s
    | some o => match o.act, o.form with
      | some i, some f =>
        if !(s.core c).free_ o || (s.core c).postHeld o then s
        else match f.acc with
          | .store => s.storePart c o i f u
          | .line => s.linePart c o i
          | _ => s
      | _, _ => s

/-- R101: an outstanding-request entry frees; the freeze it ends is looked at again at the core's next wall cycle. -/
def execRequestEntryFreed (s : State) : Out :=
  onCore s fun s => s.modMe fun c => if c.requests < 1024 ∧ c.freeze = 19 then { c with freeze := 0 } else c

/-- A prefetch makes its request (R181): it brings in the line of a cached or streaming page of main memory, and whatever would fault or
lies elsewhere is dropped, with no record. -/
def State.prefetch (s : State) (cx : Ctx) (va : Nat) : State :=
  match s.xlate cx { r := true } va true with
  | (.error _, s) => s
  | (.ok e, s) =>
    let pa := e.out va
    if e.ca ≥ 2 || e.ms || !inMain pa || !(match blockOf pa with | some b => s.populated b && (cx.level == Level.root || s.owns cx.part b) | none => false)
    then s else s.touch cx.part cx.tag pa e.ca true

/-- An instruction prefetch makes its request (R247): a line that is present becomes the most recently used; else it comes into the
instruction cache, and a fetch that waits for it goes on. Whatever would fault or fail is dropped with no record. -/
def State.prefetchCode (s : State) (c va : Nat) : State :=
  let line := va / 128
  match s.heldLine c line with
  | some l => s.modCore c fun k => k.icTouch l.set_ l.line
  | none => match s.xlate { s.ctx c with cache := 3 } { x := true } va true with
    | (.error _, s) => s
    | (.ok e, s) =>
      let cx := s.ctx c
      let pa := e.out (line * 128)
      let lost := !(match blockOf pa with | some b => s.populated b && (cx.level == Level.root || s.owns cx.part b) | none => false) ||
        (sectorsOf pa 128).any (s.sectorBad e.ms)
      if e.ca ≥ 2 || !inMain pa || lost then s
      else match s.fetchLine c line .none with
        | (.ok (pl, d), s) => s.modCore c fun k =>
            { (k.icFill (line % 256) pl d) with fetchWait := if k.fetchWait = some line then none else k.fetchWait }
        | (.error _, s) => s

/-- The parts of an access that are left: a store goes on from its progress (R182). -/
def Op.partsLeft (o : Op) (f : Form) : List (Nat × Nat × Nat) :=
  (if f.acc = .line then [(0, o.va, 1)] else accessParts f (BitVec.ofNat 64 o.va) (o.vs.getD 0 [])).filter fun e =>
    f.acc != .store || decide (if f.elems then o.progress ≤ e.1 / 4 else o.progress ≤ e.1)

/-- The translation of a waiting access: its parts set out, counted from its issue, or it fails (R97). -/
def State.setOut (s : State) (c : Nat) (o : Op) (i : Instr) (f : Form) : State :=
  let (d, s) := s.freeTime
  let t := if o.reissued then (s.core c).sched else o.land - f.land
  let (ps, s) := s.routeParts (s.opCtx c o) (accessNeed i f) (f.acc == .store) t (s.wall + d) (o.partsLeft f)
  match ps with
  | [q] => match q.home with
    | .bad k => if f.acc = .store ∧ o.progress ≠ 0 then s.setOp c { o with phase := .fly, pieces := ps } else s.failOp c o k
    | _ => s.setOp c { o with phase := .fly, pieces := ps }
  | ps => s.setOp c { o with phase := .fly, pieces := ps }

/-- R97: the translation of a waiting access returns: its parts set out, or it fails. A prefetch makes its request; an invalidation of
an address beyond the range fails, or takes its place in its class (R102, R104). -/
def execTranslationWalkDone (s : State) : Out :=
  onCore s fun s =>
    let c := s.cur.core
    match (s.core c).op s.cur.i with
    | none => s
    | some o => match o.phase, o.act with
      | .walk _, some i =>
        match i with
        | .pref _ => (s.dropOp c o.id).prefetch (s.opCtx c o) o.va
        | .ipref _ => (s.dropOp c o.id).prefetchCode c o.va
        | .tlbiva _ => if 2 ^ 55 ≤ o.va then s.failOp c o (Xlt.cause Xlt.RANGE false 0) else s.setOp c { o with phase := .fly }
        | .tlbiall => s.invalidate c o none
        | i => match o.form with
          | none => s
          | some f => s.setOut c o i f
      | _, _ => s

end Sys2Proof.Machine
end

