-- ==== Sys2Proof/Machine/Atomic.lean ====
section
/-! DEFINITION. Atomics and rings (R300 to R313), fences (R288, R289) and commit groups (R319 to R322). -/
namespace Sys2Proof.Machine

open Sys2Proof

/-! ## Issue (R300, R301) -/

/-- Issue an atomic or ring operation: xa, xv and xb are read at issue. dest is the code of xd, 0 for a form without one. -/
def issueAtomic (i : Instr) (m : AArgs) (dest : Nat) (s : State) : State :=
  let a := s.me.rx m.a.toNat
  let v := s.me.rx m.v.toNat
  let b := s.me.rx m.b.toNat
  match memForm i with
  | some f => s.issueAccess i f a fun o => { o with ws := [a, v, b], dest := dest }
  | none => s

/-! ## Values (R308, R312) -/

/-- An n-bit number as signed. -/
def signedN (n w : Nat) : Int := (BitVec.ofNat n w).toInt

/-- The new value of a data atomic or radd and the flag of afaddb: old, V and B are n-bit numbers; none where nothing is
written. -/
def atomicVal (i : Instr) (n old v b : Nat) : Option Nat × Bool :=
  match i with
  | .aincW _ | .aincD _ => (some (if b ≤ old then 0 else old + 1), false)
  | .afaddbW _ | .afaddbD _ => if old + v ≤ b then (some (old + v), true) else (none, false)
  | .aaddW _ | .aaddD _ => (some ((old + v) % 2 ^ n), false)
  | .aaddfW _ => (some (addF32 (BitVec.ofNat 32 old) (BitVec.ofNat 32 v)).1.toNat, false)
  | .acasW _ | .acasD _ => (if old = b then some v else none, false)
  | .axchgW _ | .axchgD _ => (some v, false)
  | .amaxW _ | .amaxD _ => (some (if signedN n old < signedN n v then v else old), false)
  | .aminW _ | .aminD _ => (some (if signedN n v < signedN n old then v else old), false)
  | .radd _ => (some (ringSum old v).1, false)
  | _ => (none, false)

/-- R312: ainc.w. -/
def execAincW (m : AArgs) (s : State) : Out := onCore s (issueAtomic (.aincW m) m (0x100 + m.d.toNat))

/-- R312: ainc.d. -/
def execAincD (m : AArgs) (s : State) : Out := onCore s (issueAtomic (.aincD m) m (0x100 + m.d.toNat))

/-- R312: aadd.w. -/
def execAaddW (m : AArgs) (s : State) : Out := onCore s (issueAtomic (.aaddW m) m (0x100 + m.d.toNat))

/-- R312: aadd.d. -/
def execAaddD (m : AArgs) (s : State) : Out := onCore s (issueAtomic (.aaddD m) m (0x100 + m.d.toNat))

/-- R312: aaddf.w. -/
def execAaddfW (m : AArgs) (s : State) : Out := onCore s (issueAtomic (.aaddfW m) m (0x100 + m.d.toNat))

/-- R312: acas.w. -/
def execAcasW (m : AArgs) (s : State) : Out := onCore s (issueAtomic (.acasW m) m (0x100 + m.d.toNat))

/-- R312: acas.d. -/
def execAcasD (m : AArgs) (s : State) : Out := onCore s (issueAtomic (.acasD m) m (0x100 + m.d.toNat))

/-- R312: axchg.w. -/
def execAxchgW (m : AArgs) (s : State) : Out := onCore s (issueAtomic (.axchgW m) m (0x100 + m.d.toNat))

/-- R312: axchg.d. -/
def execAxchgD (m : AArgs) (s : State) : Out := onCore s (issueAtomic (.axchgD m) m (0x100 + m.d.toNat))

/-- R312: amax.w. -/
def execAmaxW (m : AArgs) (s : State) : Out := onCore s (issueAtomic (.amaxW m) m (0x100 + m.d.toNat))

/-- R312: amax.d. -/
def execAmaxD (m : AArgs) (s : State) : Out := onCore s (issueAtomic (.amaxD m) m (0x100 + m.d.toNat))

/-- R312: amin.w. -/
def execAminW (m : AArgs) (s : State) : Out := onCore s (issueAtomic (.aminW m) m (0x100 + m.d.toNat))

/-- R312: amin.d. -/
def execAminD (m : AArgs) (s : State) : Out := onCore s (issueAtomic (.aminD m) m (0x100 + m.d.toNat))

/-- R312: afaddb.w. -/
def execAfaddbW (m : AArgs) (s : State) : Out := onCore s (issueAtomic (.afaddbW m) m (0x100 + m.d.toNat))

/-- R312: afaddb.d. -/
def execAfaddbD (m : AArgs) (s : State) : Out := onCore s (issueAtomic (.afaddbD m) m (0x100 + m.d.toNat))

/-- R308: radd. -/
def execRadd (m : AArgs) (s : State) : Out := onCore s (issueAtomic (.radd m) m 0)
/-- R308: rwait; xv is the target. -/
def execRwait (m : AArgs) (s : State) : Out := onCore s (issueAtomic (.rwait m) m 0)
/-- R308: rrd. -/
def execRrd (m : AArgs) (s : State) : Out := onCore s (issueAtomic (.rrd m) m (0x100 + m.d.toNat))

/-! ## At the home (R302 to R304) -/

/-- Parked waits, of cores and of far cores, whose granule has the home of a piece (R309, R311): the waits of one slice. -/
def State.parkedAt (s : State) (q : Piece) : Nat :=
  let key (q : Piece) : Nat := match q.home with
    | .main _ ms => if ms then 2000 + stackOf q.at_ else homeDie q.at_ * 48 + q.at_ / 128 % 48
    | .clr w => w / 16
    | _ => 9999
  (s.cores.map fun e => e.2.pipe.countP fun o => o.phase == .parked && (match o.pieces with | p :: _ => key p == key q | [] => false)).sum +
    s.farWaits.countP fun w => w.due.isNone && key { off := 0, len := 8, home := .main 0 false, at_ := w.pa, due := 0 } == key q

/-- An atomic or ring operation has its value: it waits for its landing, or is over where it returns none (R303). -/
def State.answered (s : State) (c : Nat) (o : Op) (i : Instr) (got : List Byte) (flag : Bool) : State :=
  match i with
  | .radd _ => s.dropOp c o.id
  | _ => s.setOp c { o with phase := .arrived, got := Sparse.setBytes [] 0 got, progress := b2n flag }

/-- A wait is compared with its counter: satisfied, parked, or compared again after 64 wall cycles where the table is full
(R308, R309). -/
def State.compareWait (s : State) (c : Nat) (o : Op) (i : Instr) (q : Piece) (val : Nat) : State :=
  if (o.ws.getD 1 0).toNat ≤ val then s.answered c o i [] false
  else if s.parkedAt q < 512 then s.setOp c { o with phase := .parked }
  else s.setOp c { o with phase := .recheck (s.wall + 64) }

/-- The effect of an operation on an old value at a home that can be written: the new bytes and the flag. -/
def atomicBytes (i : Instr) (o : Op) (n : Nat) (old : List Byte) : Option (List Byte) × Bool :=
  let (w, fl) := atomicVal i (8 * n) (natLE old) ((o.ws.getD 1 0).toNat % 2 ^ (8 * n)) ((o.ws.getD 2 0).toNat % 2 ^ (8 * n))
  (w.map (bytesLE n), fl)

/-- A radd overran its counter (R310). -/
def raddOver (i : Instr) (o : Op) (old : List Byte) : Bool :=
  (match i with | .radd _ => true | _ => false) && (ringSum (natLE old) ((o.ws.getD 1 0).toNat)).2

/-- The bytes that an atomic leaves and its flag r: they are stored in main memory, an overrun is reported, and the old bytes are the
answer (R298 to R310). -/
def State.atomicStore (s : State) (c : Nat) (o : Op) (i : Instr) (q : Piece) (ms : Bool) (old : List Byte) (r : Option (List Byte) × Bool) :
    State :=
  let s := (match r.1 with | some bs => (s.putMain ms q.at_ bs).getD s | none => s).dirty c q.gpa
  let s := if raddOver i o old then s.overrun (((blockOf q.at_).bind s.ownerOf).getD 0) q.at_ 0 c else s
  s.answered c o i old r.2
/-- The same in way unit w of the clearing. -/
def State.atomicStoreClr (s : State) (c : Nat) (o : Op) (i : Instr) (q : Piece) (w : Nat) (old : List Byte) (r : Option (List Byte) × Bool) :
    State :=
  let s := match r.1 with | some bs => (s.putClr w q.at_ bs).getD s | none => s
  let s := if raddOver i o old then s.overrun (WuCtl.cur (s.wu w)) 0 0 c else s
  s.answered c o i old r.2

/-- Perform at main memory: L2 slice or base die (R304, R305). -/
def State.atomicMain (s : State) (c : Nat) (o : Op) (i : Instr) (q : Piece) (ca : Nat) (ms : Bool) (u : Upset) : State :=
  let cx := s.opCtx c o
  if (List.range q.len).any fun j => ((s.core c).heldByte (q.at_ + j)).isSome then s.failOp c o 0xA0
  else match s.readMain cx.req ca ms q.at_ q.len true u with
  | (none, s) => s.failOp c o cDATA_ABORT
  | (some old, s) =>
    let s := s.countAtomic q.at_ c
    match i with
    | .rwait _ => s.compareWait c o i q (natLE old)
    | .rrd _ => s.answered c o i old false
    | i => s.atomicStore c o i q ms old (atomicBytes i o q.len old)

/-- Perform at the clearing slice (R113, R304). -/
def State.atomicClr (s : State) (c : Nat) (o : Op) (i : Instr) (q : Piece) (w : Nat) (u : Upset) : State :=
  match s.readClr (s.opCtx c o).req w q.at_ q.len u with
  | (none, s) => s.failOp c o cDATA_ABORT
  | (some old, s) =>
    match i with
    | .rwait _ => s.compareWait c o i q (natLE old)
    | .rrd _ => s.answered c o i old false
    | i => s.atomicStoreClr c o i q w old (atomicBytes i o q.len old)

/-- The PCIe AtomicOp of a form, if it has one (R299): 0 FetchAdd, 1 Swap, 2 CAS. -/
def hostAtomic : Instr → Option Nat
  | .aaddD _ => some 0 | .axchgD _ => some 1 | .acasD _ => some 2 | _ => none

/-- R302: an atomic or ring operation performs at its home: slice, base die, clearing, host or far node (R299, R301, R304,
R311). -/
def execAtomicPerforms (u : Upset) (s : State) : Out :=
  onCore s fun s =>
    let c := s.cur.core
    match (s.core c).op s.cur.i with
    | none => s
    | some o => match o.act, o.form, o.pieces with
      | some i, some f, q :: _ =>
        if !(s.core c).free_ o || f.acc != .atomic || !q.arrived s.wall (s.core c).sched then s
        else match q.home with
          | .main ca ms => s.atomicMain c o i q ca ms u
          | .clr w => s.atomicClr c o i q w u
          | .regs => s.failOp c o 0x9D
          | .host l _ => match hostAtomic i with
            | none => s.failOp c o 0x9B
            | some k =>
              let s := s.send (.hostAtomic l (s.translated (s.core c).part l) q.at_ k (if k = 2 then [o.ws.getD 2 0, o.ws.getD 1 0] else [o.ws.getD 1 0]))
              let (ok, s) := s.coin
              if ok then (let (b, s) := s.outside 8; s.answered c o i b false) else s.failOp c o 0x9C
          | .fabric n =>
            if q.port.isNone || u = .uncorrectable then s.failOp c o cDATA_ABORT
            else
              let s := s.send (.fabAtomic n (q.at_ % 2 ^ 40) (encode i / 2 ^ 56) [o.ws.getD 1 0, o.ws.getD 2 0])
              let (b, s) := s.outside q.len
              let (fl, s) := s.coin
              s.answered c o i b (match i with | .afaddbW _ | .afaddbD _ => fl | _ => false)
          | .grv _ => s
          | .bad k => s.failOp c o k
      | _, _, _ => s

/-- The value of the counter that a wait watches now. -/
def State.watched (s : State) (q : Piece) : Nat :=
  match q.home with
  | .main _ ms => s.gran ms q.at_
  | .clr w => s.clrGran w q.at_
  | _ => 0

/-- The same, verified (R78): none where the sector fails its check, which is recorded (R83). -/
def State.watchedNow (s : State) (r : Req) (q : Piece) : Option Nat × State :=
  match q.home with
  | .main _ ms =>
    let s := s.correct r ms q.at_ 8
    if s.sectorBad ms (q.at_ / 32) then (none, s.failRecord r ms q.at_) else (some (s.watched q), s)
  | .clr w => if s.clrFails w q.at_ 8 then (none, s.failClr r w q.at_) else (some (s.watched q), s)
  | _ => (some 0, s)

/-- R309: a parked wait is compared with its counter as it stands, and is answered when its target is reached. A write to the granule has
answered it before (State.wake). -/
def execRingWaitSatisfied (s : State) : Out :=
  onCore s fun s =>
    let c := s.cur.core
    match (s.core c).op s.cur.i with
    | none => s
    | some o => match o.act, o.pieces with
      | some i, q :: _ => if o.phase = .parked ∧ (o.ws.getD 1 0).toNat ≤ s.watched q then s.answered c o i [] false else s
      | _, _ => s

/-- R309: a wait that found the table full is compared again; a counter that fails its check aborts it (R78, R83). -/
def execRingWaitRecheck (s : State) : Out :=
  onCore s fun s =>
    let c := s.cur.core
    match (s.core c).op s.cur.i with
    | none => s
    | some o => match o.act, o.phase, o.pieces with
      | some i, .recheck _, q :: _ => (match s.watchedNow (s.opCtx c o).req q with
        | (some v, s) => s.compareWait c o i q v
        | (none, s) => s.failOp c o cDATA_ABORT)
      | _, _, _ => s

/-! ## Fences (R288, R289) -/

/-- R289: a fence takes note of the earlier accesses it masks; later masked accesses wait for them before their bundle issues. -/
def execFence (mask : BitVec 16) (scope : Scope) (s : State) : Out :=
  onCore s fun s => s.issue (.fence mask scope) 0 fun c o =>
    { o with phase := .fly
             deps := (c.pipe.filter fun p => p.elastic && !p.performed && (match p.ordClass with
               | some k => bitN mask.toNat k | none => false)).map (·.id) }

/-- Whether a fence holds accesses of a class. -/
def Op.fences (o : Op) (cls : Nat) : Bool := match o.act with | some (.fence m _) => bitN m.toNat cls | _ => false

/-- A fence's condition as it stands: all members performed, and at system or fabric scope confirmed by the link or the far
nodes, after a free time (R286). -/
def Core.fenceStep (c : Core) (wall : Nat) (d : Nat) (o : Op) : Option Op :=
  match o.act with
  | some (.fence _ sc) =>
    if c.fenceHeld o then some o
    else if sc.code < 4 then none
    else match o.phase with
      | .recheck due => if due ≤ wall then none else some o
      | _ => some { o with phase := .recheck (wall + d) }
  | _ => some o

/-! ## Groups (R319, R322) -/

/-- R319: gopen gn. -/
def execGopen (g : BitVec 2) (s : State) : Out :=
  onCore s fun s => s.modMe fun c =>
    let q := c.groups.getD g.toNat {}
    if q.st = 0 then c.setGroup g.toNat { q with st := 1, spilt := false } else c

/-- A gcommit or gabort on a group that is not closed joins the operations in flight; the group is CLOSED at once for later
stores, and progress keeps what it was (R319). -/
def closeGroup (i : Instr) (g : BitVec 2) (s : State) : State :=
  let q := s.me.groups.getD g.toNat {}
  if q.st = 0 then s
  else (s.issue i 0 fun _ o => { o with phase := .fly, gst := q.st }).modMe fun c => c.setGroup g.toNat { q with st := 0 }

/-- R319, R322: gcommit gn. -/
def execGcommit (g : BitVec 2) (s : State) : Out := onCore s (closeGroup (.gcommit g) g)
/-- R319: gabort gn. -/
def execGabort (g : BitVec 2) (s : State) : Out := onCore s (closeGroup (.gabort g) g)

/-- Merge the held bytes of one sector into the visible line (R322): false where the sector fails and is written in part. -/
def State.commitSector (s : State) (r : Req) (held : Sparse (Nat × Byte)) (sec : Nat) : State × Bool :=
  let idx := (List.range 32).filter fun j => (Sparse.get (0, 0) held (sec * 32 + j)).1 != 0
  if idx.isEmpty then (s, true)
  else if idx.length < 32 && s.sectorBad false sec then (s.failRecord r false (sec * 32), false)
  else
    let old := s.peek false (sec * 32) 32
    let new := (List.range 32).map fun j =>
      let e := Sparse.get (0, 0) held (sec * 32 + j)
      if e.1 = 0 then old.getD j 0 else e.2
    ((s.putMain false (sec * 32) new).getD s, true)

/-- Commit a group of core c: every held line merges at one instant (R322). -/
def State.commitGroup (s : State) (c n : Nat) : State :=
  let g := (s.core c).groups.getD n {}
  let r := (s.ctx c).req
  let s := (g.lines.map (· / 4)).eraseDups.foldl (fun s k =>
    if g.lines.any fun l => l / 4 == k && !s.inL2 false (l * 128) then s.countAccess (k * 512) else s) s
  let secs := (g.lines.flatMap fun l => (List.range 4).map fun j => 4 * l + j)
  let (s, ok) := secs.foldl (fun (st : State × Bool) sec =>
    let (s, k) := st.1.commitSector r g.held sec
    (s, st.2 && k)) (s, true)
  let s := g.pages.foldl (fun s p => s.dirty c (p * 65536)) s
  s.modCore c fun k => k.setGroup n { g with held := [], lines := [], ways := [], pages := [], spilt := false, last := if ok then 1 else 4 }

/-- Discard a group's held stores with a result (R319). -/
def Core.dropGroup (c : Core) (n last : Nat) : Core :=
  let g := c.groups.getD n {}
  c.setGroup n { g with held := [], lines := [], ways := [], pages := [], spilt := false, last := last }

/-- Stores of a group that have not been held or discarded yet, issued before an operation (R319). -/
def Core.groupPending (c : Core) (o : Op) (n : Nat) : Bool :=
  (c.pipe.takeWhile fun p => p.id != o.id).any fun p => match p.form with
    | some f => f.acc == .store && f.group == some n
    | none => false

/-- A gcommit or gabort performs once every tagged store before it is held or discarded. -/
def State.settleGroup (s : State) (c : Nat) (o : Op) : State :=
  match o.act with
  | some (.gcommit g) =>
    if (s.core c).groupPending o g.toNat then s
    else
      let q := (s.core c).groups.getD g.toNat {}
      let s := if q.spilt || o.gst == 2 then s.modCore c fun k => k.dropGroup g.toNat 3 else s.commitGroup c g.toNat
      s.dropOp c o.id
  | some (.gabort g) =>
    if (s.core c).groupPending o g.toNat then s
    else
      let q := (s.core c).groups.getD g.toNat {}
      (s.modCore c fun k => k.dropGroup g.toNat (if q.spilt || o.gst == 2 then 3 else 2)).dropOp c o.id
  | _ => s

/-- Fences and group closings of core c as far as they go (R289, R319). -/
def State.settle (s : State) (c : Nat) : State :=
  (s.core c).pipe.foldl (fun s p => match (s.core c).op p.id with
    | none => s
    | some o => match o.act with
      | some (.fence _ sc) =>
        let (d, s) := if sc.code < 4 then (0, s) else s.freeTime
        (match (s.core c).fenceStep s.wall d o with
        | none => s.dropOp c o.id
        | some o => s.setOp c o)
      | some (.gcommit _) => s.settleGroup c o
      | some (.gabort _) => s.settleGroup c o
      | _ => s) s

/-! ## Translations and lines: issue (R102 to R104, R119) -/

/-- R103: tlbiva glb[xa+off]. -/
def execTlbiva (m : MArgs) (s : State) : Out :=
  onCore s fun s => guardLevel (.tlbiva m) s (loadM (.tlbiva m) m 0)
/-- R103: tlbiall lands at t + 256. -/
def execTlbiall (s : State) : Out :=
  onCore s fun s => guardLevel .tlbiall s fun s =>
    let (d, s) := s.freeTime
    s.issue .tlbiall 256 fun _ o => { o with phase := .walk (s.wall + d) }
/-- R119: l2wb. -/
def execL2wb (m : MArgs) (s : State) : Out := onCore s (loadM (.l2wb m) m 0)
/-- R119: l2inv, at partition level. -/
def execL2inv (m : MArgs) (s : State) : Out := onCore s fun s => guardLevel (.l2inv m) s (loadM (.l2inv m) m 0)
/-- R119: l2wbinv. -/
def execL2wbinv (m : MArgs) (s : State) : Out := onCore s (loadM (.l2wbinv m) m 0)

end Sys2Proof.Machine
end

