-- ==== Sys2Proof/Machine/Move.lean ====
section
/-! DEFINITION. Moves and the vector units (R202 to R226): plain moves, triggers with the latches they capture, the results
that land, the signature unit and the accumulator port. -/
namespace Sys2Proof.Machine

open Sys2Proof

/-! ## Moves (R205) -/

/-- A pop takes effect at the end of the bundle (R65). -/
def Core.notePop (c : Core) (src : Src) : Core :=
  match src with
  | .pop n => { c with pops := n.toNat :: c.pops }
  | _ => c

/-- R205: a move to a latch holds from this cycle, to a v, x or k register from the next. -/
def execMove (src : Src) (dst : Dst) (s : State) : Out :=
  onCore s fun s =>
    let v := s.me.src src
    let s := match dst with
      | .latch l => s.modMe fun c => c.wLatch l.code v
      | d => s.issue (.move src d) 1 fun _ o => { o with vs := [v], dest := d.code }
    s.modMe fun c => c.notePop src

/-! ## Triggers (R60, R66, R208) -/

/-- The value a trigger's unit keeps beside its latches: the signature for wc (R221), nothing for the others. -/
def trigger (i : Instr) (src : Src) (u : VUnit) (n : Nat) (extra : Core → List Vec → List Word × List Vec) (s : State) : State :=
  s.modMe fun c =>
    let c := c.wLatch u.latchA.code (c.src src)
    let ls := c.latches u
    let (ws, more) := extra c ls
    let c := { c with unitEnd := Sparse.set 0 c.unitEnd u.code (c.sched + 4) }
    (c.push s.cur i n fun o => { o with ws := ws, vs := ls ++ more, dest := 0x140 + u.code, dspace := true }).notePop src

/-- A trigger whose operation reads its latches only. -/
def trigger0 (i : Instr) (src : Src) (u : VUnit) (n : Nat) (s : State) : State := trigger i src u n (fun _ _ => ([], [])) s

/-- The latency of an arithmetic operation: i32 operations, compares and mask operations 5, others 7 (R209). -/
def vaLat (f : Fmt) : Nat := if f = .i32 then 5 else 7

/-! ## The arithmetic units (R209 to R212) -/

/-- R209. -/
def execVaMov (src : Src) (u : VaUnit) (f : Fmt) (s : State) : Out := onCore s (trigger0 (.vaMov src u f) src u.unit (vaLat f))

/-- R209. -/
def execVaAdd (src : Src) (u : VaUnit) (f : Fmt) (s : State) : Out := onCore s (trigger0 (.vaAdd src u f) src u.unit (vaLat f))

/-- R209. -/
def execVaSub (src : Src) (u : VaUnit) (f : Fmt) (s : State) : Out := onCore s (trigger0 (.vaSub src u f) src u.unit (vaLat f))

/-- R209. -/
def execVaMul (src : Src) (u : VaUnit) (f : Fmt) (s : State) : Out := onCore s (trigger0 (.vaMul src u f) src u.unit (vaLat f))

/-- R209. -/
def execVaFma (src : Src) (u : VaUnit) (f : Fmt) (s : State) : Out := onCore s (trigger0 (.vaFma src u f) src u.unit (vaLat f))

/-- R209. -/
def execVaFms (src : Src) (u : VaUnit) (f : Fmt) (s : State) : Out := onCore s (trigger0 (.vaFms src u f) src u.unit (vaLat f))

/-- R209. -/
def execVaFnma (src : Src) (u : VaUnit) (f : Fmt) (s : State) : Out := onCore s (trigger0 (.vaFnma src u f) src u.unit (vaLat f))

/-- R209. -/
def execVaMin (src : Src) (u : VaUnit) (f : Fmt) (s : State) : Out := onCore s (trigger0 (.vaMin src u f) src u.unit (vaLat f))

/-- R209. -/
def execVaMax (src : Src) (u : VaUnit) (f : Fmt) (s : State) : Out := onCore s (trigger0 (.vaMax src u f) src u.unit (vaLat f))

/-- R209. -/
def execVaAbs (src : Src) (u : VaUnit) (f : Fmt) (s : State) : Out := onCore s (trigger0 (.vaAbs src u f) src u.unit (vaLat f))

/-- R209. -/
def execVaNeg (src : Src) (u : VaUnit) (f : Fmt) (s : State) : Out := onCore s (trigger0 (.vaNeg src u f) src u.unit (vaLat f))

/-- R210. -/
def execVaAnd (src : Src) (u : VaUnit) (f : Fmt) (s : State) : Out := onCore s (trigger0 (.vaAnd src u f) src u.unit (vaLat f))

/-- R210. -/
def execVaOr (src : Src) (u : VaUnit) (f : Fmt) (s : State) : Out := onCore s (trigger0 (.vaOr src u f) src u.unit (vaLat f))

/-- R210. -/
def execVaXor (src : Src) (u : VaUnit) (f : Fmt) (s : State) : Out := onCore s (trigger0 (.vaXor src u f) src u.unit (vaLat f))

/-- R210. -/
def execVaAndn (src : Src) (u : VaUnit) (f : Fmt) (s : State) : Out := onCore s (trigger0 (.vaAndn src u f) src u.unit (vaLat f))

/-- R210. -/
def execVaNot (src : Src) (u : VaUnit) (f : Fmt) (s : State) : Out := onCore s (trigger0 (.vaNot src u f) src u.unit (vaLat f))

/-- R210. -/
def execVaSll (src : Src) (u : VaUnit) (f : Fmt) (s : State) : Out := onCore s (trigger0 (.vaSll src u f) src u.unit (vaLat f))

/-- R210. -/
def execVaSrl (src : Src) (u : VaUnit) (f : Fmt) (s : State) : Out := onCore s (trigger0 (.vaSrl src u f) src u.unit (vaLat f))

/-- R210. -/
def execVaSra (src : Src) (u : VaUnit) (f : Fmt) (s : State) : Out := onCore s (trigger0 (.vaSra src u f) src u.unit (vaLat f))

/-- R210. -/
def execVaMulhi (src : Src) (u : VaUnit) (f : Fmt) (s : State) : Out := onCore s (trigger0 (.vaMulhi src u f) src u.unit (vaLat f))

/-- R211. -/
def execVaSel (src : Src) (u : VaUnit) (f : Fmt) (s : State) : Out := onCore s (trigger0 (.vaSel src u f) src u.unit (vaLat f))

/-- R211. -/
def execVaCeq (src : Src) (u : VaUnit) (f : Fmt) (s : State) : Out := onCore s (trigger0 (.vaCeq src u f) src u.unit 5)

/-- R211. -/
def execVaCne (src : Src) (u : VaUnit) (f : Fmt) (s : State) : Out := onCore s (trigger0 (.vaCne src u f) src u.unit 5)

/-- R211. -/
def execVaClt (src : Src) (u : VaUnit) (f : Fmt) (s : State) : Out := onCore s (trigger0 (.vaClt src u f) src u.unit 5)

/-- R211. -/
def execVaCle (src : Src) (u : VaUnit) (f : Fmt) (s : State) : Out := onCore s (trigger0 (.vaCle src u f) src u.unit 5)

/-- R211. -/
def execVaCun (src : Src) (u : VaUnit) (f : Fmt) (s : State) : Out := onCore s (trigger0 (.vaCun src u f) src u.unit 5)

/-- R212. -/
def execVaKand (src : Src) (u : VaUnit) (f : Fmt) (s : State) : Out := onCore s (trigger0 (.vaKand src u f) src u.unit 5)

/-- R212. -/
def execVaKor (src : Src) (u : VaUnit) (f : Fmt) (s : State) : Out := onCore s (trigger0 (.vaKor src u f) src u.unit 5)

/-- R212. -/
def execVaKxor (src : Src) (u : VaUnit) (f : Fmt) (s : State) : Out := onCore s (trigger0 (.vaKxor src u f) src u.unit 5)

/-- R212. -/
def execVaKandn (src : Src) (u : VaUnit) (f : Fmt) (s : State) : Out := onCore s (trigger0 (.vaKandn src u f) src u.unit 5)

/-- R212. -/
def execVaKnot (src : Src) (u : VaUnit) (f : Fmt) (s : State) : Out := onCore s (trigger0 (.vaKnot src u f) src u.unit 5)

/-- R212. -/
def execVaKcnt (src : Src) (u : VaUnit) (f : Fmt) (s : State) : Out := onCore s (trigger0 (.vaKcnt src u f) src u.unit 5)

/-! ## The permute unit (R213, R214) -/

/-- R213. -/
def execVpRotr (src : Src) (f : Fmt) (s : State) : Out := onCore s (trigger0 (.vpRotr src f) src .vp 5)

/-- R213. -/
def execVpBcr (src : Src) (f : Fmt) (s : State) : Out := onCore s (trigger0 (.vpBcr src f) src .vp 5)

/-- R214. -/
def execVpSumr (src : Src) (f : Fmt) (s : State) : Out := onCore s (trigger0 (.vpSumr src f) src .vp 5)

/-- R214. -/
def execVpMaxr (src : Src) (f : Fmt) (s : State) : Out := onCore s (trigger0 (.vpMaxr src f) src .vp 5)

/-- R214. -/
def execVpMinr (src : Src) (f : Fmt) (s : State) : Out := onCore s (trigger0 (.vpMinr src f) src .vp 5)

/-- R213. -/
def execVpRotc (src : Src) (f : Fmt) (s : State) : Out := onCore s (trigger0 (.vpRotc src f) src .vp 9)

/-- R213. -/
def execVpBcc (src : Src) (f : Fmt) (s : State) : Out := onCore s (trigger0 (.vpBcc src f) src .vp 9)

/-- R214. -/
def execVpSumc (src : Src) (f : Fmt) (s : State) : Out := onCore s (trigger0 (.vpSumc src f) src .vp 9)

/-- R214. -/
def execVpMaxc (src : Src) (f : Fmt) (s : State) : Out := onCore s (trigger0 (.vpMaxc src f) src .vp 9)

/-- R214. -/
def execVpMinc (src : Src) (f : Fmt) (s : State) : Out := onCore s (trigger0 (.vpMinc src f) src .vp 9)

/-- R213. -/
def execVpTrn16 (src : Src) (f : Fmt) (s : State) : Out := onCore s (trigger0 (.vpTrn16 src f) src .vp 9)

/-- R213. -/
def execVpShuf (src : Src) (f : Fmt) (s : State) : Out := onCore s (trigger0 (.vpShuf src f) src .vp 5)

/-! ## The special-function unit (R215) -/

/-- R215. -/
def execSfExp2 (src : Src) (f : Fmt) (s : State) : Out := onCore s (trigger0 (.sfExp2 src f) src .sf 12)

/-- R215. -/
def execSfLog2 (src : Src) (f : Fmt) (s : State) : Out := onCore s (trigger0 (.sfLog2 src f) src .sf 12)

/-- R215. -/
def execSfRcp (src : Src) (f : Fmt) (s : State) : Out := onCore s (trigger0 (.sfRcp src f) src .sf 12)

/-- R215. -/
def execSfRsqrt (src : Src) (f : Fmt) (s : State) : Out := onCore s (trigger0 (.sfRsqrt src f) src .sf 12)

/-- R215. -/
def execSfSqrt (src : Src) (f : Fmt) (s : State) : Out := onCore s (trigger0 (.sfSqrt src f) src .sf 12)

/-- R215. -/
def execSfTanh (src : Src) (f : Fmt) (s : State) : Out := onCore s (trigger0 (.sfTanh src f) src .sf 12)

/-- R215. -/
def execSfSin (src : Src) (f : Fmt) (s : State) : Out := onCore s (trigger0 (.sfSin src f) src .sf 12)

/-- R215. -/
def execSfCos (src : Src) (f : Fmt) (s : State) : Out := onCore s (trigger0 (.sfCos src f) src .sf 12)

/-- R215. -/
def execSfErf (src : Src) (f : Fmt) (s : State) : Out := onCore s (trigger0 (.sfErf src f) src .sf 12)

/-! ## The conversion unit (R217 to R219) -/

/-- R218: a down-conversion. -/
def execCvDn (src : Src) (t : CvFmt) (r : Rnd) (o : OvPol) (s : State) : Out := onCore s (trigger0 (.cvDn src t r o) src .cv 6)
/-- R219: an exact up-conversion. -/
def execCvUp (src : Src) (t : CvFmt) (s : State) : Out := onCore s (trigger0 (.cvUp src t) src .cv 6)
/-- R219: an up-conversion that rounds. -/
def execCvUpRounding (src : Src) (t : CvFmt) (r : Rnd) (s : State) : Out := onCore s (trigger0 (.cvUpRounding src t r) src .cv 6)

/-! ## The signature unit (R221) -/

/-- The signature after an operation that started from S with its latches. -/
def sigAfter (i : Instr) (sig : Elem) (ls : List Vec) : Elem :=
  match i with
  | .wcSig _ => sigVec sig (ls.getD 0 []) (ls.getD 1 [])
  | .wcSigclr _ => (ls.getD 0 []).at_ 0 0
  | _ => sig

/-- A wc operation starts from S as every earlier-triggered one leaves it (R221, R353). -/
def triggerWc (i : Instr) (src : Src) (s : State) : State :=
  let sig := s.me.sig
  (trigger i src .wc 8 (fun c _ => ([c.sig.setWidth 64], [])) s).modMe fun c => { c with sig := sigAfter i sig (c.latches .wc) }

/-- R221: sig. -/
def execWcSig (src : Src) (s : State) : Out := onCore s (triggerWc (.wcSig src) src)
/-- R221: sigclr. -/
def execWcSigclr (src : Src) (s : State) : Out := onCore s (triggerWc (.wcSigclr src) src)
/-- R221: cmp. -/
def execWcCmp (src : Src) (s : State) : Out := onCore s (triggerWc (.wcCmp src) src)

/-! ## The accumulator port (R223) -/

/-- The tile and chunk that .b selects, and INT. -/
def apTile (b : Vec) : Nat := (b.at_ 0 0).toNat % 32
def apChunk (b : Vec) : Nat := (b.at_ 0 0).toNat / 32 % 16
def apInt (b : Vec) : Bool := bitN (b.at_ 0 0).toNat 9

/-- R223: rd reads the chunk in its trigger cycle. -/
def execApRd (src : Src) (s : State) : Out :=
  onCore s (trigger (.apRd src) src .ap 6 fun c ls => ([], [chunkRead c.acc (apTile (ls.getD 1 [])) (apChunk (ls.getD 1 []))]))
/-- R223: wr. -/
def execApWr (src : Src) (s : State) : Out := onCore s (trigger0 (.apWr src) src .ap 6)
/-- R223: acc. -/
def execApAcc (src : Src) (s : State) : Out := onCore s (trigger0 (.apAcc src) src .ap 6)

/-! ## Results -/

/-- The result, the flags, and whether policy stop stops, of a vector operation from its captured latches (R209 to R221). -/
def vecVal (i : Instr) (ls : List Vec) (sig : Elem) : Vec × Nat × Bool :=
  let plain (r : Vec × Nat) : Vec × Nat × Bool := (r.1, r.2, false)
  match i with
  | .vaMov _ _ f => plain (vecE (eMov f) ls)
  | .vaAdd _ _ f => plain (vecE (eAdd f) ls)
  | .vaSub _ _ f => plain (vecE (eSub f) ls)
  | .vaMul _ _ f => plain (vecE (eMul f) ls)
  | .vaFma _ _ f => plain (vecE (eFma f) ls)
  | .vaFms _ _ f => plain (vecE (eFms f) ls)
  | .vaFnma _ _ f => plain (vecE (eFnma f) ls)
  | .vaMin _ _ f => plain (vecE (eMin f) ls)
  | .vaMax _ _ f => plain (vecE (eMax f) ls)
  | .vaAbs _ _ f => plain (vecE (eAbs f) ls)
  | .vaNeg _ _ f => plain (vecE (eNeg f) ls)
  | .vaAnd _ _ f => plain (vecE (eAnd f) ls)
  | .vaOr _ _ f => plain (vecE (eOr f) ls)
  | .vaXor _ _ f => plain (vecE (eXor f) ls)
  | .vaAndn _ _ f => plain (vecE (eAndn f) ls)
  | .vaNot _ _ f => plain (vecE (eNot f) ls)
  | .vaSll _ _ f => plain (vecE (eSll f) ls)
  | .vaSrl _ _ f => plain (vecE (eSrl f) ls)
  | .vaSra _ _ f => plain (vecE (eSra f) ls)
  | .vaMulhi _ _ f => plain (vecE (eMulhi f) ls)
  | .vaSel _ _ f => plain (vecE (eSel f) ls)
  | .vaCeq _ _ f => plain (vecE (eCeq f) ls)
  | .vaCne _ _ f => plain (vecE (eCne f) ls)
  | .vaClt _ _ f => plain (vecE (eClt f) ls)
  | .vaCle _ _ f => plain (vecE (eCle f) ls)
  | .vaCun _ _ f => plain (vecE (eCun f) ls)
  | .vaKand _ _ f => plain (vecE (eKand f) ls)
  | .vaKor _ _ f => plain (vecE (eKor f) ls)
  | .vaKxor _ _ f => plain (vecE (eKxor f) ls)
  | .vaKandn _ _ f => plain (vecE (eKandn f) ls)
  | .vaKnot _ _ f => plain (vecE (eKnot f) ls)
  | .vaKcnt .. => plain (vecKcnt ls)
  | .vpRotr .. => plain (vRotr ls)
  | .vpBcr .. => plain (vBcr ls)
  | .vpRotc .. => plain (vRotc ls)
  | .vpBcc .. => plain (vBcc ls)
  | .vpTrn16 .. => plain (vTrn16 ls)
  | .vpShuf .. => plain (vShuf ls)
  | .vpSumr _ f => plain (reduceRows (sumList f 6) ls)
  | .vpSumc _ f => plain (reduceCols (sumList f 4) ls)
  | .vpMaxr _ f => plain (reduceRows (pickList eMax f) ls)
  | .vpMaxc _ f => plain (reduceCols (pickList eMax f) ls)
  | .vpMinr _ f => plain (reduceRows (pickList eMin f) ls)
  | .vpMinc _ f => plain (reduceCols (pickList eMin f) ls)
  | .sfExp2 _ f => plain (vecSf .exp2 f ls)
  | .sfLog2 _ f => plain (vecSf .log2 f ls)
  | .sfRcp _ f => plain (vecSf .rcp f ls)
  | .sfRsqrt _ f => plain (vecSf .rsqrt f ls)
  | .sfSqrt _ f => plain (vecSf .sqrt f ls)
  | .sfTanh _ f => plain (vecSf .tanh f ls)
  | .sfSin _ f => plain (vecSf .sin f ls)
  | .sfCos _ f => plain (vecSf .cos f ls)
  | .sfErf _ f => plain (vecSf .erf f ls)
  | .cvDn _ t r o => vecDown t r o ls
  | .cvUp _ t => plain (vecUp t .rne ls)
  | .cvUpRounding _ t r => plain (vecUp t r ls)
  | .wcSig _ => plain (Vec.splat (sigAfter i sig ls), 0)
  | .wcSigclr _ => plain (Vec.splat (sigAfter i sig ls), 0)
  | .wcCmp _ => plain (Vec.splat (onesIf (sig != (ls.getD 0 []).at_ 0 0)), 0)
  | .apRd _ => plain (ls.getD 2 [], 0)
  | _ => ([], 0, false)

/-- The exception record of a unit (R200): none for wc; ap records in EXC.MX. -/
def excOf : VUnit → Option Nat
  | .va0 => some 0x013 | .va1 => some 0x014 | .vp => some 0x015 | .sf => some 0x016 | .cv => some 0x017 | .wc => none | .ap => some 0x012

/-- Whether an accumulator tile may be used now (R225, R259): the cause that stops the operation at its landing. -/
def Core.tileCheck (c : Core) (n : Nat) : Option Nat :=
  if 24 ≤ n then some 0x97
  else if c.handler && !bitN (c.rsr 0x104).toNat n then some 0x98 else none

/-- The stop that a landing vector operation raises (R195, R225). -/
def vecStop (c : Core) (i : Instr) (o : Op) : Option Nat :=
  match i with
  | .apRd _ | .apWr _ | .apAcc _ => c.tileCheck (apTile (o.vs.getD 1 []))
  | .cvDn .. => if (vecVal i o.vs 0).2.2 then some 0x90 else none
  | _ => none

/-- ap acc: each element of the chunk takes the sum, with the flags (R223). -/
def accChunk (old add : Vec) (int : Bool) : Vec × Nat :=
  let rs := List.zipWith (fun a b => if int then addI32 (a, 0) (b, 0) else addF32 a b) old.list add.list
  (Vec.ofList (rs.map (·.1)), rs.foldl (fun fl r => fl ||| r.2) 0)

/-- A mismatching cmp lands (R222): MIS, ADDR and V; whether MIS was clear before. -/
def Core.mismatch (c : Core) (addr : Nat) : Core × Bool :=
  let old := c.rsr 0x019
  (c.wsr 0x019 (excAfter old 1 addr), !bitN old.toNat 0)

/-- A vector operation lands (R206, R208, R221 to R224): its unit's result latch and exception record; the answer tells whether
a witness report is due. -/
def Core.landVec (c : Core) (i : Instr) (u : VUnit) (o : Op) : Core × Bool :=
  let sig : Elem := (o.ws.getD 0 0).setWidth 32
  let (y, fl, _) := vecVal i o.vs sig
  let exc (c : Core) (fl : Nat) : Core := match excOf u with | some k => c.raise k fl o.addr | none => c
  match i with
  | .apWr _ => ({ c with acc := chunkWrite c.acc (apTile (o.vs.getD 1 [])) (apChunk (o.vs.getD 1 [])) (o.vs.getD 0 []) }, false)
  | .apAcc _ =>
    let n := apTile (o.vs.getD 1 [])
    let q := apChunk (o.vs.getD 1 [])
    let (v, fl) := accChunk (chunkRead c.acc n q) (o.vs.getD 0 []) (apInt (o.vs.getD 1 []))
    (exc { c with acc := chunkWrite c.acc n q v } fl, false)
  | .wcCmp _ =>
    let c := c.wDest o.dspace o.dest y
    if sig = (o.vs.getD 0 []).at_ 0 0 then (c, false) else c.mismatch o.addr
  | .wcSig _ => ((c.wDest o.dspace o.dest y).wsr 0x018 ((sigAfter i sig o.vs).setWidth 64), false)
  | .wcSigclr _ => ((c.wDest o.dspace o.dest y).wsr 0x018 ((sigAfter i sig o.vs).setWidth 64), false)
  | _ => (exc (c.wDest o.dspace o.dest y) fl, false)

end Sys2Proof.Machine
end

