-- ==== Sys2Proof/Machine/Matrix.lean ====
section
/-! DEFINITION. The matrix array (R190, R191, R196, R197, R248 to R279): blocks and their elements, the beats, the checksum
lanes, dchk and what follows it, and the scale slot. -/
namespace Sys2Proof.Machine

open Sys2Proof

/-! ## Pairs and blocks (R250, R252) -/

/-- The k-width of a pair with plane field p. -/
def pairW (f : ArrFmt) (p : Nat) : Nat :=
  match f with
  | .e2m1 => 2 | .bs4b32 => 2 | .bs4b16 => 2
  | .npi => if p = 1 then 4 else if p < 4 then 2 else 1
  | _ => 1

/-- The class of a pair: 1 INT, 2 F16, 3 BF16, 4 F8, 5 F4, 6 BS8, 7 BS4, 8 NPI (R250, R439). -/
def pairClass : ArrFmt → Nat
  | .i8 => 1 | .f16 => 2 | .bf16 => 3 | .e4m3 => 4 | .e5m2 => 4 | .e2m1 => 5 | .bs8e4b32 => 6 | .bs8e5b32 => 6
  | .bs8e4b16 => 6 | .bs8e5b16 => 6 | .bs4b32 => 7 | .bs4b16 => 7 | .npi => 8

/-- The class is of i32 kind. -/
def intClass (c : Nat) : Bool := c == 1 || c == 8
/-- The class is of block pairs, whose scales are used (R261). -/
def blockClass (c : Nat) : Bool := c == 6 || c == 7

/-- The bits of an element that is packed at its own width. -/
def fmtBits : ArrFmt → Nat
  | .bf16 => 16 | .f16 => 16 | .e2m1 => 4 | .bs4b32 => 4 | .bs4b16 => 4 | _ => 8

/-- The values of a row of A and of a column of B. -/
def rowA (w : Nat) (sp : Bool) : Nat := if sp then 4 * w else w
def colB (w : Nat) (sp : Bool) : Nat := if sp then 2 * w else w

/-- The bytes of a block of n elements. -/
def blockLen (f : ArrFmt) (p n : Nat) : Nat :=
  match f with
  | .npi => (p + 1) * n / 8
  | f => n * fmtBits f / 8

/-- The bytes of the A block and of the B block of a beat. -/
def lenA (fa : ArrFmt) (p : Nat) (sp : Bool) : Nat := blockLen fa p (128 * rowA (pairW fa p) sp)
def lenB (fa fb : ArrFmt) (p : Nat) (sp : Bool) : Nat := blockLen fb p (128 * colB (pairW fa p) sp)

/-- Element i of a block of n elements (R183, R190, R191, R252). -/
def elemNum (f : ArrFmt) (p n : Nat) (b : Sparse Byte) (i : Nat) : Num :=
  let at_ (j : Nat) : Nat := (Sparse.get 0 b j).toNat
  match f with
  | .bf16 => bf16 (at_ (2 * i) + 256 * at_ (2 * i + 1))
  | .f16 => FFmt.f16.dec (at_ (2 * i) + 256 * at_ (2 * i + 1))
  | .e2m1 => FFmt.e2m1.dec (fldN (at_ (i / 2)) (4 * (i % 2)) 4)
  | .bs4b32 => FFmt.e2m1.dec (fldN (at_ (i / 2)) (4 * (i % 2)) 4)
  | .bs4b16 => FFmt.e2m1.dec (fldN (at_ (i / 2)) (4 * (i % 2)) 4)
  | .e4m3 => FFmt.e4m3.dec (at_ i)
  | .bs8e4b32 => FFmt.e4m3.dec (at_ i)
  | .bs8e4b16 => FFmt.e4m3.dec (at_ i)
  | .e5m2 => FFmt.e5m2.dec (at_ i)
  | .bs8e5b32 => FFmt.e5m2.dec (at_ i)
  | .bs8e5b16 => FFmt.e5m2.dec (at_ i)
  | .i8 => Num.ofInt (BitVec.ofNat 8 (at_ i)).toInt
  | .npi =>
    let x := (List.range (p + 1)).foldl (fun x t => x + fldN (at_ (t * (n / 8) + i / 8)) (i % 8) 1 * 2 ^ (7 - t)) 0
    Num.ofInt (planeValue (p + 1) x)

/-- The value of a block scale (R188). -/
def scaleNum (b : Byte) : Num := if b = 255 then .nan else .fin false 1 ((b.toNat : Int) - 127)

/-! ## Terms and sums (R185, R196) -/

/-- An exact product: a NaN operand gives NaN without IV. -/
def prodNum (xs : List Num) : Num × Nat :=
  if xs.any Num.isNan then (.nan, 0)
  else xs.foldl (fun r x => let (p, f) := Num.mul r.1 x; (p, r.2 ||| f)) (.fin false 1 0, 0)

/-- An exact sum of terms: a NaN operand gives NaN without IV; infinity times zero and infinities of both signs give NaN and
IV. -/
def sumNum (ts : List (Num × Nat)) : Num × Nat :=
  if ts.any (fun t => t.1.isNan && t.2 == 0) then (.nan, 0)
  else match ts with
  | [] => (.fin false 0 0, 0)
  | t :: r => r.foldl (fun a x => let (s, f) := Num.add a.1 x.1; (s, a.2 ||| x.2 ||| f)) t

/-- The magnitude of a term. -/
def absTerm (t : Num × Nat) : Num × Nat := (numAbs t.1, t.2)

namespace StageSlot

/-- The slot's k-width, row and column lengths. -/
def w (s : StageSlot) : Nat := pairW s.fa s.p

/-- Element kk of row i of A and of column j of B. -/
def elA (s : StageSlot) (i kk : Nat) : Num :=
  let n := rowA s.w s.sp
  elemNum s.fa s.p (128 * n) s.a (i * n + kk)
def elB (s : StageSlot) (j kk : Nat) : Num :=
  let n := colB s.w s.sp
  elemNum s.fb s.p (128 * n) s.b (j * n + kk)

/-- idx(j, g, m): the place within group g of column j's live value m (R262). -/
def index (s : StageSlot) (j g m : Nat) : Nat := fldN (Sparse.get 0 s.idx (64 * g + j / 2)).toNat (4 * (j % 2) + 2 * m) 2

/-- The terms of cell (i, j) (R256). -/
def terms (s : StageSlot) (i j : Nat) : List (Num × Nat) :=
  let sc := if blockClass (pairClass s.fa) then [scaleNum (Sparse.get 0x7F s.sa i), scaleNum (Sparse.get 0x7F s.sb j)] else []
  if s.sp then
    (List.range (2 * s.w)).map fun q => prodNum ([s.elA i (4 * (q / 2) + s.index j (q / 2) (q % 2)), s.elB j q] ++ sc)
  else (List.range s.w).map fun kk => prodNum ([s.elA i kk, s.elB j kk] ++ sc)

end StageSlot

/-! ## An accumulating beat (R196, R197, R256, R264, R279) -/

/-- The integer of an integer term. -/
def Num.int : Num → Int
  | .fin n m e => signedAt n m e 0
  | _ => 0

/-- Elements 0 to n - 1 of a map, with the flags of all. -/
def buildElems (n : Nat) (f : Nat → Elem × Nat) : Sparse Elem × Nat :=
  let rs := (List.range n).map f
  (Vec.ofListFrom 0 (rs.map (·.1)), rs.foldl (fun fl r => fl ||| r.2) 0)

/-- One rounding of an element plus terms, in f32; or their sum modulo 2^32 with IW on a wrap. -/
def addTerms (int : Bool) (e : Elem) (ts : List (Num × Nat)) : Elem × Nat :=
  if int then
    let r := e.toInt + (ts.map fun t => t.1.int).sum
    (BitVec.ofInt 32 r, flagIf (decide (r < -2147483648 ∨ 2147483647 < r)) Flag.IW)
  else
    let (x, f) := sumNum ((f32 e, 0) :: ts)
    let (r, g) := toF32 x
    (r, f ||| g)

/-- P and the lanes after a beat on a slot, with the flags of the cells. -/
def MxState.beat (m : MxState) (s : StageSlot) : MxState × Nat :=
  let int := intClass (pairClass s.fa)
  let (p, fl) := buildElems 16384 fun k => addTerms int (Sparse.get 0 m.p k) (s.terms (k / 128) (k % 128))
  let row (i : Nat) : List (Num × Nat) := (List.range 128).flatMap fun j => s.terms i j
  let col (j : Nat) : List (Num × Nat) := (List.range 128).flatMap fun i => s.terms i j
  let lane (old : Sparse Elem) (ts : Nat → List (Num × Nat)) : Sparse Elem :=
    (buildElems 128 fun i => addTerms int (Sparse.get 0 old i) (ts i)).1
  ({ m with p := p, rc := lane m.rc row, cc := lane m.cc col
            mr := if int then m.mr else lane m.mr fun i => (row i).map absTerm
            mc := if int then m.mc else lane m.mc fun j => (col j).map absTerm
            beats := m.beats + 1 }, fl)

/-- The registers of the array (R280). -/
def rMSTAT : Nat := 0x0C1
def rPSTART : Nat := 0x0C2
def rFAILADDR : Nat := 0x0C3
def rRETRY : Nat := 0x0C4
def rSMAP : Nat := 0x0C5
def rSEG : Nat := 0x0C6
def rCKINJ : Nat := 0x0C7
def rEXCMX : Nat := 0x012

/-- The bit flip that CKINJ arms for the beat that has just been counted (R279). -/
def Core.inject (c : Core) : Core :=
  let k := c.rsr rCKINJ
  if bitN k.toNat 63 && decide (getF k 24 16 = c.mx.beats) then
    let key := 128 * getF k 0 7 + getF k 8 7
    let c := c.wsr rCKINJ (setF k 63 1 0)
    { c with mx := { c.mx with p := Sparse.set 0 c.mx.p key (Sparse.get 0 c.mx.p key ^^^ ((1 : Elem) <<< getF k 16 5)) } }
  else c

/-- An accumulation lands. -/
def Core.landBeat (c : Core) (s : StageSlot) (addr : Nat) : Core :=
  let (m, fl) := c.mx.beat s
  ({ c with mx := m }.inject).raise rEXCMX fl addr

/-! ## Slots -/

def Core.slot (c : Core) (n : Nat) : StageSlot := c.mx.slots.getD n {}
def Core.setSlot (c : Core) (n : Nat) (s : StageSlot) : Core :=
  { c with mx := { c.mx with slots := (List.range 4).map fun i => if i = n then s else c.slot i } }

/-- A pushed image lands in a slot (R255). -/
def Core.landPush (c : Core) (n : Nat) (q : StageSlot) : Core :=
  c.setSlot n { c.slot n with a := q.a, b := q.b, fa := q.fa, fb := q.fb, p := q.p, sp := q.sp, seg := q.seg }

/-- A byte of row r of a block whose rows are rb bytes long; beyond the row it is 0. -/
def rowByte (rb : Nat) (d : Sparse Byte) (r k : Nat) : Byte := if k < rb then Sparse.get 0 d (r * rb + k) else 0
/-- A bit of element e of row r in a plane of a block of `planes` planes; beyond the row or the planes it is 0. -/
def rowBit (planes rowLen : Nat) (d : Sparse Byte) (plane r e : Nat) : Nat :=
  let k := r * rowLen + e
  if e < rowLen ∧ plane < planes then fldN (Sparse.get 0 d (plane * (128 * rowLen / 8) + k / 8)).toNat (k % 8) 1 else 0

/-- The A block of a slot x after a shift by n: row i is row i + n of x's, and past its last row i + n - 128 of y's, as y recorded its own
rows (R257). Where the two recorded rows of another length or of another number of planes, what y's row lacks is 0 and what x's row has no
place for is lost (log entry 31). -/
def shiftBlock (n : Nat) (x y : StageSlot) : Sparse Byte :=
  let rx := rowA (pairW x.fa x.p) x.sp
  let ry := rowA (pairW y.fa y.p) y.sp
  match x.fa with
  | .npi =>
    let tot := 128 * rx
    Sparse.ofFn 0 (blockLen .npi x.p tot) fun k =>
      let plane := k / (tot / 8)
      BitVec.ofNat 8 ((List.range 8).foldl (fun b t =>
        let e := k % (tot / 8) * 8 + t
        let r := e / rx + n
        b + (if r < 128 then rowBit (x.p + 1) rx x.a plane r (e % rx) else rowBit (y.p + 1) ry y.a plane (r - 128) (e % rx)) * 2 ^ t) 0)
  | f =>
    let bx := rx * fmtBits f / 8
    let by_ := ry * fmtBits f / 8
    Sparse.ofFn 0 (128 * bx) fun k =>
      let r := k / bx + n
      if r < 128 then rowByte bx x.a r (k % bx) else rowByte by_ y.a (r - 128) (k % bx)

/-- A shift lands: the A block and scales of its slot (R257). -/
def Core.landShift (c : Core) (s n : Nat) (x y : StageSlot) : Core :=
  c.setSlot s { c.slot s with
    a := shiftBlock n x y
    sa := Sparse.ofFn 0x7F 128 fun i => if i + n < 128 then Sparse.get 0x7F x.sa (i + n) else Sparse.get 0x7F y.sa (i + n - 128) }

/-! ## dchk (R266, R267, R270) -/

/-- An element is finite. -/
def finite (e : Elem) : Bool := decide (e.toNat / 2 ^ 23 % 256 ≠ 255)
/-- A finite element in units of 2^-149. -/
def fixed149 (e : Elem) : Int := match f32 e with | .fin n m x => signedAt n m x (-149) | _ => 0

/-- One line of dchk: whether it fails, whether a value was not finite, and the difference. cls is CLS and tol its tolerance
register. -/
def dchkLine (cls : Nat) (tol : Word) (vals : List Elem) (lane mag : Elem) : Bool × Bool × Elem :=
  if intClass cls then
    let d : Elem := BitVec.ofInt 32 ((vals.map BitVec.toInt).sum - lane.toInt)
    (if cls = 8 then decide (getF tol 32 32 < d.toInt.natAbs) else d != 0, false, d)
  else if !(vals.all finite && finite lane && finite mag) then (true, true, 0x7FC00000)
  else
    let d := (vals.map fixed149).sum - fixed149 lane
    let fl : Elem := BitVec.ofNat 32 (getF tol 32 31)
    let tau := getF tol 0 6
    let fail := if cls = 0 then decide (d ≠ 0)
      else if decide (0x7F800000 < fl.toNat) then true
      else if fl = 0x7F800000 then false
      else decide (fixed149 mag + fixed149 fl * 2 ^ tau < (d.natAbs : Int) * 2 ^ tau)
    (fail, false, (toF32 (.fin (decide (d < 0)) d.natAbs (-149))).1)

/-- The bitmap of 32 flags from i on. -/
def flagElem (fs : List Bool) (i : Nat) : Elem :=
  BitVec.ofNat 32 ((List.range 32).foldl (fun a b => if fs.getD (32 * i + b) false then a + 2 ^ b else a) 0)

/-- MSTAT as a dchk sets it over its old value (R266, R267): ACCEPT and SUPP are kept. -/
def mstatDchk (old : Word) (rf cf : List Bool) (nf : Bool) : Word :=
  let low (fs : List Bool) : Nat := match fs.findIdx? (·) with | some i => i | none => 0
  let fail := rf.any (·) || cf.any (·)
  (old &&& ((8 : Word) ||| maskHL 47 40)) |||
    BitVec.ofNat 64 (1 + 2 * b2n fail + 4 * b2n nf + rf.countP (·) * 2 ^ 8 + cf.countP (·) * 2 ^ 16 + low rf * 2 ^ 24 + low cf * 2 ^ 32)

/-- The outcome of a dchk as its vector image (R270, R439). -/
def Core.dchkImage (c : Core) : Vec :=
  let m := c.mx
  let tol := if m.cls = 0 then 0 else c.rsr (0x0C7 + m.cls)
  let e (x : Sparse Elem) (i : Nat) : Elem := Sparse.get 0 x i
  let rows := (List.range 128).map fun i =>
    dchkLine m.cls tol ((List.range 128).map fun j => e m.p (128 * i + j)) (e m.rc i) (e m.mr i)
  let cols := (List.range 128).map fun j =>
    dchkLine m.cls tol ((List.range 128).map fun i => e m.p (128 * i + j)) (e m.cc j) (e m.mc j)
  let rf := rows.map (·.1)
  let cf := cols.map (·.1)
  let nf := rows.any (·.2.1) || cols.any (·.2.1)
  let ms := mstatDchk (c.rsr rMSTAT) rf cf nf
  let head : List Elem := (List.range 4).map (flagElem rf) ++ (List.range 4).map (flagElem cf) ++
    [BitVec.ofNat 32 (rf.countP (·)), BitVec.ofNat 32 (cf.countP (·)), ms.setWidth 32, BitVec.ofNat 32 (ms.toNat / 2 ^ 32)
    , BitVec.ofNat 32 (getF (c.rsr 0x0C0) 0 1)]
  Vec.ofList (head ++ List.replicate 51 0 ++ rows.map (·.2.2) ++ cols.map (·.2.2) ++ (List.range 128).map (e m.mr) ++
    (List.range 128).map (e m.mc))

/-- The outcome of an image is a failure. -/
def imageFails (v : Vec) : Bool := bitN (Sparse.get 0 v 10).toNat 1

/-- A dchk lands (R266): the syndrome, MSTAT and MX.FAILADDR. -/
def Core.landDchk (c : Core) (v : Vec) (addr : Nat) : Core :=
  let img : Word := ((Sparse.get 0 v 10).setWidth 64) ||| ((Sparse.get 0 v 11).setWidth 64 <<< 32)
  let keep : Word := (8 : Word) ||| maskHL 47 40
  let ms := (c.rsr rMSTAT &&& keep) ||| (img &&& ~~~keep &&& ~~~(16 : Word))
  let v := Sparse.set 0 (Sparse.set 0 v 10 (ms.setWidth 32)) 11 (BitVec.ofNat 32 (ms.toNat / 2 ^ 32))
  let c := { (c.wsr rMSTAT ms) with mx := { c.mx with syn := v } }
  if imageFails v then c.wsr rFAILADDR (BitVec.ofNat 64 (codeAddr addr)) else c

/-! ## drain (R259, R268) -/

/-- The eight rows of a group of P. -/
def rowsOf (p : Sparse Elem) (g : Nat) : Vec :=
  p.filterMap fun e => if 1024 * g ≤ e.1 ∧ e.1 < 1024 * g + 1024 then some (e.1 - 1024 * g, e.2) else none

/-- The elements of a drained group over the tile's old ones; cls is the class read at issue. -/
def drainElem (add : Bool) (cls : Nat) (old new : Elem) : Elem × Nat :=
  if !add then (new, 0)
  else if cls = 0 then (old, 0)
  else if intClass cls then addI32 (old, 0) (new, 0)
  else addF32 old new

/-- A drain lands. -/
def Core.landDrain (c : Core) (tile grp : Nat) (add final : Bool) (o : Op) : Core :=
  let ms := c.rsr rMSTAT
  let c :=
    if bitN ms.toNat 1 then c.wsr rMSTAT (setF ms 40 8 (min 255 (getF ms 40 8 + 1)))
    else
      let base := tile * 16384 + 1024 * grp
      let v := o.vs.getD 0 []
      let rs : List (Elem × Nat) := (List.range 1024).map fun k => drainElem add o.gst (Sparse.get 0 c.acc (base + k)) (Sparse.get 0 v k)
      Core.raise { c with acc := ((List.range 1024).zip rs).foldl (fun m e => Sparse.set 0 m (base + e.1) e.2.1) c.acc } rEXCMX
        (rs.foldl (fun fl r => fl ||| r.2) 0) o.addr
  if final then c.wsr rPSTART (setF (c.rsr rPSTART) 0 1 0) else c

/-! ## Issue (R251 to R263, R278, R281) -/

def cACC_DENIED : Nat := 0x98
def cFORMAT_MIX : Nat := 0x99
def cSPARSE : Nat := 0x9A
def cCHECKSUM : Nat := 0x8F

/-- The first cause of a list of checks. -/
def firstCause (cs : List (Option Nat)) : Option Nat := cs.findSome? id

/-- The array may not be used by this handler (R278). -/
def Core.arrayDenied (c : Core) : Option Nat := if c.handler && !c.mx.claim then some cACC_DENIED else none

/-- The checks of an array access of n bytes at an address with alignment al (R253, R261, R262). -/
def blockCheck (al a n : Nat) : Option Nat :=
  if a % al ≠ 0 then some cMISALIGN
  else if 0x400000 < a + n then some cSPM_RANGE
  else if a / 2 ^ 20 ≠ (a + n - 1) / 2 ^ 20 then some cMISALIGN
  else none

/-- n bytes of the scratchpad. -/
def Core.spmBytes (c : Core) (a n : Nat) : Sparse Byte :=
  c.spm.filterMap fun e => if a ≤ e.1 ∧ e.1 < a + n then some (e.1 - a, e.2) else none

/-- The array reads ranges of the scratchpad: SECDED verifies them (R79). The cause where a word is uncorrectable. Log entry 84. -/
def State.spmVerify (st : State) (c : Nat) (ps : List (Nat × Nat)) : Option Nat × State :=
  let r := st.arrayRead c 0 ps
  (if r.1 then none else some cDATA_ABORT, r.2)

/-- An mx or sc operation issues: it lands n cycles later, or is stopped at its issue with a cause. -/
def Core.pushMx (c : Core) (u : Cur) (i : Instr) (n : Nat) (cause : Option Nat) (f : Op → Op) : Core :=
  c.push u i n fun o => match cause with
    | some k => { f o with fault := true, cause := k }
    | none => f o

/-- A read port of the bank group of an address, for n cycles (R254). -/
def Core.reserve (c : Core) (slot a n : Nat) : Core := { c with ports := c.ports ++ [(portOf (a / 2 ^ 20 % 4) false, c.sched + n, slot)] }

/-- The segment state after a sparse push of k-width w: the slot's segment is the old SEG; none where it mismatches (R262). -/
def Core.segPush (c : Core) (w : Nat) : Option Core :=
  let r := c.rsr rSEG
  let seg := getF r 0 6
  let grp := getF r 6 3
  if bitN r.toNat 9 || grp % w != 0 then none
  else if grp + w < 8 then some (c.wsr rSEG (setF r 6 3 (grp + w)))
  else
    let m := c.rsr rSMAP
    match ((List.range 64).find? fun b => decide (seg < b) && m.getLsbD b) with
    | some b => some (c.wsr rSEG (setF (setF r 6 3 0) 0 6 b))
    | none => some (c.wsr rSEG (setF (setF r 6 3 0) 9 1 1))

/-- The image of the blocks a push reads. -/
def Core.readBlocks (c : Core) (aa bb : Nat) (fa fb : ArrFmt) (p : Nat) (sp : Bool) (seg : Nat) : StageSlot :=
  { a := c.spmBytes aa (lenA fa p sp), b := c.spmBytes bb (lenB fa fb p sp), fa := fa, fb := fb, p := p, sp := sp, seg := seg }

/-- The image of a push stopped at its own issue: the addresses in bytes 0 to 7 (R439). -/
def ownImage (aa bb : Nat) : StageSlot := { a := Sparse.setBytes [] 0 (bytesLE 4 aa ++ bytesLE 4 bb), width := 0 }

/-- The block checks of a push (R253). -/
def pushCheck (aa bb : Nat) (fa fb : ArrFmt) (p : Nat) (sp : Bool) : Option Nat :=
  firstCause [blockCheck 128 aa (lenA fa p sp), blockCheck 128 bb (lenB fa fb p sp)]

/-- What a push does at its issue once its blocks are at known addresses: the image, the segment state, and the cause. -/
def Core.pushBlocks (c : Core) (aa bb : Nat) (fa fb : ArrFmt) (p : Nat) (sp : Bool) (other : Option Nat) :
    Core × StageSlot × Option Nat :=
  match firstCause [c.arrayDenied, pushCheck aa bb fa fb p sp, other] with
  | some k => (c, ownImage aa bb, some k)
  | none =>
    let seg := if sp then getF (c.rsr rSEG) 0 6 else 0
    if !sp then (c, c.readBlocks aa bb fa fb p sp seg, none)
    else match c.segPush (pairW fa p) with
      | none => (c, ownImage aa bb, some cSPARSE)
      | some d => (d, c.readBlocks aa bb fa fb p sp seg, none)

/-- The two uses of a push's generators, in the order ga, gb (R238). -/
def Core.twoAg (c : Core) (ga gb : Nat) : Core × Nat × Nat :=
  let aa := (c.ag ga).toNat
  let c := c.agStep ga
  let bb := (c.ag gb).toNat
  (c.agStep gb, aa, bb)

/-- Reserve the ports of a push (R254). -/
def Core.pushPorts (c : Core) (aa bb : Nat) (fa fb : ArrFmt) (p : Nat) (sp : Bool) : Core :=
  (c.reserve 3 aa ((lenA fa p sp + 511) / 512)).reserve 3 bb ((lenB fa fb p sp + 511) / 512)

/-- The reservation of a push's record (R153). -/
def pushResv (sched : Nat) (fa fb : ArrFmt) (p : Nat) (sp : Bool) : Nat :=
  sched + max ((lenA fa p sp + 511) / 512) ((lenB fa fb p sp + 511) / 512)

/-- R255: push. -/
def execPush (s ga gb : BitVec 2) (fa fb : ArrFmt) (p : BitVec 3) (sp : Bool) (st : State) : Out :=
  onCore st fun st =>
    let (_, aa, bb) := st.me.twoAg ga.toNat gb.toNat
    let (bad, st) := st.spmVerify st.cur.core [(aa, lenA fa p.toNat sp), (bb, lenB fa fb p.toNat sp)]
    st.modMe fun c =>
    let (c, aa, bb) := c.twoAg ga.toNat gb.toNat
    let c := c.pushPorts aa bb fa fb p.toNat sp
    let (c, q, k) := c.pushBlocks aa bb fa fb p.toNat sp bad
    c.pushMx st.cur (.push s ga gb fa fb p sp) 4 k fun o =>
      { o with ws := [BitVec.ofNat 64 aa, BitVec.ofNat 64 bb], imgs := [q], resvEnd := pushResv c.sched fa fb p.toNat sp }

/-- The class and slot checks of an accumulating beat (R251, R263). -/
def Core.accCheck (c : Core) (s : StageSlot) (fa fb : ArrFmt) (p : Nat) (sp : Bool) : Option Nat :=
  firstCause
    [ if s.fa = fa ∧ s.fb = fb ∧ s.sp = sp then none else some cFORMAT_MIX
    , if c.mx.cls = 0 ∨ c.mx.cls = pairClass fa then none else some cFORMAT_MIX
    , if sp && (s.tag != s.seg || s.width != pairW fa p) then some cSPARSE else none ]

/-- The first accumulating beat sets CLS (R251). -/
def Core.setCls (c : Core) (fa : ArrFmt) : Core :=
  if c.mx.cls = 0 then { c with mx := { c.mx with cls := pairClass fa } } else c

/-- R256: acc. -/
def execAcc (s : BitVec 2) (fa fb : ArrFmt) (p : BitVec 3) (sp : Bool) (st : State) : Out :=
  onCore st fun st => st.modMe fun c =>
    let q := c.slot s.toNat
    let k := firstCause [c.arrayDenied, c.accCheck q fa fb p.toNat sp]
    let c := if k.isNone then c.setCls fa else c
    c.pushMx st.cur (.acc s fa fb p sp) 2 k fun o => { o with imgs := [q] }

/-- R256: accp; its accumulation lands at t + 2 and its push at t + 4. -/
def execAccp (s ga gb : BitVec 2) (fa fb : ArrFmt) (p : BitVec 3) (sp : Bool) (t : BitVec 2) (st : State) : Out :=
  onCore st fun st =>
    let (_, aa, bb) := st.me.twoAg ga.toNat gb.toNat
    let (bad, st) := st.spmVerify st.cur.core [(aa, lenA fa p.toNat sp), (bb, lenB fa fb p.toNat sp)]
    st.modMe fun c =>
    let (c, aa, bb) := c.twoAg ga.toNat gb.toNat
    let c := c.pushPorts aa bb fa fb p.toNat sp
    let q := c.slot s.toNat
    let (c, r, k) := c.pushBlocks aa bb fa fb p.toNat sp (firstCause [c.accCheck q fa fb p.toNat sp, bad])
    let c := if k.isNone then c.setCls fa else c
    c.pushMx st.cur (.accp s ga gb fa fb p sp t) 4 k fun o =>
      { o with ws := [BitVec.ofNat 64 aa, BitVec.ofNat 64 bb], imgs := [if k.isNone then q else { width := 0 }, r]
               resvEnd := pushResv c.sched fa fb p.toNat sp }

/-- The slots of a shift record the same pair (R251). -/
def samePair (x y : StageSlot) : Bool := x.fa == y.fa && x.fb == y.fb

/-- R257: shift. -/
def execShift (s : BitVec 2) (n : BitVec 3) (st : State) : Out :=
  onCore st fun st => st.modMe fun c =>
    let x := c.slot s.toNat
    let y := c.slot ((s.toNat + 1) % 4)
    let k := firstCause [c.arrayDenied, if samePair x y then none else some cFORMAT_MIX]
    c.pushMx st.cur (.shift s n) 2 k fun o => { o with imgs := [x, y] }

/-- The snapshots that a clear takes (R273). -/
def Core.snapshot (c : Core) : Core :=
  { c with mx := { c.mx with cls := 0, snapAg := (List.range 16).map fun k => c.rsr (0x30 + k)
                             snapLoop := (List.range 12).map fun k => c.rsr (0x20 + 4 * (k / 3) + k % 3) } }

/-- R258: clear; CLS and the snapshots at its issue, the rest at t + 2. -/
def execClear (st : State) : Out :=
  onCore st fun st => st.modMe fun c =>
    let k := c.arrayDenied
    let c := if k.isNone then c.snapshot else c
    c.pushMx st.cur .clear 2 k id

/-- R266: dchk; its outcome is formed at its issue. -/
def execDchk (st : State) : Out :=
  onCore st fun st => st.modMe fun c => c.pushMx st.cur .dchk 12 c.arrayDenied fun o => { o with vs := [c.dchkImage] }

/-- R259: drain; the rows and the kind are read at its issue. -/
def execDrain (tile : BitVec 5) (grp : BitVec 4) (add final : Bool) (st : State) : Out :=
  onCore st fun st => st.modMe fun c =>
    c.pushMx st.cur (.drain tile grp add final) 6 c.arrayDenied fun o => { o with vs := [rowsOf c.mx.p grp.toNat], gst := c.mx.cls }

/-- The vd image of mloc: the syndrome without the elements that only a dchk's image has (R270, R439). -/
def mlocImage (v : Vec) : Vec := v.filter fun e => e.1 < 10 || 12 < e.1

/-- R270: mloc. -/
def execMloc (vd : BitVec 8) (st : State) : Out :=
  onCore st fun st => st.modMe fun c =>
    c.pushMx st.cur (.mloc vd) 4 none fun o => { o with vs := [mlocImage c.mx.syn], dest := vd.toNat }

/-- The corrected cell of mfix and its flags (R271). -/
def Core.mfixVal (c : Core) (i j : Nat) : Elem × Nat :=
  let x := Sparse.get 0 c.mx.p (128 * i + j)
  let d := Sparse.get 0 c.mx.syn (64 + i)
  if intClass c.mx.cls then
    let r := x.toInt - d.toInt
    (BitVec.ofInt 32 r, flagIf (decide (r < -2147483648 ∨ 2147483647 < r)) Flag.IW)
  else
    let (y, f) := Num.add (f32 x) (f32 d).negate
    let (w, g) := toF32 y
    (w, f ||| g)

/-- R271: mfix. -/
def execMfix (i j : BitVec 7) (st : State) : Out :=
  onCore st fun st => st.modMe fun c =>
    let v := c.mfixVal i.toNat j.toNat
    c.pushMx st.cur (.mfix i j) 2 none fun o => { o with ws := [v.1.setWidth 64], gst := v.2 }

/-- R272: mpass. -/
def execMpass (st : State) : Out := onCore st fun st => st.modMe fun c => c.pushMx st.cur .mpass 2 none id

/-- The start of a replay (R276). -/
def Core.startReplay (c : Core) : Core :=
  { c with mretry := some { pc := codeAddr (c.rsr rPSTART).toNat, cyc := 0, next := 0, ag := c.mx.snapAg, lp := c.mx.snapLoop
                            pipe := [], last := false } }

/-- R275: mretry; in a handler the replay waits for its RESUME. -/
def execMretry (st : State) : Out :=
  onCore st fun st => guardLevel .mretry st fun st => st.modMe fun c =>
    if bitN (c.rsr rMSTAT).toNat 1 && bitN (c.rsr rPSTART).toNat 0 then
      let r := c.rsr rRETRY
      let r := setF r 0 8 (min 255 (getF r 0 8 + 1))
      if c.handler then c.wsr rRETRY (setF r 8 1 1) else (c.wsr rRETRY r).startReplay
    else c

/-- R277: mclaim; it freezes the core until the array's operations have landed, then saves and resets the array. -/
def execMclaim (st : State) : Out :=
  onCore st fun st => guardLevel .mclaim st fun st => st.modMe fun c =>
    if c.mx.claim then c else c.pushMx st.cur .mclaim 0 none (fun o => { o with phase := .fly })

/-- R277: mrelease. -/
def execMrelease (st : State) : Out :=
  onCore st fun st => guardLevel .mrelease st fun st => st.modMe fun c =>
    if c.mx.claim then c.pushMx st.cur .mrelease 0 none (fun o => { o with phase := .fly }) else c

/-! ## The scale slot (R261, R262) -/

/-- The bytes that an sc operation reads and its alignment. -/
def scLen : Instr → Nat × Nat
  | .smap _ => (8, 8)
  | .sidx _ _ kw => (64 * 2 ^ kw.toNat + 64, 128)
  | _ => (128, 128)

/-- An sc operation reads through its generator at issue, or is stopped with the address it used. -/
def issueSc (i : Instr) (ag : BitVec 2) (st : State) : State :=
  let (bad, st) := st.spmVerify st.cur.core [((st.me.ag ag.toNat).toNat, (scLen i).1)]
  st.modMe fun c =>
    let a := (c.ag ag.toNat).toNat
    let c := (c.agStep ag.toNat).reserve 4 a 1
    let (n, al) := scLen i
    match firstCause [c.arrayDenied, blockCheck al a n, bad] with
    | some k => c.pushMx st.cur i 3 (some k) fun o => { o with bs := Sparse.setBytes [] 0 (bytesLE 8 a), bytes := n, resvEnd := c.sched + 1 }
    | none => c.pushMx st.cur i 3 none fun o => { o with bs := c.spmBytes a n, bytes := n, resvEnd := c.sched + 1 }

/-- R261: scla. -/
def execScla (s ag : BitVec 2) (st : State) : Out := onCore st (issueSc (.scla s ag) ag)
/-- R261: sclb. -/
def execSclb (s ag : BitVec 2) (st : State) : Out := onCore st (issueSc (.sclb s ag) ag)
/-- R262: smap. -/
def execSmap (ag : BitVec 2) (st : State) : Out := onCore st (issueSc (.smap ag) ag)
/-- R262: sidx. -/
def execSidx (s ag : BitVec 2) (kw : BitVec 2) (st : State) : Out := onCore st (issueSc (.sidx s ag kw) ag)

/-- The segment state that smap leaves: SEG of a zero word is not given (Config.segOfZero). -/
def segOf (w : Word) : Word :=
  match (List.range 64).find? w.getLsbD with
  | some b => BitVec.ofNat 64 b
  | none => (Config.segOfZero.setWidth 64) ||| 0x200

/-- An sc operation lands. -/
def Core.landSc (c : Core) (i : Instr) (o : Op) : Core :=
  let at_ (k : Nat) : Byte := Sparse.get 0 o.bs k
  match i with
  | .scla s _ => c.setSlot s.toNat { c.slot s.toNat with sa := Sparse.ofFn 0x7F 128 at_ }
  | .sclb s _ => c.setSlot s.toNat { c.slot s.toNat with sb := Sparse.ofFn 0x7F 128 at_ }
  | .smap _ =>
    let w : Word := BitVec.ofNat 64 (natLE ((List.range 8).map at_))
    (c.wsr rSMAP w).wsr rSEG (segOf w)
  | .sidx s _ kw =>
    let n := 64 * 2 ^ kw.toNat
    c.setSlot s.toNat { c.slot s.toNat with
      idx := Sparse.ofFn 0 n at_, tag := (at_ n).toNat + 256 * (at_ (n + 1)).toNat, width := 2 ^ kw.toNat }
  | _ => c

/-! ## Landing (R259 to R272) -/

/-- A clear lands (R258). -/
def Core.landClear (c : Core) (addr : Nat) : Core :=
  let m := c.mx
  let c := { c with mx := { m with p := [], rc := [], cc := [], mr := [], mc := [], syn := [], beats := 0 } }
  ((c.wsr rMSTAT 0).wsr rRETRY 0).wsr rPSTART (BitVec.ofNat 64 (codeAddr addr + 1))

/-- The stop that a drain raises at its landing (R259). -/
def mxStop (c : Core) (i : Instr) : Option Nat :=
  match i with
  | .drain tile _ _ _ => c.tileCheck tile.toNat
  | _ => none

/-- A failing dchk under CKMODE 0 stops the core when it lands (R269). -/
def dchkStops (i : Instr) (o : Op) : Bool :=
  match i with
  | .dchk => imageFails (o.vs.getD 0 []) && !bitN (Sparse.get 0 (o.vs.getD 0 []) 12).toNat 0
  | _ => false

/-- The accumulation of an accp lands. -/
def Core.landAccp (c : Core) (o : Op) : Core := c.landBeat (o.imgs.getD 0 {}) o.addr

/-- An mx operation lands; for accp its push. -/
def Core.landMx (c : Core) (i : Instr) (o : Op) : Core :=
  match i with
  | .push s .. => c.landPush s.toNat (o.imgs.getD 0 {})
  | .acc .. => c.landBeat (o.imgs.getD 0 {}) o.addr
  | .accp _ _ _ _ _ _ _ t => c.landPush t.toNat (o.imgs.getD 1 {})
  | .shift s n => c.landShift s.toNat n.toNat (o.imgs.getD 0 {}) (o.imgs.getD 1 {})
  | .clear => c.landClear o.addr
  | .dchk => c.landDchk (o.vs.getD 0 []) o.addr
  | .drain tile grp add final => c.landDrain tile.toNat grp.toNat add final o
  | .mloc vd => c.wv vd.toNat (o.vs.getD 0 [])
  | .mfix i j =>
    let c := { c with mx := { c.mx with p := Sparse.set 0 c.mx.p (128 * i.toNat + j.toNat) ((o.ws.getD 0 0).setWidth 32) } }
    (c.wsr rMSTAT (setF (c.rsr rMSTAT) 4 1 1)).raise rEXCMX o.gst o.addr
  | .mpass => c.wsr rMSTAT ((c.rsr rMSTAT &&& ~~~(2 : Word)) ||| 8)
  | _ => c

end Sys2Proof.Machine
end

