-- ==== Sys2Proof/Machine/Copy.lean ====
section
/-! DEFINITION. Copy channels and bulk copy engines (R121 to R148): the copy commands, tokens, delivery, completion, waits,
pauses, kills and suspension, chunks and budgets. -/
namespace Sys2Proof.Machine

open Sys2Proof

/-! ## Channels (R121 to R125) -/

def Core.chan (c : Core) (n : Nat) : List Cmd := (Sparse.get {} c.chans n).cmds
def Core.setChan (c : Core) (n : Nat) (q : List Cmd) : Core := { c with chans := Sparse.set {} c.chans n { cmds := q } }
/-- The command a channel executes. -/
def Core.head (c : Core) (n : Nat) : Option Cmd := (c.chan n).head?
/-- Replace the command a channel executes. -/
def Core.setHead (c : Core) (n : Nat) (q : Cmd) : Core := c.setChan n (q :: (c.chan n).drop 1)
def State.setHead (s : State) (c n : Nat) (q : Cmd) : State := s.modCore c fun k => k.setHead n q
def Core.token (c : Core) (n : Nat) : Token := Sparse.get {} c.tokens n
/-- Every command of a core. -/
def Core.allCmds (c : Core) : List Cmd := (List.range 16).flatMap c.chan
/-- The system registers of channel n. -/
def rCHSTAT (n : Nat) : Nat := 0x040 + n
def rCHRING (n : Nat) : Nat := 0x050 + n
def rCHWP (n : Nat) : Nat := 0x060 + n
def rCHSEQ (n : Nat) : Nat := 0x070 + n

/-- The command a token resolves to at issue (R133). -/
def Core.resolve (c : Core) (tk : Nat) : Option (Nat × Nat) :=
  let t := c.token tk
  if t.pend then some (t.ch, t.seq) else none

/-- Accesses of earlier bundles that have not performed (R131). -/
def Core.unperformed (c : Core) : List Nat :=
  (c.pipe.filter fun o => decide (o.id < c.bundleId) && (memForm (o.act.getD .done)).isSome && !o.performed).map (·.id)

/-- A copy command enters its channel (R121, R123, R127, R132, R133). -/
def issueCopy (kind nRegs : Nat) (m : CArgs) (s : State) : State :=
  s.modMe fun c =>
    let ch := m.ch.toNat
    let seq := (c.rsr (rCHSEQ ch)).toNat
    let deps := ([m.tk0, m.tk1, m.tk2].take m.nin.toNat).filterMap fun t => c.resolve t.toNat
    let q : Cmd :=
      { kind := kind, m := m, dst := c.rx m.d.toNat, src := c.rx m.s.toNat
        n := (upto m.n.toNat nRegs).map c.rx, stat := c.rsr (rCHSTAT ch), ring := c.rsr (rCHRING ch), seq := seq
        level := c.level, root := c.rsr 0x082, deps := deps, after := c.unperformed }
    let c := (c.setChan ch (c.chan ch ++ [q])).wsr (rCHSEQ ch) (BitVec.ofNat 64 (seq + 1))
    { c with tokens := Sparse.set {} c.tokens m.tko.toNat { pend := true, fail := false, ch := ch, seq := seq } }

/-- R128: cpy. -/
def execCpy (m : CArgs) (s : State) : Out := onCore s (issueCopy 0 1 m)
/-- R128: cpy2d. -/
def execCpy2d (m : CArgs) (s : State) : Out := onCore s (issueCopy 1 4 m)
/-- R128: cpyg. -/
def execCpyg (m : CArgs) (s : State) : Out := onCore s (issueCopy 2 3 m)

/-! ## The command's shape (R127, R128) -/

namespace Cmd
def reg (q : Cmd) (i : Nat) : Nat := (q.n.getD i 0).toNat
def bulk (q : Cmd) : Bool := bitN q.ring.toNat 0
def bunit (q : Cmd) : Nat := getF q.ring 58 2
def ch (q : Cmd) : Nat := q.m.ch.toNat
def total (q : Cmd) : Nat := match q.kind with | 0 => q.reg 0 | _ => q.reg 0 * q.reg 1
/-- The limits of R127. -/
def argsOk (q : Cmd) : Bool :=
  let small (w : Word) : Bool := decide (w.toInt.natAbs ≤ 2 ^ 40)
  match q.kind with
  | 0 =>
    let n := q.reg 0
    let d := q.dst.toNat
    let s := q.src.toNat
    decide (n < 2 ^ 40) && !(decide (q.m.dsp = q.m.ssp) && decide (d ≠ s) && decide (n ≠ 0) && decide (d < s + n) && decide (s < d + n))
  | 1 => decide (q.reg 0 < 2 ^ 32) && decide (q.reg 1 ≤ 2 ^ 24) && decide (q.reg 0 * q.reg 1 < 2 ^ 40) && small (q.n.getD 2 0)
      && small (q.n.getD 3 0)
  | _ => (List.range 13).any (fun i => q.reg 0 == 2 ^ i) && decide (q.reg 1 ≤ 65536) && decide (q.reg 2 % 4 = 0)
      && decide (q.reg 2 + 4 * q.reg 1 ≤ 0x400000)
/-- Bulk commands do not reach spm, grv or lane (R144). -/
def routeOk (q : Cmd) : Bool :=
  !q.bulk || ((q.m.dsp == .glb || q.m.dsp == .clr) && (q.m.ssp == .glb || q.m.ssp == .clr))
/-- The element of delivery position k, its offset in it and its length. -/
def place (q : Cmd) (k : Nat) : Nat × Nat × Nat :=
  match q.kind with
  | 0 => (0, k, q.reg 0)
  | _ => if q.reg 0 = 0 then (0, 0, 0) else (k / q.reg 0, k % q.reg 0, q.reg 0)
/-- Destination and source addresses of an offset of an element; idx is the element's table entry. -/
def addrs (q : Cmd) (e o idx : Nat) : Nat × Nat :=
  let w (x : Word) : Nat := x.toNat
  match q.kind with
  | 0 => (w (q.dst + BitVec.ofNat 64 o), w (q.src + BitVec.ofNat 64 o))
  | 1 => (w (q.dst + BitVec.ofNat 64 e * q.n.getD 3 0 + BitVec.ofNat 64 o), w (q.src + BitVec.ofNat 64 e * q.n.getD 2 0 + BitVec.ofNat 64 o))
  | _ => (w (q.dst + BitVec.ofNat 64 (e * q.reg 0 + o)), w (q.src + BitVec.ofNat 64 (idx * q.reg 0 + o)))
end Cmd

/-- Completion codes (R135). -/
def ccOK : Nat := 0
def ccABORT : Nat := 1
def ccCLR : Nat := 2
def ccABANDONED : Nat := 3
def ccDEP : Nat := 4
def ccARG : Nat := 5
def ccROUTE : Nat := 6
def ccKILLED : Nat := 7
def ccSPM : Nat := 8
def ccGRV : Nat := 9
def ccLANE : Nat := 10

/-- The context of a command's accesses. -/
def State.cmdCtx (s : State) (c : Nat) (q : Cmd) : Ctx :=
  { core := c, part := (s.core c).part, level := q.level, root := q.root, tag := getF ((s.core c).rsr 0x083) 0 4 }

/-! ## Bytes at their homes (R128, R139, R144, R145) -/

/-- Where some bytes of one sector lie, or a pause with its cause, or the code that ends the command. -/
inductive Spot
  | at_ (h : Home) (pa gpa : Nat)
  | own (lane : Bool) (a : Nat)
  | win (core : Nat) (a : Nat)
  | pause (cause : Nat)
  | stop (code : Nat)
deriving DecidableEq, Repr

/-- Find n bytes at an address of a space for a command. -/
def State.spot (s : State) (c : Nat) (q : Cmd) (sp : Space) (a n : Nat) (write : Bool) : Spot × State :=
  match sp with
  | .glb =>
    match s.route (s.cmdCtx c q) (if write then { w := true } else { r := true }) a with
    | (.error k, s) => (.pause k, s)
    | (.ok (h, pa, gp), s) => match h with
      | .main ca ms => if !q.bulk && decide (2 ^ 40 ≤ pa ∧ pa < 2 ^ 41) then (.stop ccROUTE, s) else (.at_ (.main ca ms) pa gp, s)
      | .host l ca => if q.bulk then (.at_ (.host l ca) pa gp, s) else (.stop ccROUTE, s)
      | .fabric k => if q.bulk && (s.fabricPort k).isSome then (.at_ (.fabric k) pa gp, s) else (.stop ccROUTE, s)
      | _ => (.stop ccROUTE, s)
  | .clr => match s.rangeCheck c .clr a n false with
    | some _ => (.stop ccCLR, s)
    | none => let (u, o) := s.clrHome (s.core c).part a; (.at_ (.clr u) o 0, s)
  | .spm => if 0x400000 < a + n then (.stop ccSPM, s) else (.own false a, s)
  | .lane => if 0x80000 < a + n then (.stop ccLANE, s) else (.own true a, s)
  | .grv => match s.rangeCheck c .grv a n false with
    | some _ => (.stop ccGRV, s)
    | none => (.win (s.grvCore c (a / 2 ^ 20)) (0x300000 + a % 2 ^ 20), s)

/-- No slot of the core uses a port in this wall cycle: the core is frozen, or no reservation reaches the schedule cycle that it has just
run (R130, R150); in a matrix replay its own reservations and cycle count (R276). -/
def Core.portFree (c : Core) (port : Nat) : Bool :=
  match c.mretry with
  | some r => !c.on || r.ports.all fun p => p.1 != port || decide (p.2.1 + 1 < r.cyc)
  | none => !c.on || c.freeze != 0 || c.ports.all fun p => p.1 != port || decide (p.2.1 < c.sched)
/-- A command may reach the bytes now: the port of its core's own spm or lane is free, or the window's remote port grants it (R130,
R157). -/
def State.spotOpen (s : State) (c : Nat) (p : Spot) (write : Bool) : Option State :=
  match p with
  | .own lane a => if (s.core c).portFree (portOf (if lane then 4 else a / 2 ^ 20 % 4) write) then some s else none
  | .win k _ => s.grantAt k (posOf c) write
  | _ => some s

/-- The request of a command: its engine verifies what it reads (R78, R85). -/
def Ctx.copyReq (cx : Ctx) : Req := { cx.req with unit := 7 }
/-- The command counts an access at an address: its granule is not the one it counted last, and it reaches memory (R86). -/
def State.counted (s : State) (last : Option Nat) (p : Spot) : Option Nat :=
  match p with
  | .at_ (.main _ ms) pa _ => if last != some (pa / 512) && (ms || !s.inL2 ms pa) then some (pa / 512) else last
  | _ => last
def Spot.fresh (last : Option Nat) (p : Spot) : Bool := match p with | .at_ _ pa _ => last != some (pa / 512) | _ => true

/-- The Rootlink port by which an access to a home leaves now (R410). -/
def State.portFor (s : State) (h : Home) : Option Nat := match h with | .fabric n => s.fabricPort n | _ => none

/-- Read the bytes; none is an uncorrectable datum, in whatever part of their sector, or an abort completion (R139). -/
def State.spotRead (s : State) (cx : Ctx) (p : Spot) (n : Nat) (fresh : Bool) (u : Upset) : Option (List Byte) × State :=
  match p with
  | .own lane a =>
    let r := s.arrayRead cx.core (if lane then 1 else 0) [(a / 32 * 32, 32)]
    let k := r.2.core cx.core
    (if r.1 then some (Sparse.bytes (if lane then k.lane else k.spm) a n) else none, r.2)
  | .win k a =>
    let r := s.arrayRead k 0 [(a / 32 * 32, 32)]
    (if r.1 then some (Sparse.bytes (r.2.core k).spm a n) else none, r.2)
  | .at_ (.main ca ms) pa _ => s.readMain cx.copyReq ca ms pa n fresh u
  | .at_ h pa gp => s.readPart cx .done { off := 0, len := n, home := h, at_ := pa, gpa := gp, due := 0, port := s.portFor h } true u
  | _ => (none, s)

/-- Write the bytes: whether it performed. -/
def State.spotWrite (s : State) (cx : Ctx) (p : Spot) (bs : List Byte) (fresh : Bool) : Bool × State :=
  match p with
  | .own lane a =>
    (true, (s.arrayWritten cx.core (if lane then 1 else 0) [(a, bs.length)]).modCore cx.core fun w =>
      if lane then { w with lane := Sparse.setBytes w.lane a bs } else { w with spm := Sparse.setBytes w.spm a bs })
  | .win k a => (true, s.writeGrv k a bs)
  | .at_ (.main ca ms) pa gp => let (ok, s) := s.writeMain cx.copyReq ca ms pa bs fresh .none; (ok, if ok then s.dirty cx.core gp else s)
  | .at_ h pa _ => s.writePart cx .done { off := 0, len := bs.length, home := h, at_ := pa, due := 0, port := s.portFor h } bs true .none
  | _ => (false, s)

/-! ## Delivery (R128, R129, R139 to R145) -/

/-- The command ends its delivery with a code. -/
def Cmd.ends (q : Cmd) (code : Nat) : Cmd := { q with phase := 2, code := code }
/-- The command meets a translation fault; COPY_FAULT_PAUSE follows in the same wall cycle. -/
def Cmd.faults (q : Cmd) (cause dir va : Nat) : Cmd := { q with pauseCause := cause, pauseDir := dir, pauseVa := va }

/-- The table entry of the element that a command delivers: the one it has, or one read now through a free port (R128, R130). None where
the port is taken; an uncorrectable word is the inner none. -/
def State.tableEntry (s : State) (c : Nat) (q : Cmd) (e : Nat) : Option (Option Nat) × State :=
  match q.idx with
  | some i => (some (some i), s)
  | none =>
    if q.kind ≠ 2 then (some (some 0), s)
    else
      let p : Spot := .own false (q.reg 2 + 4 * e)
      if (s.spotOpen c p false).isNone then (none, s)
      else match s.spotRead (s.cmdCtx c q) p 4 true .none with
        | (some bs, s) => (some (some (natLE bs)), s)
        | (none, s) => (some none, s)

/-- Bytes of a command that have performed are counted in wpn (R128). -/
def State.countWp (s : State) (c : Nat) (q : Cmd) (k : Nat) : State :=
  s.modCore c fun w => w.wsr (rCHWP q.ch) (w.rsr (rCHWP q.ch) + BitVec.ofNat 64 k)

/-- Bytes that a grove window's remote port has taken are counted once they lie in the window, where loads of the grove see them
(R128, R158). -/
def State.creditCmd (s : State) (c : Nat) (q : Cmd) : State × Cmd :=
  match q.win with
  | none => (s, q)
  | some w => if (s.core w).rwrite.isEmpty then (s.countWp c q q.late, { q with win := none, late := 0 }) else (s, q)

/-- A run moves: its bytes are read and written, and counted in wpn when they have performed. Of the outcomes that R129 allows for an
overlap the model shows the one in which each run of at most 32 bytes is read just before it is written (DESIGN CHOICE, log entry 11). -/
def State.moveRun (s : State) (c : Nat) (q : Cmd) (from_ to_ : Spot) (k : Nat) (idx : Option Nat) (u : Upset) : State × Cmd :=
  let cx := s.cmdCtx c q
  let gs := s.counted q.gsrc from_
  match s.spotRead cx from_ k (from_.fresh q.gsrc) u with
  | (none, s) => (s, q.ends ccABORT)
  | (some bs, s) =>
    let gd := s.counted q.gdst to_
    match s.spotWrite cx to_ bs (to_.fresh q.gdst) with
    | (false, s) => (s, q.ends ccABORT)
    | (true, s) =>
      let q := { q with progress := q.progress + k, idx := idx, gsrc := gs, gdst := gd }
      match to_ with
      | .win w _ => (s, { q with win := some w, late := k })
      | _ => (s.countWp c q k, q)

/-- One run of bytes within a source sector and a destination sector, at most n of them; nothing where a port that it needs is taken in
this cycle (R130, R157). DESIGN CHOICE, log entry 108: a destination sector that several runs cover is merged run by run (R80), and a killed
command that meets a translation fault before its boundary ends there with KILLED. -/
def State.copyRun (s : State) (c : Nat) (q : Cmd) (n : Nat) (u : Upset) : State × Cmd :=
  let (e, o, len) := q.place q.progress
  match s.tableEntry c q e with
  | (none, s) => (s, q)
  | (some none, s) => (s, q.ends ccABORT)
  | (some (some idx), s) =>
    let (d, r) := q.addrs e o idx
    let k := min (min n (len - o)) (min (min (32 - r % 32) (32 - d % 32)) (512 - q.progress % 512))
    match s.spot c q q.m.ssp r k false with
    | (.pause cause, s) => (s, if q.kill then q.ends ccKILLED else q.faults cause 0 r)
    | (.stop code, s) => (s, q.ends code)
    | (from_, s) => match s.spot c q q.m.dsp d k true with
      | (.pause cause, s) => (s, if q.kill then q.ends ccKILLED else q.faults cause 1 d)
      | (.stop code, s) => (s, q.ends code)
      | (to_, s) => match (s.spotOpen c from_ false).bind fun s => s.spotOpen c to_ true with
        | none => (s, q)
        | some s => s.moveRun c q from_ to_ k (if o + k < len then some idx else none) u

/-- Up to n bytes, run by run, while the command goes on; fuel counts the runs. -/
def State.deliver (s : State) (c : Nat) (q : Cmd) : Nat → Nat → Upset → State × Cmd
  | 0, _, _ => (s, q)
  | fuel + 1, n, u =>
    if q.phase ≠ 1 ∨ q.pauseCause ≠ 0 ∨ n = 0 ∨ q.win.isSome then (s, q)
    else if q.total ≤ q.progress then (s, q.ends ccOK)
    else if q.kill ∧ q.progress % 512 = 0 then (s, q.ends ccKILLED)
    else if q.suspended ∧ q.progress % (if q.bulk then 65536 else 4096) = 0 then (s, q)
    else
      let (s, r) := s.copyRun c q n u
      if r.progress = q.progress then (s, r) else State.deliver s c r fuel (n - (r.progress - q.progress)) .none

/-! ## Completion (R135, R136) -/

/-- The status word. -/
def Cmd.word (q : Cmd) : Nat := q.code + q.m.tko.toNat * 2 ^ 8 + q.ch * 2 ^ 16 + q.progress * 2 ^ 24

/-- A step of completion writes 8 bytes or adds to a counter: performed, not performed, or a translation fault. -/
inductive Wrote | yes | no | fault (cause : Nat)
deriving DecidableEq, Repr

/-- Store 8 bytes for an engine at a home (R136). -/
def State.storeHome (s : State) (cx : Ctx) (h : Home) (pa gp : Nat) (bs : List Byte) : Wrote × State :=
  match h with
  | .main ca ms => (match s.writeMain cx.req ca ms pa bs true .none with | (true, s) => (.yes, s.dirtyCx cx gp) | (false, s) => (.no, s))
  | .host l _ => if s.linkUp l then (.yes, s.send (.hostWrite l (s.translated cx.part l) pa bs)) else (.no, s)
  | .fabric n => if (s.fabricPort n).isNone then (.no, s) else (.yes, s.send (.fabWrite n (pa % 2 ^ 40) bs))
  | _ => (.no, s)
/-- The same at an address of glb (virtual) or clr. -/
def State.engineStore (s : State) (cx : Ctx) (clr : Bool) (a : Nat) (bs : List Byte) : Wrote × State :=
  if clr then
    match s.rangeCheck cx.core .clr a 8 false with
    | some _ => (.no, s)
    | none =>
      let (u, o) := s.clrHome cx.part a
      match s.writeClr cx.copyReq u o bs .none with | (true, s) => (.yes, s) | (false, s) => (.no, s)
  else match s.route cx { w := true } a with
    | (.error k, s) => (.fault k, s)
    | (.ok (h, pa, gp), s) => s.storeHome cx h pa gp bs

/-- An addition to a counter at its home (R136, R301). -/
def State.addHome (s : State) (cx : Ctx) (h : Home) (pa gp v src : Nat) : Wrote × State :=
  match h with
  | .main _ ms => match s.admits cx.req pa with
    | (false, s) => (.no, s)
    | (true, s) => (match (s.correct cx.copyReq ms pa 8).ringAddMain ms pa v src cx.core with
      | some s => (.yes, s.dirtyCx cx gp)
      | none => (.no, s.failRecord cx.copyReq ms pa))
  | .fabric n =>
    if (s.fabricPort n).isNone then (.no, s)
    else (.yes, s.send (.fabAtomic n (pa % 2 ^ 40) 0x30 [BitVec.ofNat 64 v]))
  | _ => (.no, s)
/-- What an engine's write came to: the state after it, or that it was not made. -/
def State.wroteOr (s : State) (o : Option State) : Wrote × State :=
  match o with
  | some t => (.yes, t)
  | none => (.no, s)
/-- Add v to a ring counter of a clearing way unit for an engine. -/
def State.addClr (s : State) (cx : Ctx) (u a v src : Nat) : Wrote × State := s.wroteOr (s.ringAddClr u a v src cx.core)
/-- Add v to a ring counter for an engine; src is the source of R310. -/
def State.engineAdd (s : State) (cx : Ctx) (clr : Bool) (a v src : Nat) : Wrote × State :=
  if clr then
    match s.rangeCheck cx.core .clr a 8 false with
    | some _ => (.no, s)
    | none => s.addClr cx (s.clrHome cx.part a).1 (s.clrHome cx.part a).2 v src
  else match s.route cx { r := true, w := true } a with
    | (.error k, s) => (.fault k, s)
    | (.ok (h, pa, gp), s) => s.addHome cx h pa gp v src

/-- Change every command of a core. -/
def Core.mapCmds (c : Core) (f : Cmd → Cmd) : Core :=
  { c with chans := c.chans.map fun e => (e.1, { e.2 with cmds := e.2.cmds.map f }) }

/-- A command completes: dependents of it learn whether it failed, its token is DONE if it is still bound to it, and the channel
goes on (R132 to R134, R136 step 4). -/
def Core.finishCmd (c : Core) (q : Cmd) : Core :=
  let bad := q.code != ccOK || q.fails || q.abandoned
  let c := c.setChan q.ch ((c.chan q.ch).drop 1)
  let tk := q.m.tko.toNat
  let t := c.token tk
  let c := if t.pend && t.ch == q.ch && t.seq == q.seq then
      { c with tokens := Sparse.set {} c.tokens tk { t with pend := false, fail := bad } } else c
  c.mapCmds fun r =>
    if r.deps.contains (q.ch, q.seq) then { r with deps := r.deps.filter (· != (q.ch, q.seq)), depBad := r.depBad || bad } else r

/-- Step 2 of R136: the status word, if it is enabled. -/
def State.cmdStatus (s : State) (cx : Ctx) (q : Cmd) : State × Cmd :=
  let st := q.stat.toNat
  if !bitN st 1 then (s, { q with phase := 3 })
  else
    let a := fldN st 3 52 * 8 + 8 * (q.seq % 2 ^ fldN st 60 4)
    match s.engineStore cx (bitN st 2) a (bytesLE 8 q.word) with
    | (.yes, s) => (s, { q with phase := 3 })
    | (.no, s) => (s, { q with phase := 3, fails := true })
    | (.fault k, s) => if q.kill then (s, { q with phase := 3, fails := true }) else (s, q.faults k 1 a)

/-- Step 3 of R136: the ring, if it is enabled. After an abandon a fault is skipped without a new pause (R140). -/
def State.cmdRing (s : State) (cx : Ctx) (q : Cmd) : State × Cmd :=
  let r := q.ring.toNat
  if !bitN r 1 then (s, { q with phase := 4 })
  else
    let a := fldN r 3 52 * 8
    match s.engineAdd cx (bitN r 2) a 1 (if q.bulk then 2 else 1) with
    | (.yes, s) => (s, { q with phase := 4 })
    | (.no, s) => (s, { q with phase := 4, fails := true })
    | (.fault k, s) => if q.kill || q.abandoned then (s, { q with phase := 4, fails := true }) else (s, q.faults k 1 a)

/-- Steps 2 and 3 as far as they go. -/
def State.lastSteps (s : State) (cx : Ctx) (q : Cmd) : State × Cmd :=
  let (s, q) := if q.phase = 2 then s.cmdStatus cx q else (s, q)
  if q.phase = 3 ∧ q.pauseCause = 0 then s.cmdRing cx q else (s, q)
/-- The steps of completion as far as they go, once every byte counted has performed, and the pause that a fault in them is. -/
def State.complete (s : State) (c : Nat) (q : Cmd) : State :=
  let (s, q) := s.creditCmd c q
  if q.win.isSome then s.setHead c q.ch q else
  let (s, q) := s.lastSteps (s.cmdCtx c q) q
  if q.phase = 4 then s.modCore c fun k => k.finishCmd q
  else
    let s := s.setHead c q.ch q
    if q.pauseCause ≠ 0 then { s with turn := { cur := { core := c, i := q.ch }, act := .copyFaultPause } :: s.turn } else s

/-! ## Events -/

/-- The level of budget unit u of partition p, in bytes. -/
def State.budLevel (s : State) (p u : Nat) : Int := (BitVec.ofNat 32 (getF (s.rw (ppage p (0x2010 + 8 * u))) 0 32)).toInt
def State.setBudLevel (s : State) (p u : Nat) (v : Int) : State :=
  s.ww (ppage p (0x2010 + 8 * u)) ((BitVec.ofInt 32 v).setWidth 64)
/-- From when a bulk command that comes to its engines now is eligible (R148): at once while its unit's level is above 0, else from the
refill (0). -/
def State.eligFrom (s : State) (p : Nat) (q : Cmd) : Nat := if 0 < s.budLevel p q.bunit then s.wall + 1 else 0

/-- R122, R131, R134, R127, R144: the command at the head of a channel (cursor i) starts when its dependences and the accesses
before it are satisfied. -/
def Cmd.ready (q : Cmd) (pipe : List Op) : Bool :=
  q.phase == 0 && !q.held && q.deps.isEmpty && !q.suspended &&
  q.after.all fun i => pipe.all fun o => o.id != i || o.performed
def execCopyCommandStart (s : State) : Out :=
  onCore s fun s =>
    let c := s.cur.core
    match (s.core c).head s.cur.i with
    | none => s
    | some q =>
      if q.phase == 0 && q.kill then s.complete c (q.ends ccKILLED)
      else if !q.ready (s.core c).pipe then s
      else if q.depBad then s.complete c (q.ends ccDEP)
      else if !q.argsOk then s.complete c (q.ends ccARG)
      else if !q.routeOk then s.complete c (q.ends ccROUTE)
      else if q.total = 0 then s.complete c (q.ends ccOK)
      else
        let (d, s) := s.freeTime
        s.setHead c q.ch { q with phase := 1, due := s.wall + d, elig := s.eligFrom (s.core c).part q }

/-- R128, R136, R139, R141: the command at the head of a channel (cursor i) delivers up to n bytes, of its chunk if it runs on a
bulk engine, and completes when it has delivered all. -/
def State.progressCmd (s : State) (c ch n : Nat) (u : Upset) : State :=
  match (s.core c).head ch with
  | none => s
  | some q =>
    if q.paused || q.pauseCause != 0 then s
    else
      let lim := if q.bulk then min n (q.chunk - q.progress) else n
      let (s, q) := s.creditCmd c q
      let (s, q) := s.deliver c q (lim + 1) lim u
      let q := if q.phase = 1 ∧ q.pauseCause = 0 ∧ q.total ≤ q.progress then q.ends ccOK
        else if q.phase = 1 ∧ q.pauseCause = 0 ∧ q.kill ∧ q.progress % 512 = 0 then q.ends ccKILLED else q
      let (d, s) := s.freeTime
      s.complete c { q with due := s.wall + d }
def execCopyCommandComplete (n : Nat) (u : Upset) (s : State) : Out :=
  onCore s fun s => s.progressCmd s.cur.core s.cur.i n u

/-- The words of a fault-queue entry (R98). -/
def faultWords (s : State) (va cause dir engine cmd core chan part token : Nat) : List Word :=
  [BitVec.ofNat 64 va,
   BitVec.ofNat 64 (cause % 256 + dir * 2 ^ 8 + engine * 2 ^ 9 + cmd * 2 ^ 10 + core * 2 ^ 16 + chan * 2 ^ 24 + part * 2 ^ 28 + token * 2 ^ 32),
   s.time, 0]

/-- The bulk engine that runs a command's chunk, if one does. -/
def State.chunkOf (s : State) (c ch : Nat) : Option Chunk := s.chunks.find? fun k => k.core == c && k.ch == ch

/-- R140, R98: a command that met a translation fault pauses, and its fault-queue entry is written. A bulk engine that ran it is
free. CHAN of a bulk command that pauses at a step of its completion, when no engine runs it, is 0 (DESIGN CHOICE, log entry 109). -/
def execCopyFaultPause (s : State) : Out :=
  onCore s fun s =>
    let c := s.cur.core
    let ch := s.cur.i
    match (s.core c).head ch with
    | none => s
    | some q =>
      if q.pauseCause = 0 || q.paused then s
      else
        let p := (s.core c).part
        let eng := match s.chunkOf c ch with | some k => k.eng | none => 0
        let s := { s with chunks := s.chunks.filter fun k => !(k.core == c && k.ch == ch) }
        let s := s.setHead c ch { q with paused := true, pausedAt := s.wall, chunk := 0 }
        s.log (some p) (faultQ p) 64
          (faultWords s q.pauseVa q.pauseCause q.pauseDir (b2n q.bulk) 0 c (if q.bulk then eng else ch) p q.m.tko.toNat)

/-- A resumed command translates again from the paused byte; an abandoned one completes (R140). -/
def State.resumeCmd (s : State) (c : Nat) (q : Cmd) : State :=
  let (d, s) := s.freeTime
  let q := { q with paused := false, pauseCause := 0, due := s.wall + d, elig := s.eligFrom (s.core c).part q }
  if q.phase = 1 then s.setHead c q.ch q else s.complete c q
def State.abandonCmd (s : State) (c : Nat) (q : Cmd) : State :=
  let q := { q with paused := false, pauseCause := 0 }
  if q.phase = 1 then s.complete c (q.ends ccABANDONED)
  else s.complete c { q with phase := q.phase + 1, abandoned := true }

/-! ## Waits (R137, R138) -/

/-- The word of a cwait whose token was DONE at issue: it names no command. -/
def noCommand : Nat := 2 ^ 56 - 1

/-- R138: cwait. -/
def execCwait (land : BitVec 12) (tk : BitVec 8) (s : State) : Out :=
  onCore s fun s => s.issue (.cwait land tk) land.toNat fun c o =>
    { o with phase := .fly, ws := [BitVec.ofNat 64 (match c.resolve tk.toNat with
        | some (ch, seq) => ch + seq * 2 ^ 8
        | none => noCommand * 2 ^ 8)] }

/-- R138: wpwait. -/
def execWpwait (land : BitVec 12) (a : BitVec 6) (ch : BitVec 8) (s : State) : Out :=
  onCore s fun s => s.issue (.wpwait land a ch) land.toNat fun c o => { o with phase := .fly, ws := [c.rx a.toNat] }

/-- The condition of a wait holds (R138). -/
def Core.waitHolds (c : Core) (o : Op) : Bool :=
  let w := (o.ws.getD 0 0).toNat
  match o.act with
  | some (.cwait ..) => !(c.chan (w % 16)).any fun q => q.seq == w / 2 ^ 8
  | some (.wpwait _ _ ch) => decide (w ≤ (c.rsr (rCHWP ch.toNat)).toNat)
  | _ => false

/-- R138: the condition of a wait (cursor i) has come to hold. -/
def execCopyWaitSatisfied (s : State) : Out :=
  onCore s fun s =>
    let c := s.cur.core
    match (s.core c).op s.cur.i with
    | none => s
    | some o => if o.phase = .fly ∧ (s.core c).waitHolds o then s.setOp c { o with phase := .arrived } else s

/-! ## Kills and saves (R141, R142) -/

/-- Kill every command of a core: one that has not started, is paused or stands at a boundary of 512 bytes completes now, a running one at its
next boundary. One paused at a step of its completion takes it again, and a step that faults is skipped (R141; log entry 108). -/
def State.killCore (s : State) (c : Nat) : State :=
  (List.range 16).foldl (fun s ch =>
    let s := s.modCore c fun k => k.setChan ch ((k.chan ch).map fun q => { q with kill := true })
    ((s.core c).chan ch).foldl (fun s _ => match (s.core c).head ch with
      | none => s
      | some q =>
        if q.phase = 0 then s.complete c (q.ends ccKILLED)
        else if q.paused then
          let q := { q with paused := false, pauseCause := 0 }
          s.complete c (if q.phase = 1 then q.ends ccKILLED else q)
        else if q.phase = 1 ∧ q.progress % 512 = 0 ∧ (s.chunkOf c ch).isNone then s.complete c (q.ends ccKILLED)
        else s) s) s

/-- A save suspends the commands of a core; a restore lets them go on, a paused one translating again (R142). -/
def Core.suspend (c : Core) (on : Bool) : Core :=
  c.mapCmds fun q => { q with suspended := on, paused := q.paused && on, pauseCause := if on then q.pauseCause else 0 }

/-- Every command of a core stands at a boundary at which a save may take it (R142). -/
def Core.quiet (c : Core) : Bool :=
  c.allCmds.all fun q => q.phase == 0 || q.paused || (q.phase == 1 && q.win.isNone && q.progress % (if q.bulk then 65536 else 4096) == 0 && q.chunk == 0)

/-! ## Bulk engines and budgets (R143 to R148) -/

/-- BUD.p.u. -/
def State.bud (s : State) (p u : Nat) : Word := s.rw (rpage (0x5000 + 32 * p + 8 * u))

/-- The bulk commands of a die that are eligible (R148): core, channel, command. -/
def State.eligible (s : State) (die : Nat) : List (Nat × Nat × Cmd) :=
  s.cores.flatMap fun e =>
    if dieOf e.1 ≠ die then [] else
    (List.range 16).filterMap fun ch => match e.2.head ch with
      | some q =>
        if q.bulk && q.phase == 1 && !q.paused && q.pauseCause == 0 && q.chunk == 0 && (!q.suspended || q.progress % 65536 != 0) && decide (0 < s.budLevel e.2.part q.bunit)
        then some (e.1, ch, q) else none
      | none => none

/-- Whether a comes before b in the order of R148. -/
def State.beforeChunk (s : State) (a b : Nat × Nat × Cmd) : Bool :=
  let prio (x : Nat × Nat × Cmd) : Nat := getF (s.bud (s.core x.1).part x.2.2.bunit) 24 3
  decide (prio b < prio a) || (prio a == prio b && decide (a.2.2.elig < b.2.2.elig))

/-- The Rootlink ports by which a command's next bytes would leave (R410). -/
def State.cmdPorts (s : State) (c : Nat) (q : Cmd) : List Nat :=
  let (e, o, _) := q.place q.progress
  let a := q.addrs e o (q.idx.getD 0)
  let port (p : Spot) : List Nat := match p with | .at_ h _ _ => (s.portFor h).toList | _ => []
  if q.m.ssp != .glb && q.m.dsp != .glb then [] else
  port (s.spot c q q.m.ssp a.2 1 false).1 ++ port (s.spot c q q.m.dsp a.1 1 true).1

/-- R148: a bulk engine (cursor i the die, j the engine) takes the next chunk and charges its budget unit. -/
def execBulkChunkStart (s : State) : Out :=
  onItem s.cur.i 2 s fun s =>
    let die := s.cur.i
    let eng := s.cur.j % 8
    if s.chunks.any fun k => k.die == die && k.eng == eng then s
    else match s.eligible die with
    | [] => s
    | e :: es =>
      let (c, ch, q) := es.foldl (fun m x => if s.beforeChunk x m then x else m) e
      let p := (s.core c).part
      let n := min (65536 - q.progress % 65536) (q.total - q.progress)
      let (d, s) := s.freeTime
      let s := s.setBudLevel p q.bunit (s.budLevel p q.bunit - n)
      let s := s.setHead c ch { q with chunk := q.progress + n, elig := if q.elig = 0 then s.wall + 1 else q.elig }
      { s with chunks := { die := die, eng := eng, core := c, ch := ch, seq := q.seq, bytes := n, due := s.wall + d, ports := s.cmdPorts c q } :: s.chunks }

/-- R143: a bulk engine (cursor i the die, j the engine) finishes its chunk. -/
def execBulkChunkDone (u : Upset) (s : State) : Out :=
  onItem s.cur.i 2 s fun s =>
    match s.chunks.find? fun k => k.die == s.cur.i && k.eng == s.cur.j % 8 with
    | none => s
    | some k =>
      let s := s.progressCmd k.core k.ch 65536 u
      match (s.core k.core).head k.ch with
      | some q =>
        if q.seq == k.seq && q.pauseCause != 0 then s
        else
          let s := { s with chunks := s.chunks.filter (· != k) }
          if q.seq == k.seq then s.setHead k.core k.ch { q with chunk := 0 } else s
      | none => { s with chunks := s.chunks.filter (· != k) }

/-- Commands of partition p whose unit u has become positive are eligible from now (R148). -/
def State.markEligible (s : State) (p u : Nat) : State :=
  { s with cores := s.cores.map fun e =>
      if e.2.part ≠ p then e else (e.1, e.2.mapCmds fun q => if q.bulk && q.phase == 1 && q.elig == 0 && q.bunit == u then { q with elig := s.wall + 1 } else q) }

/-- R147: every budget unit is refilled up to CAP. -/
def execBudgetRefill (s : State) : Out :=
  .next ((State.parts.flatMap fun p => (List.range 4).map fun u => (p, u)).foldl (fun s e =>
    let b := s.bud e.1 e.2
    let v := min (s.budLevel e.1 e.2 + (getF b 0 20 * 1024 : Nat)) ((getF b 32 20 * 1024 : Nat) : Int)
    let s := s.setBudLevel e.1 e.2 v
    if 0 < v then s.markEligible e.1 e.2 else s) s)

end Sys2Proof.Machine
end

