-- ==== Sys2Proof/Machine/Command.lean ====
section
/-! DEFINITION. Commands handed over by a parameter block: memory-side reductions (R314 to R318), collectives (R411 to R414),
descriptors published by lqput (R340), and the writes of CPY.FRES that end a pause (R140, R317, R414). -/
namespace Sys2Proof.Machine

open Sys2Proof

/-! ## Issue -/

/-- A command reads its 128-byte block once every access of earlier bundles has performed (R290 note 2). -/
def commandM (i : Instr) (m : MArgs) (s : State) : State :=
  let a := addrM s.me m
  let before := s.me.unperformed
  match memForm i with
  | some f => s.issueAccess i f a fun o => { o with ws := [a], deps := o.deps ++ before }
  | none => s

/-- R314: red. -/
def execRed (m : MArgs) (s : State) : Out := onCore s (commandM (.red m) m)
/-- R411: coll. -/
def execColl (m : MArgs) (s : State) : Out := onCore s (commandM (.coll m) m)
/-- R340: lqput. -/
def execLqput (m : MArgs) (s : State) : Out := onCore s (commandM (.lqput m) m)

/-- The words of a block that has been read. -/
def blockWords (d : Sparse Byte) : List Word := (List.range 16).map fun i => BitVec.ofNat 64 (natLE (Sparse.bytes d (8 * i) 8))
/-- Bytes of a block. -/
def blockByte (ws : List Word) (i : Nat) : Nat := getF (ws.getD (i / 8) 0) (8 * (i % 8)) 8

/-! ## Ranges of virtual memory -/

/-- The pages of a range as they translate, 64 KiB each; or the first address that does not, with its cause. -/
def State.rangeMap (s : State) (cx : Ctx) (need : Need) (va n : Nat) : Except (Nat × Nat) (List RedPage) × State :=
  (splitAt 65536 va n).foldl (fun (st : Except (Nat × Nat) (List RedPage) × State) e =>
    match st.1 with
    | .error _ => st
    | .ok ps => match st.2.route cx need (va + e.1) with
      | (.error k, s) => (.error (va + e.1, k), s)
      | (.ok (h, pa, gp), s) =>
        let a := va + e.1
        (.ok (ps ++ [{ va := a / 65536, home := h, pa := pa - a % 65536, gpa := gp - a % 65536 }]), s)) (.ok [], s)

/-- The pages of several ranges (need, address, length, direction); or the first fault with its direction. -/
def State.rangesMap (s : State) (cx : Ctx) (rs : List (Need × Nat × Nat × Nat)) : Except (Nat × Nat × Nat) (List RedPage) × State :=
  rs.foldl (fun (st : Except (Nat × Nat × Nat) (List RedPage) × State) e =>
    match st.1 with
    | .error _ => st
    | .ok ps => match st.2.rangeMap cx e.1 e.2.1 e.2.2.1 with
      | (.error (va, k), s) => (.error (va, k, e.2.2.2), s)
      | (.ok qs, s) => (.ok (ps ++ qs), s)) (.ok [], s)

/-- Why an engine's access to virtual memory was not made: a translation fault, or an abort completion or uncorrectable datum. -/
inductive Missed
  | fault (cause : Nat)
  | lost
deriving DecidableEq, Repr

/-- The granule that a run of accesses counted last, after one at pa (R86). -/
def State.granule (s : State) (last : Option Nat) (ms : Bool) (pa : Nat) : Option Nat :=
  if last != some (pa / 512) && !s.inL2 ms pa then some (pa / 512) else last

/-- Read a sector of virtual main memory; last is the granule that its run counted last (R86). -/
def State.readSector (s : State) (cx : Ctx) (va : Nat) (last : Option Nat) (u : Upset) : Except Missed (List Byte) × Option Nat × State :=
  match s.route cx { r := true } va with
  | (.ok (.main ca ms, pa, _), s) =>
    let g := s.granule last ms pa
    (match s.readMain cx.req ca ms pa 32 (last != some (pa / 512)) u with
      | (some bs, s) => (.ok bs, g, s)
      | (none, s) => (.error .lost, g, s))
  | (.error k, s) => (.error (.fault k), last, s)
  | (_, s) => (.error .lost, last, s)

/-- Write a sector of virtual main memory through its home slice. -/
def State.writeAtHome (s : State) (cx : Ctx) (va : Nat) (bs : List Byte) (last : Option Nat) : Except Missed Unit × Option Nat × State :=
  match s.route cx { w := true } va with
  | (.ok (.main ca ms, pa, gp), s) =>
    let g := s.granule last ms pa
    (match s.writeMain cx.req ca ms pa bs (last != some (pa / 512)) .none with
      | (true, s) => (.ok (), g, s.dirtyCx cx gp)
      | (false, s) => (.error .lost, g, s))
  | (.error k, s) => (.error (.fault k), last, s)
  | (_, s) => (.error .lost, last, s)

/-! ## Completion (R318) -/

/-- The status word and the flag of a command without a channel: STAT, FLAG, FVAL, its kind, DONE and the code. known gives the home of an
address that the command has translated before (R317). A step that faults or may not be made is not performed. -/
def State.flagSteps (s : State) (cx : Ctx) (known : Nat → Option (Home × Nat × Nat)) (stat flag fval : Word) (add : Bool) (done code src : Nat) :
    State :=
  let word := bytesLE 8 (code + done * 2 ^ 24)
  let s := if stat = 0 ∨ stat.toNat % 8 ≠ 0 then s
    else (match known stat.toNat with
      | some (h, pa, gp) => s.storeHome cx h pa gp word
      | none => s.engineStore cx false stat.toNat word).2
  if flag.toNat % 8 ≠ 0 then s
  else match known flag.toNat, add with
    | some (h, pa, gp), true => (s.addHome cx h pa gp fval.toNat src).2
    | some (.host _ _, _, _), false => s
    | some (h, pa, gp), false => (s.storeHome cx h pa gp (bytesLE 8 fval.toNat)).2
    | none, true => (s.engineAdd cx false flag.toNat fval.toNat src).2
    | none, false => match s.route cx { w := true } flag.toNat with
      | (.ok (.host _ _, _, _), s) => s
      | (_, s) => (s.engineStore cx false flag.toNat (bytesLE 8 fval.toNat)).2

/-! ## Reductions (R314 to R318) -/

namespace Red
def w (r : Red) (i : Nat) : Nat := (r.words.getD i 0).toNat
def dst (r : Red) : Nat := r.w 0
def count (r : Red) : Nat := r.w 9 % 2 ^ 32
def mask (r : Red) : Nat := r.w 9 / 2 ^ 32
def flag (r : Red) : Nat := r.w 10
def stat (r : Red) : Nat := r.w 12
def add (r : Red) : Bool := bitN (r.w 13) 0
def len (r : Red) : Nat := 4 * r.count
/-- The present sources, by number. -/
def srcs (r : Red) : List (Nat × Nat) := (List.range 8).filterMap fun i => if bitN r.mask i then some (i, r.w (1 + i)) else none
/-- The checks of the block (R315, R316). -/
def ok (r : Red) : Bool :=
  r.dst % 32 == 0 && r.flag % 8 == 0 && r.stat % 8 == 0 && r.count % 8 == 0 && decide (8 ≤ r.count) && decide (r.count ≤ 2 ^ 24)
  && decide (r.mask / 256 = 0) && r.mask % 256 != 0 && decide (r.w 13 / 2 = 0) && r.w 14 == 0 && r.w 15 == 0
  && r.srcs.all fun e => e.2 % 32 == 0 && (e.2 == r.dst || decide (r.dst + r.len ≤ e.2) || decide (e.2 + r.len ≤ r.dst))
def ctx (r : Red) : Ctx := { core := r.core, part := r.part, level := r.level, root := r.root, tag := r.tag, key := r.launch }
/-- The page of an address of a buffer. -/
def page (r : Red) (va : Nat) : Option RedPage := r.map.find? fun p => p.va == va / 65536
/-- The home of an address as the command translated it at its start (R317). -/
def known (r : Red) (va : Nat) : Option (Home × Nat × Nat) := (r.page va).map fun p => (p.home, p.pa + va % 65536, p.gpa + va % 65536)
/-- The access at an address of buffer b counts: it has not counted in this granule (R86). -/
def fresh (r : Red) (b pa : Nat) : Bool := Sparse.get 0 r.grans b != pa / 512 + 1
/-- The base die that sums verifies what it reads (R78, R85). -/
def req (r : Red) : Req := { r.ctx.req with unit := 3 }
end Red

/-- The stack whose engine takes a destination: that of its address in HBM, else the lowest of the core's die (R314). -/
def State.redStack (s : State) (cx : Ctx) (dst : Nat) : Nat × State :=
  match s.route cx { w := true } dst with
  | (.ok (.main _ _, pa, _), s) => (if inHbm pa then stackOf pa else 4 * dieOf cx.core, s)
  | (_, s) => (4 * dieOf cx.core, s)

/-- Commands that a stack's engine holds. -/
def State.redsAt (s : State) (n : Nat) : Nat := s.reds.countP fun r => r.stack == n

def State.setRed (s : State) (r : Red) : State := { s with reds := s.reds.map fun q => if q.key = r.key then r else q }
def State.dropRed (s : State) (k : Nat) : State := { s with reds := s.reds.filter fun q => q.key != k }

/-- R314: the engine of the destination's stack accepts the block of a red (cursor i the operation) if it has a free place. -/
def execReductionAccept (s : State) : Out :=
  onCore s fun s =>
    let c := s.cur.core
    match (s.core c).op s.cur.i with
    | none => s
    | some o => match o.act, o.phase with
      | some (.red _), .arrived =>
        if o.progress ≠ 0 then s
        else
          let cx := s.opCtx c o
          let ws := blockWords o.got
          let (n, s) := s.redStack cx (ws.getD 0 0).toNat
          if 16 ≤ s.redsAt n then s
          else
            let (d, s) := s.freeTime
            let r : Red := { key := s.nextKey, stack := n, core := c, part := cx.part, level := cx.level, root := cx.root, tag := cx.tag, words := ws, launch := (s.core c).launch
                             due := s.wall + d }
            { s.setOp c { o with progress := 1 } with reds := s.reds ++ [r], nextKey := s.nextKey + 1 }
      | _, _ => s

/-- The command of a stack's engine ends with a code and DONE bytes; FLAG and STAT go where they translated at its start, if it came so far
(R317). -/
def State.redEnd (s : State) (r : Red) (code done : Nat) : State :=
  (s.flagSteps r.ctx r.known (r.words.getD 12 0) (r.words.getD 10 0) (r.words.getD 11 0) r.add done code 3).dropRed r.key

/-- The ranges that a reduction translates before it reads a byte, in the order DST, sources, FLAG, STAT (R316, R317). -/
def Red.ranges (r : Red) : List (Need × Nat × Nat × Nat) :=
  let need (w rd : Bool) : Need := { r := rd, w := w }
  [(need true false, r.dst, r.len, 1)] ++ r.srcs.map (fun e => (need false true, e.2, r.len, 0)) ++
    [(need true r.add, r.flag, 8, 1)] ++ (if r.stat = 0 then [] else [(need true false, r.stat, 8, 1)])

/-- The buffers lie in HBM in the stack of DST (R316). -/
def Red.routeOk (r : Red) (stack : Nat) : Bool :=
  let here (p : RedPage) : Bool := (match p.home with | .main _ _ => true | _ => false) && inHbm p.pa && stackOf p.pa == stack
  ((r.dst :: r.srcs.map (·.2)).flatMap fun a => (splitAt 65536 a r.len).map fun e => a + e.1).all fun a => (r.page a).any here

/-- Read a sector of source b of a reduction through its home slice (R316); what it counted goes with the answer. -/
def State.redRead (s : State) (r : Red) (b va : Nat) (u : Upset) : Option (List Byte) × Red × State :=
  match r.page va with
  | some { home := .main ca ms, pa := base, .. } =>
    let pa := base + va % 65536
    let cnt := r.fresh b pa && (ms || !s.inL2 ms pa)
    let x := s.readMain r.req ca ms pa 32 (r.fresh b pa) u
    (x.1, if cnt then { r with grans := Sparse.set 0 r.grans b (pa / 512 + 1) } else r, x.2)
  | _ => (none, r, s)

/-- Write a sector of DST whole at its base die, leaving no valid L2 line of it (R316). -/
def State.redWrite (s : State) (r : Red) (va : Nat) (bs : List Byte) : Bool × Red × State :=
  match r.page va with
  | some { home := .main ca _, pa := base, gpa := gp, .. } =>
    let pa := base + va % 65536
    let x := s.writeMain r.req ca true pa bs (r.fresh 8 pa) .none
    (x.1, { r with grans := Sparse.set 0 r.grans 8 (pa / 512 + 1) }, if x.1 then x.2.dirtyCx r.ctx (gp + va % 65536) else x.2)
  | _ => (false, r, s)

/-- The next sector of each present source, by its number; an upset strikes that at place hit among them. -/
def State.redGather (s : State) (r : Red) (hit : Nat) (u : Upset) : List (Nat × Option (List Byte)) × Red × State :=
  ((List.range r.srcs.length).zip r.srcs).foldl (fun (st : List (Nat × Option (List Byte)) × Red × State) e =>
    let x := st.2.2.redRead st.2.1 e.2.1 (e.2.2 + 32 * r.next) (if e.1 = hit then u else .none)
    ((e.2.1, x.1) :: st.1, x.2)) ([], r, s)
/-- Sum the next sector of a reduction: none where a source is uncorrectable or the sector cannot be written. An upset strikes one of the
sources. -/
def State.redSector (s : State) (r : Red) (u : Upset) : Option Red × State :=
  let (hit, s) := if u = .none then (0, s) else s.pick r.srcs.length
  let (bufs, r, s) := s.redGather r hit u
  if bufs.any fun b => b.2.isNone then (none, s)
  else
    let el (i e : Nat) : Option Elem := match bufs.find? fun b => b.1 == i with
      | some (_, some bs) => some (BitVec.ofNat 32 (natLE ((bs.drop (4 * e)).take 4)))
      | _ => none
    let out := (List.range 8).flatMap fun e => bytesLE 4 (reduceEight ((List.range 8).map fun i => el i e)).toNat
    match s.redWrite r (r.dst + 32 * r.next) out with
    | (true, r, s) => (some { r with next := r.next + 1 }, s)
    | (false, _, s) => (none, s)

/-- A reduction that has begun sums its next sector; it ends with its last, at one that fails, or where a kill stops it, at a boundary of
512 bytes (R83, R141, R316). -/
def State.redStep (s : State) (r : Red) (u : Upset) : State :=
  if r.kill && r.next % 16 == 0 then s.redEnd r ccKILLED (32 * r.next)
  else match s.redSector r u with
  | (none, s) => s.redEnd r ccABORT (32 * r.next)
  | (some r, s) =>
    if r.count ≤ 8 * r.next then s.redEnd r ccOK r.len
    else
      let (d, s) := s.freeTime
      s.setRed { r with due := s.wall + d }

/-- A reduction checks its block, translates its ranges, moves to the stack of DST, and begins (R316, R317). -/
def State.redBegin (s : State) (r : Red) : State :=
  if !r.ok then s.redEnd r ccARG 0
  else match s.rangesMap r.ctx r.ranges with
  | (.error (va, k, dir), s) =>
    let s := s.setRed { r with pauseCause := k, pauseDir := dir, pauseVa := va }
    { s with turn := { cur := { i := r.key }, act := .reductionPause } :: s.turn }
  | (.ok ps, s) =>
    let r := { r with map := ps }
    let n : Nat := match r.page r.dst with
      | some p => if inHbm p.pa then stackOf p.pa else r.stack
      | none => r.stack
    let (d, s) := s.freeTime
    if decide (n ≠ r.stack) && decide (16 ≤ s.redsAt n) then s.setRed { r with map := [], due := s.wall + d }
    else
      let r := { r with stack := n }
      if r.routeOk n then s.setRed { r with begun := true, due := s.wall + d } else s.redEnd r ccROUTE 0

/-- R316, R318: a reduction (cursor i its key) begins, or sums its next sector and completes with its last. -/
def execReductionComplete (u : Upset) (s : State) : Out :=
  .next <|
    match s.reds.find? fun r => r.key == s.cur.i with
    | none => s
    | some r => if r.paused then s else if r.begun then s.redStep r u else s.redBegin r

/-- R317: a reduction (cursor i its key) that met a translation fault pauses, and its fault-queue entry is written. -/
def execReductionPause (s : State) : Out :=
  .next <|
    match s.reds.find? fun r => r.key == s.cur.i with
    | none => s
    | some r =>
      if r.pauseCause = 0 ∨ r.paused then s
      else
        let s := s.setRed { r with paused := true, pausedAt := s.wall }
        s.log (some r.part) (faultQ r.part) 64 (faultWords s r.pauseVa r.pauseCause r.pauseDir 1 1 r.core (8 + r.stack) r.part 0)

/-! ## Collectives (R411 to R414) -/

namespace Coll
def w (r : Coll) (i : Nat) : Nat := (r.words.getD i 0).toNat
def byte (r : Coll) (i : Nat) : Nat := blockByte r.words i
def src (r : Coll) : Nat := r.w 0
def dst (r : Coll) : Nat := r.w 1
def count (r : Coll) : Nat := r.w 2 % 2 ^ 32
def kind (r : Coll) : Nat := r.byte 20 % 4
def int (r : Coll) : Bool := r.byte 21 % 2 == 1
def nrank (r : Coll) : Nat := r.byte 22
def pos (r : Coll) : Nat := r.byte 23
def ring (r : Coll) (i : Nat) : Nat := r.byte (24 + i)
def flag (r : Coll) : Nat := r.w 5
def stat (r : Coll) : Nat := r.w 7
def add (r : Coll) : Bool := r.byte 64 % 2 == 1
def collid (r : Coll) : Word := r.words.getD 9 0
def srcLen (r : Coll) : Nat := 4 * r.count
def dstLen (r : Coll) : Nat :=
  match r.kind with | 0 => 4 * r.count | 1 => 4 * r.nrank * r.count | _ => 4 * (r.count / r.nrank)
def ctx (r : Coll) : Ctx := { core := r.core, part := r.part, level := r.level, root := r.root, tag := r.tag, key := r.launch }
/-- The nodes of the two neighbours. -/
def next (r : Coll) : Nat := r.ring ((r.pos + 1) % r.nrank)
def prev (r : Coll) : Nat := r.ring ((r.pos + r.nrank - 1) % r.nrank)
/-- The checks of the block's own fields (R411, R412); node is RL.NODE.NODE. -/
def ok (r : Coll) (node : Nat) : Bool :=
  let ranks := (List.range r.nrank).map r.ring
  r.src % 32 == 0 && r.dst % 32 == 0 && r.flag % 8 == 0 && r.stat % 8 == 0 && decide (r.byte 20 < 3) && decide (r.byte 21 < 2)
  && decide (2 ≤ r.nrank) && decide (r.nrank ≤ 16) && decide (r.pos < r.nrank) && (List.range 16).all (fun i => decide (r.ring i < 128))
  && r.count % (if r.kind = 1 then 8 else 8 * r.nrank) == 0 && decide (r.byte 64 < 2)
  && (upto 65 7).all (fun i => r.byte i == 0) && r.collid != 0 && (upto 80 48).all (fun i => r.byte i == 0)
  && r.ring r.pos == node && decide ranks.Nodup
  && (r.dst == r.src && r.kind == 0 || decide (r.dst + r.dstLen ≤ r.src) || decide (r.src + r.srcLen ≤ r.dst))
end Coll

def State.setColl (s : State) (r : Coll) : State := { s with colls := s.colls.map fun q => if q.key = r.key then r else q }
def State.dropColl (s : State) (k : Nat) : State := { s with colls := s.colls.filter fun q => q.key != k }

/-- A rank completes with a code and DONE bytes; its neighbours are told of an ending that is not its own data's (R412, R414). -/
def State.collEnd (s : State) (r : Coll) (code done : Nat) : State :=
  let s := (s.flagSteps r.ctx (fun _ => none) (r.words.getD 7 0) (r.words.getD 5 0) (r.words.getD 6 0) r.add done code 5).dropColl r.key
  if code = ccABANDONED ∨ code = ccABORT then s.send (.collNotice r.die r.collid code) else s

/-- The collective engine of the core's die accepts a coll's block if it has a free place (R411). -/
def State.collAccept (s : State) (c : Nat) (o : Op) : State :=
  if 8 ≤ s.colls.countP (fun r => r.die == dieOf c) then s
  else
    let cx := s.opCtx c o
    let r : Coll := { key := s.nextKey, die := dieOf c, core := c, part := cx.part, level := cx.level, root := cx.root, tag := cx.tag, words := blockWords o.got
                      launch := (s.core c).launch }
    { s.setOp c { o with progress := 1 } with colls := s.colls ++ [r], nextKey := s.nextKey + 1 }

/-- A port reaches each of a rank's neighbours (R410, R412). -/
def State.collReach (s : State) (r : Coll) : Bool := (s.fabricPort r.next).isSome && (s.fabricPort r.prev).isSome
/-- The matched ranks whose neighbours cannot be reached any more end with BAD_ROUTE (R412). -/
def State.collsLost (s : State) : State :=
  (s.colls.filter fun r => r.matched && !s.collReach r).foldl (fun s r => s.collEnd r ccROUTE r.wrote) s

/-- R412: a rank's collective (cursor i its key) is matched with its neighbours and checked. -/
def execCollectiveMatch (nb : Neighbours) (s : State) : Out :=
  .next <|
    match s.colls.find? fun r => r.key == s.cur.i with
    | none => s
    | some r =>
      if r.matched then s else
      if !r.ok (s.rwF (rpage 0xB000) 0 7) then s.collEnd r ccARG 0
      else
        if !nb.reachable || !s.collReach r then s.collEnd r ccROUTE 0
        else if !nb.agree then s.collEnd r ccARG 0
        else s.setColl { r with matched := true }

/-- The ranges that a collective translates before its completion steps: FLAG and STAT (R414). -/
def Coll.lastRanges (r : Coll) : List (Need × Nat × Nat × Nat) :=
  let need (w rd : Bool) : Need := { r := rd, w := w }
  (if r.stat = 0 then [] else [(need true false, r.stat, 8, 1)]) ++ [(need true r.add, r.flag, 8, 1)]

/-- Where a rank stops on its way: a translation fault (address, cause, direction), or a datum that it cannot have or a sector that it cannot
write. -/
inductive CollStop
  | pause (va cause dir : Nat)
  | lost
deriving DecidableEq, Repr

/-- A rank's progress: where it has stopped, if it has, and itself. -/
structure CollRun where
  stop : Option CollStop := none
  r : Coll
deriving DecidableEq, Repr

/-- A step of a rank's run at a sector: read for SRC. -/
def collRead (st : CollRun × State) (k : Nat) : CollRun × State :=
  let r := st.1.r
  if st.1.stop.isSome || decide (8 * k < r.own.length) then st
  else match st.2.readSector r.ctx (r.src + 32 * k) r.gsrc .none with
    | (.error (.fault c), g, s) => ({ stop := some (.pause (r.src + 32 * k) c 0), r := { r with gsrc := g } }, s)
    | (.error .lost, g, s) => ({ stop := some .lost, r := { r with gsrc := g } }, s)
    | (.ok bs, g, s) =>
      ({ r := { r with gsrc := g, own := r.own ++ (List.range 8).map fun e => BitVec.ofNat 32 (natLE ((bs.drop (4 * e)).take 4)) } }, s)
/-- The sectors of SRC that a rank has yet to read, in order, as far as they go (R414). -/
def State.collSource (s : State) (r : Coll) : CollRun × State := (List.range (r.count / 8)).foldl collRead ({ r := r }, s)

/-- A step of a rank's run at a sector: write it to DST. -/
def collWrite (out : List Elem) (st : CollRun × State) (k : Nat) : CollRun × State :=
  let r := st.1.r
  if st.1.stop.isSome || decide (32 * k < r.wrote) then st
  else match st.2.writeAtHome r.ctx (r.dst + 32 * k) (((out.drop (8 * k)).take 8).flatMap fun e => bytesLE 4 e.toNat) r.gdst with
    | (.error (.fault c), g, s) => ({ stop := some (.pause (r.dst + 32 * k) c 1), r := { r with gdst := g } }, s)
    | (.error .lost, g, s) => ({ stop := some .lost, r := { r with gdst := g } }, s)
    | (.ok _, g, s) => ({ r := { r with gdst := g, wrote := 32 * k + 32 } }, s)
/-- The sectors of DST that a rank has yet to write, in order, as far as they go. -/
def State.collDest (s : State) (r : Coll) (out : List Elem) : CollRun × State :=
  (List.range (out.length / 8)).foldl (collWrite out) ({ r := r }, s)

/-- One element of the reduction: s starts at position c + 1 and ends at position c (R413). -/
def collSum (int : Bool) (xs : List (List Elem)) (c e : Nat) : Elem :=
  let n := xs.length
  let x (m : Nat) : Elem := (xs.getD ((c + m) % n) []).getD e 0
  (List.range (n - 1)).foldl (fun a m => if int then a + x (m + 2) else (addF32 a (x (m + 2))).1) (x 1)

/-- What a rank writes to DST (R413). -/
def Coll.result (r : Coll) (xs : List (List Elem)) : List Elem :=
  let chunk := r.count / r.nrank
  match r.kind with
  | 0 => (List.range r.count).map fun e => collSum r.int xs (e / chunk) e
  | 1 => xs.flatMap fun l => (List.range r.count).map fun e => l.getD e 0
  | _ => (List.range chunk).map fun e => collSum r.int xs r.pos (r.pos * chunk + e)

/-- A rank stops on its way (R413, R414): a fault is its pause, anything else its end with DATA_ABORT. -/
def State.collStop (s : State) (r : Coll) (x : CollStop) : State :=
  match x with
  | .pause va k dir =>
    { s.setColl { r with pauseCause := k, pauseDir := dir, pauseVa := va } with
      turn := { cur := { i := r.key }, act := .collectivePause } :: s.turn }
  | .lost => s.collEnd r ccABORT r.wrote

/-- A rank that has all the elements writes DST, then translates FLAG and STAT, and ends (R413, R414). -/
def State.collFinish (s : State) (r : Coll) (xs : List (List Elem)) : State :=
  let all := (List.range r.nrank).map fun i => if i = r.pos then r.own else xs.getD i []
  if all.any fun l => decide (l.length < r.count) then s.collEnd r ccABORT r.wrote
  else match s.collDest r (r.result all) with
  | ({ stop := some x, r := r }, s) => s.collStop r x
  | ({ stop := none, r := r }, s) => match s.rangesMap r.ctx r.lastRanges with
    | (.error (va, k, dir), s) => s.collStop r (.pause va k dir)
    | (.ok _, s) => s.collEnd r ccOK r.dstLen

/-- R413, R414: a matched rank (cursor i its key) goes on from the byte that it has come to, and completes unless it meets a translation
fault. xs gives the SRC elements of the other positions (its own place is not looked at); a list that is too short stands for an
uncorrectable source there. -/
def execCollectiveComplete (xs : List (List Elem)) (s : State) : Out :=
  .next <|
    match s.colls.find? fun r => r.key == s.cur.i with
    | none => s
    | some r =>
      if r.paused ∨ !r.matched then s
      else if !s.collReach r then s.collEnd r ccROUTE r.wrote
      else match s.collSource r with
      | ({ stop := some x, r := r }, s) => s.collStop r x
      | ({ stop := none, r := r }, s) =>
        let s := if r.sent then s else s.send (.collData r.die r.collid (r.own.flatMap fun e => bytesLE 4 e.toNat))
        s.collFinish { r with sent := true } xs

/-- R414: a rank's collective (cursor i its key) that met a translation fault pauses, and its fault-queue entry is written. -/
def execCollectivePause (s : State) : Out :=
  .next <|
    match s.colls.find? fun r => r.key == s.cur.i with
    | none => s
    | some r =>
      if r.pauseCause = 0 ∨ r.paused then s
      else
        let s := s.setColl { r with paused := true, pausedAt := s.wall }
        s.log (some r.part) (faultQ r.part) 64 (faultWords s r.pauseVa r.pauseCause r.pauseDir 1 2 r.core 0 r.part 0)

/-- R414: a rank (cursor i its key) receives an abandon; it passes it on and completes. -/
def execCollectiveAbandon (s : State) : Out :=
  .next <|
    match s.colls.find? fun r => r.key == s.cur.i with
    | none => s
    | some r => s.collEnd r ccABANDONED r.wrote

/-! ## lqput (R330, R340) -/

def lqCfg (p q : Nat) : Nat := ppage p (0x1000 + 8 * q)
def lqTail (p q : Nat) : Nat := ppage p (0x1200 + 8 * q)
def lqHead (p q : Nat) : Nat := ppage p (0x1400 + 8 * q)
def lqCq (p q : Nat) : Nat := ppage p (0x1600 + 8 * q)
/-- The guest-physical address of slot i of queue q (R331). -/
def State.lqSlot (s : State) (p q i : Nat) : Nat :=
  let w := s.rw (lqCfg p q)
  getF w 7 41 * 128 + 128 * (i % 2 ^ getF w 48 4)

/-- A failed descriptor of queue q of partition p is read again (R441). -/
def lqKey (p q : Nat) : Nat := p * 64 + q
def State.lqRetry (s : State) (p q : Nat) : State := { s with lqFault := s.lqFault.filter (· != lqKey p q) }

/-- Store the 128 bytes of a descriptor at a slot's device physical address, sector by sector, as far as they go. -/
def State.storeSlot (s : State) (r : Req) (pa : Nat) (d : Sparse Byte) : Bool × State :=
  (splitAt 32 pa 128).foldl (fun (st : Bool × State) e =>
    if st.1 then st.2.writeMain r 0 false (pa + e.1) (Sparse.bytes d e.1 e.2) (e.1 == 0) .none else st) (true, s)

/-- LQ.TAIL moves on, and the scheduler reads the queue again; the publisher's level is kept with the entry (R340, R441). -/
def State.advanceTail (s : State) (c p q tail : Nat) : State :=
  let s := (s.ww (lqTail p q) (BitVec.ofNat 64 ((tail + 1) % 2 ^ 32))).lqRetry p q
  { s with lqLevel := Sparse.set 0 s.lqLevel ((p * 64 + q) * 2 ^ 32 + tail) ((s.core c).level.rank + 1) }

/-- Publish a descriptor that has been read (R340): the cause that stops it, if one does, and the state. -/
def State.publish (s : State) (c : Nat) (q : Nat) (d : Sparse Byte) : Option Nat × State :=
  let p := (s.core c).part
  let cfg := s.rw (lqCfg p q)
  let tail := getF (s.rw (lqTail p q)) 0 32
  let head := getF (s.rw (lqHead p q)) 0 32
  let slot := s.lqSlot p q tail
  if !bitN cfg.toNat 0 then (some 0xA1, s)
  else if (tail + 2 ^ 32 - head) % 2 ^ 32 = 2 ^ getF cfg 48 4 then (some 0xA2, s)
  else match (agentAddr s (some p) { w := true } slot).1 with
  | .error _ =>
    let met := match s.agentAt (some p) { w := true } slot with | .error m => m | .ok _ => none
    (some cDATA_ABORT, (s.agentTouch (some p) slot).agentMet (some p) met)
  | .ok pa => match (s.agentTouch (some p) slot).storeSlot (s.ctx c).req pa d with
    | (false, s) => (some cDATA_ABORT, s)
    | (true, s) => (none, (s.dirty c slot).advanceTail c p q tail)

/-- What follows once a command's block has been read: a coll is handed to its engine, an lqput publishes. -/
def State.handOver (s : State) (c id : Nat) : State :=
  match (s.core c).op id with
  | none => s
  | some o =>
    if o.phase ≠ .arrived ∨ o.progress ≠ 0 then s
    else match o.act with
    | some (.coll _) => s.collAccept c o
    | some (.lqput m) => match s.publish c m.tg.toNat o.got with
      | (some k, s) => s.failOp c o k
      | (none, s) => s.setOp c { o with progress := 1 }
    | _ => s

/-- R165: the data of an elastic load (cursor i), whole or part g of it, arrives; it lands when its count has run. The block of a
command is handed over once it is in (R314, R340, R411). -/
def execElasticDataArrives (g : Option Nat) (u : Upset) (s : State) : Out :=
  onCore s fun s =>
    let c := s.cur.core
    match (s.core c).op s.cur.i with
    | none => s
    | some o => match o.act, o.form with
      | some i, some f =>
        let ks := match g with | some k => [k] | none => o.arrived s.wall (s.core c).sched
        if f.acc = .load ∧ (s.core c).free_ o then s.loadParts c o.id i ks u
        else if f.acc = .command then
          (if (s.core c).free_ o then s.loadParts c o.id i ks u else s).handOver c o.id
        else s
      | _, _ => s

/-! ## CPY.FRES (R140) -/

/-- The paused command that a write of CPY.FRES names. -/
inductive Paused
  | cmd (core ch : Nat)
  | red (key : Nat)
  | coll (key : Nat)
  | none
deriving DecidableEq, Repr

/-- The oldest of a list by the time it paused. -/
def oldest {α : Type} (t : α → Nat) (l : List α) : Option α :=
  l.foldl (fun m x => match m with
    | some y => if t x < t y then some x else some y
    | none => some x) none

def State.matchFres (s : State) (p : Nat) (v : Word) : Paused :=
  let c := getF v 0 8
  let chan := getF v 8 4
  let eng := bitN v.toNat 12
  let tk := getF v 14 6
  let cmd := getF v 21 2
  if nCores ≤ c ∨ (s.core c).part ≠ p then .none
  else if cmd = 0 ∧ !eng then
    (match (s.core c).head chan with | some q => if q.paused && !q.bulk then .cmd c chan else .none | none => .none)
  else if cmd = 0 then
    let l := (List.range 16).filterMap fun ch => match (s.core c).head ch with
      | some q => if q.paused && q.bulk && q.m.tko.toNat == tk then some (ch, q.pausedAt) else none
      | none => none
    (match oldest (·.2) l with | some e => .cmd c e.1 | none => .none)
  else if cmd = 1 ∧ eng ∧ 8 ≤ chan ∧ tk = 0 then
    (match oldest (·.pausedAt) (s.reds.filter fun r => r.paused && r.core == c && r.stack == chan - 8) with
     | some r => .red r.key | none => .none)
  else if cmd = 2 ∧ eng ∧ chan = 0 ∧ tk = 0 then
    (match oldest (·.pausedAt) (s.colls.filter fun r => r.paused && r.core == c) with | some r => .coll r.key | none => .none)
  else .none

/-- A write of CPY.FRES sets MISS or clears it and resumes or abandons what it names. -/
def State.fres (s : State) (p : Nat) (v : Word) (abandon : Bool) : State :=
  let miss (s : State) (b : Bool) : State := s.ww (ppage p 0x2000) (if b then 0x100000 else 0)
  match s.matchFres p v with
  | .none => miss s true
  | .cmd c ch => match (s.core c).head ch with
    | none => s
    | some q => if abandon then (miss s false).abandonCmd c q else (miss s false).resumeCmd c q
  | .red k => match s.reds.find? fun r => r.key == k with
    | none => s
    | some r =>
      let s := miss s false
      let r := { r with paused := false, pauseCause := 0 }
      if abandon then (s.setRed r).redEnd r ccABANDONED 0
      else (let (d, s) := s.freeTime; s.setRed { r with due := s.wall + d })
  | .coll k => match s.colls.find? fun r => r.key == k with
    | none => s
    | some r =>
      let s := miss s false
      let r := { r with paused := false, pauseCause := 0 }
      if abandon then (s.setColl r).collEnd r ccABANDONED r.wrote else s.setColl r

/-- R140: a CPY.FRES write with ACTION 0. -/
def execCpyFresResume (p : Nat) (v : Word) (s : State) : Out := onItem p 16 s fun s => s.fres p v false
/-- R140: a CPY.FRES write with ACTION 1. -/
def execCpyFresAbandon (p : Nat) (v : Word) (s : State) : Out := onItem p 16 s fun s => s.fres p v true

/-- Kill reductions and collectives (R141): a reduction under way stops at its next boundary of 512 bytes; the
others complete now. -/
def State.killEngines (s : State) (reds : List Red) (colls : List Coll) : State :=
  let s : State := reds.foldl (fun s r =>
    if r.begun then s.setRed { r with kill := true } else s.redEnd r ccKILLED 0) s
  colls.foldl (fun s r => s.collEnd r ccKILLED r.wrote) s

end Sys2Proof.Machine
end

