-- ==== Sys2Proof/Machine/Profile.lean ====
section
/-! DEFINITION. The loop and event counters of a core and its trace records (R402, R427 to R429). -/
namespace Sys2Proof.Machine

open Sys2Proof

/-! ## Counters (R402, R427) -/

/-- A saturating sum. -/
def addSat (w : Word) (n : Nat) : Word := BitVec.ofNat 64 (min (2 ^ 64 - 1) (w.toNat + n))

/-- The loops that are active (R234). -/
def Core.activeLoops (c : Core) : List Nat := (List.range 4).filter fun n => c.loopCnt n != 0

/-- Add n to counter idx of the loops given and to the event counters that select it. -/
def Core.count (c : Core) (loops : List Nat) (idx n : Nat) : Core :=
  if n = 0 then c
  else
    let p := loops.foldl (fun p l => Sparse.set 0 p (64 * l + idx) (addSat (Sparse.get 0 p (64 * l + idx)) n)) c.prof
    (List.range 8).foldl (fun (c : Core) i =>
      if getF (c.rsr (0x1A0 + i)) 0 33 = 0x10000 + idx then c.wsr (0x1A8 + i) (addSat (c.rsr (0x1A8 + i)) n) else c)
      { c with prof := p }

/-- The class of a slot: 0 sa, 1 sb, 2 mx, 3 sc, 4 ca, 5 cb, 6 moves. -/
def slotClass (slot : Nat) : Nat := if slot < 7 then slot - 1 else 6
/-- The slots of a class. -/
def classSize (k : Nat) : Nat := if k = 6 then 8 else 1

/-- A schedule cycle is charged (R427): the slots of the bundle that issues in it, or none, and whether it carries WIT. -/
def Core.charge (c : Core) (loops slots : List Nat) (wit : Bool) : Core :=
  let filled (k : Nat) : Nat := slots.countP fun s => slotClass s == k
  let c := (List.range 7).foldl (fun (c : Core) k =>
    (c.count loops k (if wit then 0 else filled k)).count loops (8 + k) (classSize k - filled k)) c
  (c.count loops 24 (if wit then slots.length else 0)).count loops 25 1

/-- A wall cycle that is not a schedule cycle: frozen for a cause of R427, or swallowed (23). -/
def Core.lose (c : Core) (idx : Nat) : Core :=
  let c := { c with freeze := idx, frozen := if idx = 23 then c.frozen else c.frozen + 1
                    swallowed := if idx = 23 then c.swallowed + 1 else c.swallowed
                    wmCount := if idx ≠ 23 ∧ c.wmStop ≠ 0 then c.wmCount + 1 else c.wmCount }
  c.count c.activeLoops idx 1

/-! ## Trace (R428, R429) -/

/-- Stores of 8 bytes for a trace record, then its radd: whether all could be made. -/
def State.traceStores (s : State) (cx : Ctx) (base : Nat) : List (Nat × Word) → Bool × State
  | [] => match s.engineAdd cx false base 1 0 with
    | (.yes, s) => (true, s)
    | (_, s) => (false, s)
  | (a, w) :: r => match s.engineStore cx false a (bytesLE 8 w.toNat) with
    | (.yes, s) => State.traceStores s cx base r
    | (_, s) => (false, s)

/-- The buffer takes an entry: every word of it and the counter translate, with the permissions they need. -/
def State.traceOpen (s : State) (cx : Ctx) (base : Nat) (as : List Nat) : Bool × State :=
  let (r, s) := s.route cx { r := true, w := true } base
  as.foldl (fun (st : Bool × State) a =>
    if !st.1 then st else let (r, s) := st.2.route cx { w := true } a; (r.toOption.isSome, s)) (r.toOption.isSome, s)

/-- A trace record is dropped. -/
def Core.dropTrace (c : Core) : Core := c.wsr 0x198 (setF (c.rsr 0x198) 32 32 (min (2 ^ 32 - 1) (getF (c.rsr 0x198) 32 32 + 1)))

/-- A trace record performs: nothing of it where the buffer faults (R429). -/
def State.performTrace (s : State) (c : Nat) (t : TraceRec) : State :=
  let k := s.core c
  let cx := { s.ctx c with level := t.level, root := t.root, tag := t.tag }
  let buf := k.rsr 0x199
  let base := getF buf 3 52 * 8
  let a := base + 8 + 32 * (k.trcIdx % 2 ^ getF buf 55 4)
  let ws := (List.range 4).map fun j => (a + 8 * j, t.ws.getD j 0)
  match s.traceOpen cx base (ws.map (·.1)) with
  | (false, s) => s.modCore c Core.dropTrace
  | (true, s) => match s.traceStores cx base ws with
    | (true, s) => s.modCore c fun k => { k with trcIdx := k.trcIdx + 1 }
    | (false, s) => s.modCore c Core.dropTrace

/-- The oldest trace record of core c performs at a free time, or in this cycle where the core has stopped. -/
def State.traceStep (s : State) (c : Nat) : State :=
  match (s.core c).trcQ with
  | [] => s
  | t :: r =>
    let (b, s) := if (s.core c).on then s.coin else (true, s)
    if b then (s.modCore c fun k => { k with trcQ := r }).performTrace c t else s
/-- Trace records perform, in the order in which they were made (R429). -/
def State.traceSteps (s : State) : State := s.cores.foldl (fun s e => if e.2.trcQ.isEmpty then s else s.traceStep e.1) s

/-- Make a trace record of a kind, if it is enabled: it is to perform, or is dropped where 64 have yet to (R429). -/
def State.trace (s : State) (c kind cause addr : Nat) : State :=
  let k := s.core c
  if !bitN (k.rsr 0x198).toNat (kind - 1) then s
  else if 64 ≤ k.trcQ.length then s.modCore c Core.dropTrace
  else
    let ws := [BitVec.ofNat 64 (codeAddr addr), BitVec.ofNat 64 (kind + cause % 256 * 2 ^ 4 + c * 2 ^ 12), BitVec.ofNat 64 k.sched, s.time]
    s.modCore c fun k => { k with trcQ := k.trcQ ++ [{ ws := ws, level := k.level, root := k.rsr 0x082, tag := getF (k.rsr 0x083) 0 4 }] }

end Sys2Proof.Machine
end

