-- ==== Sys2Proof/Machine/Records.lean ====
section
/-! DEFINITION. Unfinished-operation records and save areas (R352 to R354, R359, R360, R366, R439, R440): their bytes, the
capture of a core's operations, the reading back of a record section, and the memory of an area. -/
namespace Sys2Proof.Machine

open Sys2Proof

/-! ## Bytes -/

/-- n bytes of a map from place a on. -/
def slice (m : Sparse Byte) (a n : Nat) : Sparse Byte := m.filterMap fun e => if a ≤ e.1 ∧ e.1 < a + n then some (e.1 - a, e.2) else none
/-- A map moved up by k. -/
def shiftUp {α : Type} (m : Sparse α) (k : Nat) : Sparse α := m.map fun e => (e.1 + k, e.2)
/-- The entries below n. -/
def clip {α : Type} (m : Sparse α) (n : Nat) : Sparse α := m.filter fun e => decide (e.1 < n)

/-- Bytes to be laid down: how many, and the map of those that are not zero. -/
abbrev Blob := Nat × Sparse Byte
/-- Blobs one after another. -/
def blobCat : List Blob → Blob
  | [] => (0, [])
  | b :: bs => let r := blobCat bs; (b.1 + r.1, clip b.2 b.1 ++ shiftUp r.2 b.1)
/-- A little-endian number of n bytes. -/
def numBlob (n v : Nat) : Blob := (n, Sparse.ofFn 0 n fun k => BitVec.ofNat 8 (v / 2 ^ (8 * k)))
def wordBlob (w : Word) : Blob := numBlob 8 w.toNat
/-- The image of a vector (R171), of a mask, of the elements of a map. -/
def vecBlob (v : Vec) : Blob := (4096, Vec.image v)
def maskBlob (k : BitVec 1024) : Blob := numBlob 128 k.toNat
def elemBlob (n : Nat) (m : Sparse Elem) : Blob := (4 * n, Vec.image m)
/-- n zero bytes. -/
def zeroBlob (n : Nat) : Blob := (n, [])

/-- The word at a place. -/
def wordAt (m : Sparse Byte) (a : Nat) : Word := BitVec.ofNat 64 (natLE (Sparse.bytes m a 8))
/-- The number of n bytes at a place. -/
def numAt (m : Sparse Byte) (a n : Nat) : Nat := natLE (Sparse.bytes m a n)
/-- The elements of an image. -/
def elemsOf : Sparse Byte → Sparse Elem
  | [] => []
  | (k, b) :: m =>
    let e : Elem := (b.setWidth 32) <<< (8 * (k % 4))
    match elemsOf m with
    | (j, x) :: r => if j = k / 4 then (j, x ||| e) :: r else (k / 4, e) :: (j, x) :: r
    | [] => [(k / 4, e)]

/-! ## Images of the array (R439) -/

/-- The image of a stage slot; a push's image has no scales and indices, and one stopped at its own issue only its addresses. -/
def slotImage (push : Bool) (q : StageSlot) : Blob :=
  let byte (n : Nat) : Blob := numBlob 1 n
  let none_ : Bool := push || q.width == 0
  blobCat [(1024, q.a), (1024, q.b),
    if none_ then zeroBlob 128 else (128, Sparse.ofFn 0 128 fun i => Sparse.get 0x7F q.sa i),
    if none_ then zeroBlob 128 else (128, Sparse.ofFn 0 128 fun i => Sparse.get 0x7F q.sb i),
    if none_ then zeroBlob 256 else (256, q.idx), numBlob 2 q.tag, byte q.width, byte q.fa.code, byte q.fb.code, byte q.p,
    byte (b2n q.sp), byte q.seg, zeroBlob 248]

/-- The slot of an image. -/
def imageSlot (m : Sparse Byte) : StageSlot :=
  let at_ (k : Nat) : Nat := (Sparse.get 0 m k).toNat
  { a := slice m 0 1024, b := slice m 1024 1024
    sa := Sparse.ofFn 0x7F 128 fun i => Sparse.get 0 m (2048 + i), sb := Sparse.ofFn 0x7F 128 fun i => Sparse.get 0 m (2176 + i)
    idx := slice m 2304 256, tag := numAt m 2560 2, width := at_ 2562
    fa := (ArrFmt.ofCode (at_ 2563)).getD .e4m3, fb := (ArrFmt.ofCode (at_ 2564)).getD .e4m3, p := at_ 2565 % 8
    sp := at_ 2566 % 2 == 1, seg := at_ 2567 % 64 }

/-- The array section (R439). -/
def Core.arrayBlob (c : Core) : Blob :=
  let m := c.mx
  blobCat ([elemBlob 16384 m.p, elemBlob 128 m.rc, elemBlob 128 m.cc, elemBlob 128 m.mr, elemBlob 128 m.mc, vecBlob m.syn, zeroBlob 0x800] ++
    ((List.range 4).flatMap fun i => [slotImage false (c.slot i), zeroBlob 1280]) ++
    [numBlob 8 m.cls, wordBlob (c.rsr rPSTART), wordBlob (c.rsr rFAILADDR), wordBlob (c.rsr rRETRY), wordBlob (c.rsr rMSTAT),
     wordBlob (c.rsr rSMAP), wordBlob (c.rsr rSEG), numBlob 8 m.beats, numBlob 8 (b2n m.claim), zeroBlob 0xB8] ++
    ((List.range 16).map fun i => wordBlob (m.snapAg.getD i 0)) ++
    ((List.range 16).map fun i => if i % 4 = 3 then zeroBlob 8 else wordBlob (m.snapLoop.getD (3 * (i / 4) + i % 4) 0)))

/-- The bits of a system register that can read as other than zero (R239, R265, R267, R273, R280, R341, R358). -/
def sysBits (i : Nat) : Word :=
  if (0x010 ≤ i ∧ i ≤ 0x017) ∨ i = 0x019 then sysMask i ||| maskHL 63 11
  else if i = 0x0C1 then maskHL 4 0 ||| maskHL 30 8 ||| maskHL 38 32 ||| maskHL 47 40
  else if i = 0x0C2 then 0x1 ||| maskHL 54 2
  else if i = 0x0C3 ∨ i = 0x103 then maskHL 54 2
  else if i = 0x0C4 ∨ i = 0x100 then 0x1FF
  else if i = 0x0C5 ∨ i = 0x160 then BitVec.allOnes 64
  else if i = 0x101 then 0xFFFF
  else if i = 0x0C6 then 0x3FF
  else if i = 0x102 ∨ i = 0x161 then 0x1FFFF
  else if i = 0x181 then 0xFF
  else sysMask i

/-- Restore the array from its section. -/
def Core.setArray (c : Core) (m : Sparse Byte) : Core :=
  let w (o : Nat) : Word := wordAt m (0x16000 + o)
  let x : MxState :=
    { p := elemsOf (slice m 0 0x10000), rc := elemsOf (slice m 0x10000 0x200), cc := elemsOf (slice m 0x10200 0x200)
      mr := elemsOf (slice m 0x10400 0x200), mc := elemsOf (slice m 0x10600 0x200), syn := elemsOf (slice m 0x10800 0x1000)
      slots := (List.range 4).map fun i => imageSlot (slice m (0x12000 + 0x1000 * i) 2816)
      cls := getF (w 0) 0 8, beats := getF (w 0x38) 0 32, claim := bitN (w 0x40).toNat 0
      snapAg := (List.range 16).map fun i => w (0x100 + 8 * i)
      snapLoop := (List.range 12).map fun k => w (0x180 + 8 * (4 * (k / 3) + k % 3)) }
  [(rPSTART, 0x08), (rFAILADDR, 0x10), (rRETRY, 0x18), (rMSTAT, 0x20), (rSMAP, 0x28), (rSEG, 0x30)].foldl
    (fun (c : Core) e => c.wsr e.1 (w e.2 &&& sysBits e.1)) { c with mx := x }

/-! ## Records (R352, R353) -/

/-- A record. -/
structure Rec where
  kind : Nat
  slot : Nat
  fault : Bool
  cause : Nat
  unit : Nat
  remain : Nat
  act : Option Instr
  addr : Nat
  progress : Nat
  cls : Nat
  resv : Nat
  dest : Nat
  dspace : Bool
  pay : Blob
deriving DecidableEq, Repr

/-- The payload length in bytes of a memory-slot form; none for a form that leaves no record. -/
def memLen : Instr → Option Nat
  | .cwait .. | .wpwait .. => some 8
  | .fence .. | .gopen _ | .gcommit _ | .gabort _ | .tlbiall => some 0
  | .cpy _ | .cpy2d _ | .cpyg _ | .pref _ | .ipref _ => none
  | .stb _ | .sth _ | .stw _ | .std _ => some 16
  | .vst _ => some 4104 | .vst16 _ => some 24 | .vst32 _ => some 40
  | .vgath _ | .vscat _ | .vlut _ | .vlst _ => some 8200
  | i => match memForm i with
    | some f => some (if f.acc = .atomic then 24 else 8)
    | none => none

/-- The payload length of a value by its destination. -/
def valueLen (dspace : Bool) (dest : Nat) : Option Nat :=
  if dspace then (if 0x140 ≤ dest ∧ dest ≤ 0x146 then some 4096 else none)
  else if dest < 0x100 then some 4096
  else if dest < 0x140 then some 8
  else if (Latch.ofCode dest).isSome then some 4096
  else if 0x1F0 ≤ dest ∧ dest < 0x200 then some 128 else none

/-- The payload length of a record by its kind and instruction (R353); none where there is no such record. -/
def payLen (kind : Nat) (act : Option Instr) (dspace : Bool) (dest : Nat) : Option Nat :=
  match kind, act with
  | 1, some i => match Instr.recKind i with | 1 => some 24 | _ => none
  | 2, some i => match Instr.trigger i with
    | some (_, u) => some (4096 * u.latches.length + (if u = .wc then 8 else 0))
    | none => match i with
      | .move _ (.k _) => some 128
      | .move _ _ => some 4096
      | _ => none
  | 3, some i => if Instr.recKind i = 3 then memLen i else none
  | 4, some i => if Instr.recKind i ≠ 4 then none else match i with
    | .push .. | .acc .. => some 2816
    | .accp .. | .shift .. => some 5632
    | .dchk | .drain .. | .mloc _ => some 4096
    | .mfix .. => some 8
    | _ => some 0
  | 5, some i => if Instr.recKind i = 5 then some (scLen i).1 else none
  | 6, none => valueLen dspace dest
  | _, _ => none

/-- The payload of an operation. -/
def Op.payload (o : Op) : Blob :=
  match o.act with
  | none =>
    if o.dspace || o.dest < 0x100 then vecBlob (o.vs.getD 0 [])
    else if o.dest < 0x140 then wordBlob (o.ws.getD 0 0)
    else if o.dest < 0x1F0 then vecBlob (o.vs.getD 0 [])
    else maskBlob (Vec.mask (o.vs.getD 0 []))
  | some i => match Instr.recKind i with
    | 1 => blobCat ((List.range 3).map fun k => wordBlob (o.ws.getD k 0))
    | 2 => match Instr.trigger i with
      | some (_, u) => blobCat ((o.vs.take u.latches.length).map vecBlob ++ (if u = .wc then [wordBlob (o.ws.getD 0 0)] else []))
      | none => match i with
        | .move _ (.k _) => maskBlob (Vec.mask (o.vs.getD 0 []))
        | _ => vecBlob (o.vs.getD 0 [])
    | 3 => match i with
      | .fence .. | .gcommit _ | .gabort _ | .tlbiall => zeroBlob 0
      | .stb _ | .sth _ | .stw _ | .std _ => blobCat [wordBlob (o.ws.getD 0 0), wordBlob (o.ws.getD 1 0)]
      | .vst _ => blobCat [wordBlob (o.ws.getD 0 0), (4096, o.bs)]
      | .vst16 _ => blobCat [wordBlob (o.ws.getD 0 0), (16, o.bs)]
      | .vst32 _ => blobCat [wordBlob (o.ws.getD 0 0), (32, o.bs)]
      | .vgath _ | .vscat _ | .vlut _ | .vlst _ => blobCat [wordBlob (o.ws.getD 0 0), vecBlob (o.vs.getD 0 []), vecBlob (o.vs.getD 1 [])]
      | i => match memForm i with
        | some f => if f.acc = .atomic then blobCat ((List.range 3).map fun k => wordBlob (o.ws.getD k 0)) else wordBlob (o.ws.getD 0 0)
        | none => wordBlob (o.ws.getD 0 0)
    | 4 => match i with
      | .push .. => slotImage true (o.imgs.getD 0 {})
      | .acc .. => slotImage false (o.imgs.getD 0 {})
      | .accp .. => blobCat [slotImage false (o.imgs.getD 0 {}), slotImage true (o.imgs.getD 1 {})]
      | .shift .. => blobCat [slotImage false (o.imgs.getD 0 {}), slotImage false (o.imgs.getD 1 {})]
      | .dchk | .drain .. | .mloc _ => vecBlob (o.vs.getD 0 [])
      | .mfix .. => wordBlob (o.ws.getD 0 0)
      | _ => zeroBlob 0
    | 5 => (o.bytes, clip o.bs o.bytes)
    | _ => zeroBlob 0

/-- The remaining count of an operation at stop cycle t; a reserved elastic qld keeps its L (R177). -/
def Op.remain (o : Op) (t : Nat) : Nat :=
  match o.act, o.form with
  | some (.qld _), some f => if f.sp.det then o.land - t else f.land
  | _, _ => min 65535 (o.land - t)

/-- The record of an operation. -/
def Op.record (o : Op) (t : Nat) : Rec :=
  { kind := match o.act with | some i => Instr.recKind i | none => 6
    slot := if o.act.isNone then 0 else o.slot, fault := o.fault, cause := if o.fault then o.cause else 0
    unit := match o.act with | some i => Instr.unitCode i | none => 0
    remain := o.remain t, act := o.act, addr := if o.act.isNone then 0 else codeAddr o.addr
    progress := match o.act, o.form with
      | some (.accp ..), _ => o.progress % 2
      | _, some f => if f.acc = .store then o.progress else 0
      | _, _ => 0
    cls := o.ordClass.getD o.cls, resv := min 16 (o.resvEnd - t)
    dest := match o.act with | some (.srwr ..) | some (.srset ..) | some (.srclr ..) | some (.gsres _) | some .gsend => 0x100 | _ => o.dest
    dspace := o.dspace, pay := o.payload }

/-- A deferred write that an operation which has performed leaves. -/
def Op.deferred (o : Op) (dest : Nat) (w : Word) : Op :=
  { id := o.id, act := none, land := o.land, dest := dest, ws := [w] }

/-- A part of a store has performed: it is done, or its window's port has taken its bytes. -/
def Piece.over (q : Piece) : Bool := q.done || (q.granted && q.counted)
/-- A store that stops: a part that a window's port has granted, its bytes not yet taken, has not performed (R182). -/
def Op.ungranted (o : Op) (f : Form) : Op :=
  if o.pieces.any fun q => q.granted && !q.counted then
    let o := { o with pieces := o.pieces.map fun (q : Piece) => if q.counted then q else { q with granted := false } }
    { o with progress := o.reach f }
  else o

/-- What an operation leaves at a stop (R349, R355): nothing once it has performed and lands nothing; deferred writes for an atomic
that has performed, which may not perform twice; its own record otherwise. -/
def Op.remnants (o : Op) : List Op :=
  match o.act with
  | some (.pref _) | some (.ipref _) => []
  | some (.red _) | some (.coll _) | some (.lqput _) => if o.progress = 1 then [] else [o]
  | some (.rwait _) => [o]
  | some i => match memForm i with
    | some f =>
      if f.acc = .atomic && o.phase == .arrived && !o.fault then
        let w : Word := BitVec.ofNat 64 (natLE (Sparse.bytes o.got 0 f.bytes))
        match i with
        | .afaddbW _ | .afaddbD _ => [o.deferred o.dest w, o.deferred (o.dest + 1) (BitVec.ofNat 64 o.progress)]
        | _ => [o.deferred o.dest w]
      else if f.acc ≠ .store then [o]
      else if !o.fault && !o.pieces.isEmpty && o.pieces.all Piece.over then []
      else [o.ungranted f]
    | none => [o]
  | none => [o]

/-- The records of a core at stop cycle t, in record order (R352). -/
def Core.capture (c : Core) (t : Nat) : List Rec := (c.pipe.flatMap Op.remnants).map fun o => o.record t

/-- The bytes of a record. -/
def Rec.blob (r : Rec) : Blob :=
  blobCat
    [ numBlob 8 (r.kind + r.slot * 2 ^ 4 + b2n r.fault * 2 ^ 8 + r.cause * 2 ^ 16 + r.unit * 2 ^ 24 + r.remain * 2 ^ 32 + r.pay.1 / 8 * 2 ^ 48)
    , numBlob 8 (match r.act with | some i => encode i | none => 0)
    , numBlob 8 r.addr
    , numBlob 8 (r.progress % 2 ^ 32 + r.cls * 2 ^ 32 + r.resv * 2 ^ 36 + r.dest * 2 ^ 48 + b2n r.dspace * 2 ^ 57)
    , r.pay ]

/-! ## Reading a record section (R366) -/

/-- The instruction of a record's OPWORD in its slot. -/
def recAct (kind slot opw : Nat) : Option Instr :=
  if slot = 0 ∨ slot = 7 ∨ 15 < slot ∨ 2 ^ (8 * (slotKind slot).bytes) ≤ opw then none
  else match decodeSlot (slotKind slot) opw with
    | .ok i => if Instr.recKind i = kind then some i else none
    | .error _ => none

/-- The record at the start of some bytes, if it is valid, and its length. -/
def readRec (m : Sparse Byte) : Option (Rec × Nat) :=
  let w0 := numAt m 0 8
  let opw := numAt m 8 8
  let w2 := numAt m 16 8
  let w3 := numAt m 24 8
  let kind := fldN w0 0 4
  let slot := fldN w0 4 4
  let act := if kind = 6 then none else recAct kind slot opw
  let dspace := bitN w3 57
  let dest := fldN w3 48 9
  let len := 8 * fldN w0 48 16
  let zeros := fldN w0 10 6 == 0 && fldN w2 0 2 == 0 && fldN w2 55 9 == 0 && fldN w3 41 7 == 0 && fldN w3 58 6 == 0
    && (kind != 6 || (slot == 0 && opw == 0 && w2 == 0))
  let early : Bool := match act with | some (.accp ..) => !bitN w3 0 && decide (fldN w0 32 16 < 2) | _ => false
  if kind = 0 ∨ 6 < kind ∨ 1 < fldN w0 8 2 ∨ !zeros ∨ (kind ≠ 6 ∧ act.isNone) ∨ payLen kind act dspace dest != some len ∨ early then none
  else some ({ kind := kind, slot := slot, fault := fldN w0 8 2 == 1, cause := fldN w0 16 8, unit := fldN w0 24 8
               remain := fldN w0 32 16, act := act, addr := w2, progress := fldN w3 0 32, cls := fldN w3 32 4
               resv := fldN w3 36 5, dest := dest, dspace := dspace, pay := (len, slice m 32 len) }, 32 + len)

/-- The records of a section of n bytes, or the number of the first invalid one; idx numbers the record under way. -/
def readRecs (m : Sparse Byte) (n : Nat) : Nat → Nat → Nat → Except Nat (List Rec)
  | 0, off, idx => if off = n then .ok [] else .error idx
  | k + 1, off, idx =>
    if n < off + 32 then .error idx
    else match readRec (slice m off (n - off)) with
      | none => .error idx
      | some (r, len) =>
        if n < off + len then .error idx
        else match readRecs m n k (off + len) (idx + 1) with
          | .error j => .error j
          | .ok rs => .ok (r :: rs)

/-! ## The memory of an area (R359, R361, R362) -/

/-- Where a save area lies: at device physical addresses after stage 2, of a partition for a core (R332), or in virtual memory of a
context. -/
inductive Area
  | phys (part core : Nat)
  | virt (cx : Ctx)
deriving DecidableEq, Repr

/-- The request by which the memory of an area is accessed for a core; one that is made for no core (0xFF) names die 0. -/
def Area.req : Area → Req
  | .phys p c => { core := c, part := p, root := false, die := if c < 128 then dieOf c else 0 }
  | .virt cx => cx.req

/-- The physical address of an address of an area, or the cause that keeps it from being used. -/
def State.areaAddr (s : State) (w : Area) (write : Bool) (a : Nat) : Except Nat Nat × State :=
  match w with
  | .phys .. => match s.admits w.req a with
    | (true, s) => (.ok a, s)
    | (false, s) => (.error cDATA_ABORT, s)
  | .virt cx => match s.route cx (if write then { w := true } else { r := true }) a with
    | (.error k, s) => (.error k, s)
    | (.ok (.main _ _, pa, _), s) => match s.admits cx.req pa with
      | (true, s) => (.ok pa, s)
      | (false, s) => (.error cDATA_ABORT, s)
    | (.ok _, s) => (.error cDATA_ABORT, s)

/-- Write back and invalidate the lines of n bytes at a. -/
def State.evictRange (s : State) (a n : Nat) : State :=
  (s.l2.filter fun l => decide (l.line * 128 < a + n) && decide (a < l.line * 128 + 128)).foldl (fun s l => match s.lineOf l.line with
    | some l => s.evict l
    | none => s) s

/-- The granules of n bytes at pa are counted at their page (R86). -/
def State.countRange (s : State) (pa n : Nat) : State :=
  { s with hot := (splitAt 65536 pa n).foldl (fun h e =>
      let k := (pa + e.1) / 65536
      Sparse.set 0 h k (min 65535 (Sparse.get 0 h k + (splitAt 512 (pa + e.1) e.2).length))) s.hot }

/-- The sectors of n bytes at pa that a write covers in part and that fail: they refuse their part (R80). -/
def State.refusing (s : State) (pa n : Nat) : List Nat :=
  s.bad.filter fun b => decide (b * 32 < pa + n) && decide (pa < b * 32 + 32) && !(decide (pa ≤ b * 32) && decide (b * 32 + 32 ≤ pa + n))

/-- Write n bytes of main memory at pa, each sector by R80; false where a sector refused its part, and each that did is recorded. -/
def State.putRange (s : State) (r : Req) (pa n : Nat) (m : Sparse Byte) : Bool × State :=
  let s := ((s.evictRange pa n).countRange pa n).correct r false pa n
  let stuck := s.refusing pa n
  let old := stuck.map fun b => (b, Sparse.bytes s.mem (b * 32) 32)
  let s := { s with mem := Sparse.splice 0 s.mem pa (pa + n) (shiftUp m pa), bad := s.bad.filter fun b => !(decide (pa ≤ b * 32) && decide (b * 32 + 32 ≤ pa + n)) }
  let s := old.foldl (fun s e => { s with mem := Sparse.setBytes s.mem (e.1 * 32) e.2 }) s
  let s := s.wake (.main 0 false) pa n (s.gran false)
  (stuck.isEmpty, stuck.foldl (fun s b => s.failRecord r false (b * 32)) s)

/-- Read n bytes of main memory at pa; none where a sector fails verification. -/
def State.takeRange (s : State) (r : Req) (pa n : Nat) : Option (Sparse Byte) × State :=
  let s := ((s.evictRange pa n).countRange pa n).correct r false pa n
  match s.bad.find? fun b => decide (b * 32 < pa + n) && decide (pa < b * 32 + 32) with
  | some b => (none, s.failRecord r false (b * 32))
  | none => (some (slice s.mem pa n), s)

/-- Write a blob to an area, 64 KiB page by page; the cause of the first access that could not be made. -/
def State.storeArea (s : State) (w : Area) (a : Nat) (b : Blob) : Option Nat × State :=
  (splitAt 65536 a b.1).foldl (fun (st : Option Nat × State) e =>
    match st with
    | (some k, s) => (some k, s)
    | (none, s) => match s.areaAddr w true (a + e.1) with
      | (.error k, s) => (some k, s)
      | (.ok pa, s) => match s.putRange w.req pa e.2 (slice b.2 e.1 e.2) with
        | (false, s) => (some cDATA_ABORT, s)
        | (true, s) => (none, s)) (none, s)

/-- Read n bytes of an area. -/
def State.loadArea (s : State) (w : Area) (a n : Nat) : Except Nat (Sparse Byte) × State :=
  (splitAt 65536 a n).foldl (fun (st : Except Nat (Sparse Byte) × State) e =>
    match st with
    | (.error k, s) => (.error k, s)
    | (.ok m, s) => match s.areaAddr w false (a + e.1) with
      | (.error k, s) => (.error k, s)
      | (.ok pa, s) => match s.takeRange w.req pa e.2 with
        | (none, s) => (.error cDATA_ABORT, s)
        | (some d, s) => (.ok (m ++ shiftUp d e.1), s)) (.ok [], s)

/-- The words of arrays that a save reads (array, place, length; R79): each is verified, and an upset of one bit corrected; none of them is
passed on where one of them cannot be (R82, R83; log entry 84). -/
def State.readSaved (s : State) (c : Nat) (rs : List (Nat × Nat × Nat)) : Bool × State :=
  rs.foldl (fun (st : Bool × State) r =>
    let (ok, s) := st.2.arrayRead c r.1 [r.2]
    (st.1 && ok, s)) (true, s)

/-- Write parts (offset, blob) of an area in order, up to the first that fails. -/
def State.storeParts (s : State) (w : Area) (a : Nat) (ps : List (Nat × Blob)) : Option Nat × State :=
  ps.foldl (fun (st : Option Nat × State) p =>
    match st with
    | (some k, s) => (some k, s)
    | (none, s) => s.storeArea w (a + p.1) p.2) (none, s)

/-! ## Channel remainders (R142, R359) -/

/-- The words of a command. -/
def Cmd.words (q : Cmd) : List Nat :=
  let dep (i : Nat) : Nat := match q.deps[i]? with | some (ch, n) => 1 + ch * 2 ^ 1 + n * 2 ^ 8 | none => 0
  [ 2 ^ 63 + q.kind + q.level.rank * 2 ^ 2 + b2n q.depBad * 2 ^ 4 + q.phase * 2 ^ 5 + q.code * 2 ^ 8 + b2n q.fails * 2 ^ 16
      + b2n q.abandoned * 2 ^ 17 + b2n q.kill * 2 ^ 18 + b2n q.paused * 2 ^ 19 + b2n (!q.after.isEmpty || q.held) * 2 ^ 20
  , encode (match q.kind with | 0 => .cpy q.m | 1 => .cpy2d q.m | _ => .cpyg q.m)
  , q.dst.toNat, q.src.toNat, q.reg 0, q.reg 1, q.reg 2, q.reg 3, q.stat.toNat, q.ring.toNat, q.seq, q.root.toNat
  , dep 0, dep 1, dep 2, q.progress, match q.idx with | some i => i + 1 | none => 0 ]

/-- The command of 32 words, if there is one. -/
def Cmd.ofWords (w : Nat → Nat) : Option Cmd :=
  let h := w 0
  if !bitN h 63 then none
  else
    let args := match decodeSlot .mem (w 1) with
      | .ok (.cpy m) => some m | .ok (.cpy2d m) => some m | .ok (.cpyg m) => some m | _ => none
    args.map fun m =>
      let word (i : Nat) : Word := BitVec.ofNat 64 (w i)
      { kind := fldN h 0 2, m := m, dst := word 2, src := word 3, n := [word 4, word 5, word 6, word 7].take (match fldN h 0 2 with | 0 => 1 | 1 => 4 | _ => 3)
        stat := word 8, ring := word 9, seq := w 10
        level := match fldN h 2 2 with | 0 => .user | 1 => .partition | _ => .root
        root := word 11
        deps := (upto 12 3).filterMap fun i => if bitN (w i) 0 then some (fldN (w i) 1 7, w i / 2 ^ 8) else none
        held := bitN h 20, depBad := bitN h 4, phase := fldN h 5 3, code := fldN h 8 8, progress := w 15
        idx := if w 16 = 0 then none else some (w 16 - 1), fails := bitN h 16, abandoned := bitN h 17, kill := bitN h 18
        suspended := true, paused := bitN h 19 }

/-- The channel-remainder section: eight places of 256 bytes a channel, then the tokens. -/
def Core.channelBlob (c : Core) : Blob :=
  let cmd (q : Option Cmd) : Blob := match q with
    | some q => blobCat (q.words.map (numBlob 8) ++ [zeroBlob (256 - 8 * 17)])
    | none => zeroBlob 256
  let tok (t : Token) : Blob := numBlob 8 (b2n t.pend + 2 * b2n t.fail + t.ch * 2 ^ 8 + t.seq * 2 ^ 16)
  blobCat (((List.range 16).flatMap fun ch => (List.range 8).map fun i => cmd (c.chan ch)[i]?) ++ (List.range 64).map fun t => tok (c.token t))

/-- The channels and tokens of a section; a command waits for the accesses for which it waited (R131). -/
def Core.setChannels (c : Core) (m : Sparse Byte) : Core :=
  let was (ch : Nat) (q : Cmd) : Cmd := { q with after := ((c.chan ch).find? fun p => p.seq == q.seq).elim [] (·.after) }
  let c := (List.range 16).foldl (fun (c : Core) ch =>
    c.setChan ch (((List.range 8).filterMap fun i => Cmd.ofWords fun k => numAt m (2048 * ch + 256 * i + 8 * k) 8).map (was ch))) c
  { c with tokens := (List.range 64).foldl (fun t n =>
      let w := numAt m (0x8000 + 8 * n) 8
      Sparse.set {} t n { pend := bitN w 0, fail := bitN w 1, ch := fldN w 8 8, seq := w / 2 ^ 16 }) [] }

/-! ## The sections of an area (R359, R439, R440) -/

/-- The units of +0x2210 in order, and the dividers. -/
def vunits : List VUnit := [.va0, .va1, .vp, .sf, .cv, .wc, .ap]

/-- The third group of the context registers (R440). -/
def Core.thirdBlob (c : Core) : Blob :=
  let pend (i : Nat) : Blob := match c.pend[i]? with
    | some (t, n) => numBlob 8 (1 + 2 * b2n (decide (n ≤ 1)) + codeAddr t)
    | none => zeroBlob 8
  let busy (k : Nat) : Nat := Sparse.get 0 c.unitEnd k - c.sched
  let bits (q : List QEntry) (f : QEntry → Bool) : Nat := ((List.range 8).map fun e => match q[e]? with
    | some x => b2n (f x) * 2 ^ e | none => 0).sum
  blobCat ([pend 0, pend 1, numBlob 8 ((List.range 7).map fun i => min 3 (busy i) * 2 ^ (8 * i)).sum,
    numBlob 8 (min 17 (busy 8) + min 17 (busy 9) * 2 ^ 8)] ++
    (List.range 4).map fun n => let q := c.queue n
      numBlob 8 (q.length + bits q (·.filled) * 2 ^ 8 + bits q (fun e => e.spm && !e.filled) * 2 ^ 16))

/-- Pending transfers and busy remainders from the third group, run from now. -/
def Core.setThird (c : Core) (m : Sparse Byte) : Core :=
  let p (i : Nat) : List (Nat × Nat) := let w := numAt m (8 * i) 8
    if bitN w 0 then [(codeAddr w, if bitN w 1 then 1 else 2)] else []
  let u := (List.range 7).map (fun i => (i, numAt m (16 + i) 1)) ++ [(8, numAt m 24 1), (9, numAt m 25 1)]
  { c with pend := p 0 ++ p 1
           unitEnd := u.foldl (fun e x => Sparse.set 0 e x.1 (if x.2 = 0 then 0 else c.sched + x.2)) [] }

/-- The queues of a full save: entries from the queue section and the state of the third group; a reserved entry keeps the number of the
operation that reserved it (old are the queues as they were saved). -/
def setQueues (old : List (List QEntry)) (third data : Sparse Byte) : List (List QEntry) :=
  (List.range 4).map fun n =>
    let w := numAt third (32 + 8 * n) 8
    (List.range (min 8 (fldN w 0 4))).map fun e =>
      { op := match (old.getD n [])[e]? with | some q => q.op | none => 0, spm := bitN w (16 + e), filled := bitN w (8 + e), data := slice data (0x8000 * n + 0x1000 * e) 4096 }

/-- The latch file. -/
def Core.latchBlob (c : Core) : Blob :=
  blobCat (((List.range 17).map fun i => vecBlob (c.rLatch (0x140 + i))) ++ ((List.range 7).map fun i => vecBlob (c.rRes (0x140 + i)))
    ++ (List.range 16).map fun n => maskBlob (c.rk n))
def Core.setLatches (c : Core) (m : Sparse Byte) : Core :=
  let c := (List.range 17).foldl (fun (c : Core) i => c.wLatch (0x140 + i) (elemsOf (slice m (0x1000 * i) 4096))) c
  let c := (List.range 7).foldl (fun (c : Core) i => c.wRes (0x140 + i) (elemsOf (slice m (0x11000 + 0x1000 * i) 4096))) c
  (List.range 16).foldl (fun (c : Core) n => c.wk n (BitVec.ofNat 1024 (numAt m (0x18000 + 128 * n) 128))) c

/-- The header from 0x010 on (R360). -/
structure AreaHead where
  form : Nat
  nest : Bool
  cause : Nat
  rpoint : Nat
  idle : Nat
  nrec : Nat
  rbytes : Nat
deriving DecidableEq, Repr
def State.headBlob (s : State) (c : Nat) (h : AreaHead) : Blob :=
  let k := s.core c
  blobCat [numBlob 8 (codeAddr h.rpoint), numBlob 8 (h.idle % 64), wordBlob (k.rsr 0x101), wordBlob (k.rsr 0x102), wordBlob (k.rsr 0x103),
    numBlob 8 h.nrec, numBlob 8 h.rbytes, wordBlob k.stopAt, numBlob 8 (c % 128 + k.lpos % 128 * 2 ^ 8), wordBlob (k.rsr 0x160)]
/-- The COMMIT word. -/
def AreaHead.commit (h : AreaHead) (v : Bool) : Blob := numBlob 8 (b2n v + h.form * 2 + b2n h.nest * 2 ^ 3 + h.cause % 256 * 2 ^ 8)

/-- The system registers of the context section: slot i holds register i, the slot of CNTRD.HI the shadow; 0x0C1 to 0x0C6 are left to the array section. -/
def State.sysBlob (s : State) (c a n : Nat) : Blob :=
  blobCat ((upto a n).map fun i => wordBlob (s.sysRead c i))

/-- The sections of a full save but for the header and the records. -/
def State.fullParts (s : State) (c : Nat) : List (Nat × Blob) :=
  let k := s.core c
  [ (0x1000, s.sysBlob c 0 0xC1), (0x1638, s.sysBlob c 0xC7 (0x1C0 - 0xC7))
  , (0x3000, blobCat ((List.range 64).map fun n => wordBlob (k.rx n))), (0x3200, k.thirdBlob)
  , (0x10000, k.latchBlob)
  , (0x30000, blobCat ((List.range 4).flatMap fun n => (List.range 8).map fun e => match (k.queue n)[e]? with
      | some q => (4096, clip q.data 4096) | none => zeroBlob 4096))
  , (0x50000, k.arrayBlob), (0x80000, blobCat ((List.range 256).map fun n => vecBlob (k.rv n)))
  , (0x180000, elemBlob 393216 k.acc), (0x300000, (0x400000, k.spm)), (0x700000, (0x80000, k.lane)), (0x780000, k.channelBlob) ]

/-- The sections of an in-place save (R356). -/
def State.inplaceParts (s : State) (c : Nat) : List (Nat × Blob) :=
  let k := s.core c
  [ (0x1100, s.sysBlob c 0x20 32), (0x10C0, wordBlob (k.rsr 0x018))
  , (0x31C0, blobCat ((upto 56 8).map fun n => wordBlob (k.rx n))), (0x3200, k.thirdBlob)
  , (0x10000, k.latchBlob), (0x30000, blobCat ((upto 248 8).map fun n => vecBlob (k.rv n)))
  , (0x38000, (0x10000, slice k.spm 0x2F0000 0x10000)) ]

/-- An entry of a waymark table (R328): the live registers, tiles and scratchpad ranges. -/
structure Live where
  v : Nat
  x : Nat
  acc : Nat
  spm : List (Nat × Nat)
deriving DecidableEq, Repr

/-- A range of the scratchpad that a waymark table lists is saved and restored; one that runs past the scratchpad's 4 MiB, which lomas refuses
(R41), is left out of both (DESIGN CHOICE, log entry 113). -/
def Live.ranges (l : Live) : List (Nat × Nat) := l.spm.filter fun r => decide (r.1 + r.2 ≤ 0x400000)
/-- The sections of a waymark save (R337, R359): the listed live state, the context registers and the channel remainders. -/
def State.waymarkParts (s : State) (c : Nat) (l : Live) : List (Nat × Blob) :=
  let k := s.core c
  [ (0x1000, s.sysBlob c 0 0xC1), (0x1638, s.sysBlob c 0xC7 (0x1C0 - 0xC7)), (0x3200, k.thirdBlob), (0x780000, k.channelBlob) ] ++
  ((List.range 64).filter (bitN l.x)).map (fun n => (0x3000 + 8 * n, wordBlob (k.rx n))) ++
  ((List.range 256).filter (bitN l.v)).map (fun n => (0x80000 + 4096 * n, vecBlob (k.rv n))) ++
  ((List.range 24).filter (bitN l.acc)).map (fun n => (0x180000 + 65536 * n,
    elemBlob 16384 (k.acc.filterMap fun e => if 16384 * n ≤ e.1 ∧ e.1 < 16384 * n + 16384 then some (e.1 - 16384 * n, e.2) else none))) ++
  l.ranges.map (fun r => (0x300000 + r.1, (r.2, slice k.spm r.1 r.2)))

/-- The words of the scratchpad (0) and the lane slices (1) that a full save, an in-place one and a waymark save read. -/
def fullArrays : List (Nat × Nat × Nat) := [(0, 0, 0x400000), (1, 0, 0x80000)]
def inplaceArrays : List (Nat × Nat × Nat) := [(0, 0x2F0000, 0x10000)]
def Live.arrays (l : Live) : List (Nat × Nat × Nat) := l.ranges.map fun r => (0, r)

end Sys2Proof.Machine
end

