-- ==== Sys2Proof/Machine/Ops.lean ====
section
/-! DEFINITION. Taking a stop and coming back from one (R348 to R366, R275 to R277): one shared operation that captures the
records, writes the stop registers and takes the stop in place or as a full stop; the save engine; resume and restore; and the
array claims of a handler. -/
namespace Sys2Proof.Machine

open Sys2Proof

/-! ## Launches as the stop machinery sees them -/

def State.launchOf (s : State) (c : Nat) : Option Launch :=
  match (s.core c).launch with
  | some k => s.launches.find? fun l => l.key == k
  | none => none

namespace Launch
/-- Word i of the descriptor (R332). -/
def w (l : Launch) (i : Nat) : Nat := (l.desc.getD i 0).toNat
def prio (l : Launch) : Nat := fldN (l.w 2) 0 3
def kind (l : Launch) : Nat := fldN (l.w 2) 3 2
def lvl (l : Launch) : Nat := fldN (l.w 2) 5 1
def bunit (l : Launch) : Nat := fldN (l.w 2) 6 2
def shape (l : Launch) : Nat := fldN (l.w 2) 8 8
def ntiles (l : Launch) : Nat := fldN (l.w 2) 16 16
def rtol (l : Launch) : Nat := fldN (l.w 2) 32 3
def prodv (l : Launch) : Bool := bitN (l.w 2) 35
def id (l : Launch) : Word := l.desc.getD 3 0
def save (l : Launch) : Nat := l.w 10
end Launch

/-- The level that a launch's contexts run at (R332, R333). -/
def State.launchLevel (s : State) (l : Launch) : Level :=
  if l.lvl = 0 then .user else if s.partRoot l.part then .root else .partition

def State.modLaunch (s : State) (k : Nat) (f : Launch → Launch) : State :=
  { s with launches := s.launches.map fun l => if l.key = k then f l else l }

/-! ## Stops (R349 to R351) -/

/-- What a stop reports. -/
structure Stop where
  cause : Nat
  detail : Nat := 0
  addr : Nat := 0
  bank : Option Word := none
deriving DecidableEq, Repr

/-- The causes that root takes as a full stop (R351, R246). -/
def rootCause (cause detail : Nat) : Bool :=
  Xlt.stage2 cause || cause == 0x8E || cause == 0x8A || cause == 0x8C || (cause == 0x86 && Xlt.stage2 (detail % 256))

/-- The cause bits of STOP.CAUSE and whether a handler runs. -/
def Core.setCause (c : Core) (cause : Nat) : Core := c.wsr 0x100 (BitVec.ofNat 64 (cause % 256 + 256 * b2n c.handler))
def Core.stopCause (c : Core) : Nat := getF (c.rsr 0x100) 0 8
def Core.rootTakes (c : Core) : Bool := rootCause c.stopCause (c.rsr 0x101).toNat

/-- The stop log's words (R362). -/
def stopWords (s : State) (c event area need : Nat) : List Word :=
  [BitVec.ofNat 64 area, BitVec.ofNat 64 (event + (s.core c).stopCause * 2 ^ 8 + c * 2 ^ 16 + (s.core c).part * 2 ^ 24), s.time,
   BitVec.ofNat 64 need]
/-- An entry of the partition's stop log, and of root's where root takes the stop or a stage-2 mapping failed (R351, R362). -/
def State.stopEntry (s : State) (c event area need : Nat) (root : Bool) : State :=
  let p := (s.core c).part
  let s := s.log (some p) (stopLog (some p)) 68 (stopWords s c event area need)
  if root then s.log none (stopLog none) 68 (stopWords s c event area need) else s

/-- An operation as a stop leaves it: nothing of it is under way. -/
def Op.still (o : Op) : Op := { o with phase := .det, pieces := [], got := [], deps := [], xdeps := [] }
/-- The operations that a stop captures, still, in record order; a matrix replay under way becomes pending (R276). What each read at its issue
is kept beside its record, of the interrupted context or of the handler, its count from the stop cycle (R354); so are whether the program
or the handler has ended (R243) and whether a RESUME has yet to be carried out. -/
def Core.halt (c : Core) : Core :=
  let c := if c.mretry.isSome then c.wsr rRETRY (setF (c.rsr rRETRY) 8 1 1) else c
  let gone := (c.pipe.filter fun o => !o.performed).map (·.id)
  let c := c.mapCmds fun q => if q.phase == 0 && q.after.any gone.contains then { q with held := true } else q
  let ops := (c.pipe.flatMap Op.remnants).map Op.still
  let left := ops.map fun o => { o with land := o.remain c.sched }
  { c with pipe := ops, kept := if c.staged || c.handler then c.kept else left, keptH := if c.handler && !c.staged then left else c.keptH
           hadEnded := if c.staged || c.handler then c.hadEnded else c.run == .ended
           hadDone := c.handler && (if c.staged then c.hadDone else c.run == .ended), owed := c.handler && (if c.staged then c.owed else c.resuming)
           resuming := false, staged := false, trapped := none, ext := [], mretry := none, mouter := []
           frozen := 0, freeze := 19, fetchWait := none, fetchFail := none, replay := 0, ports := [] }

/-- The stop registers take a stop (R358). -/
def Core.report (c : Core) (st : Stop) : Core :=
  let c := ((c.setCause st.cause).wsr 0x101 (BitVec.ofNat 64 st.detail)).wsr 0x103 (BitVec.ofNat 64 (codeAddr st.addr))
  match st.bank with
  | some b => c.wsr 0x102 b
  | none => c

/-- The header of a save of core c (R360). -/
def State.areaHead (s : State) (c form : Nat) (recs : Blob) : AreaHead :=
  let k := s.core c
  { form := form, nest := form == 1 && k.handler, cause := k.stopCause, rpoint := k.pc, idle := min 63 (k.nextIssue - k.sched)
    nrec := k.pipe.length, rbytes := recs.1 }
/-- The record section of a halted core. -/
def Core.recordBlob (c : Core) : Blob := blobCat ((c.capture c.sched).map Rec.blob)

/-- Save to an area: the commit word with V 0, every section, the header and the records, then V 1 (R361). arrays are the words of the
scratchpad and the lane slices that the sections hold. -/
def State.saveTo (s : State) (c form : Nat) (w : Area) (a : Nat) (arrays : List (Nat × Nat × Nat)) (parts : List (Nat × Blob)) :
    Option Nat × State :=
  let recs := (s.core c).recordBlob
  let h := s.areaHead c form recs
  match s.storeArea w (a + 0x8) (h.commit false) with
  | (some k, s) => (some k, s)
  | (none, s) => match s.readSaved c arrays with
    | (false, s) => (some cDATA_ABORT, s)
    | (true, s) => s.storeParts w a (parts ++ [(0x10, s.headBlob c h), ((if form = 2 then 0x78000 else 0x790000), recs), (0x8, h.commit true)])

/-- The in-place area of a core and the context in which it is reached (R358). -/
def State.inplaceArea (s : State) (c : Nat) : Nat :=
  (getF (s.rp (s.core c).part 0x10A) 20 28) * 2 ^ 20 + c * 2 ^ 20
def State.handlerCtx (s : State) (c : Nat) : Ctx := { s.ctx c with level := .partition }

/-- The handler starts (R356). -/
def Core.enter (c : Core) (area vec : Nat) : Core :=
  let c := (upto 0 4).foldl (fun (c : Core) n => c.wsr (0x20 + 4 * n) 0) c
  let c := c.wx 56 (BitVec.ofNat 64 area)
  let c := { c with run := .running, pipe := [], pend := [], unitEnd := [], level := .partition, hlevel := c.level, handler := true
                    pc := vec, nextIssue := c.sched, freeze := 0, area := area, sig := (c.rsr 0x018).setWidth 32, stepFrom := false
                    skipBrk := false }
  c.setCause c.stopCause

/-- What follows the in-place save at an area: SAVE_FAULT holds the core, or the handler starts (R356, R362). -/
def State.inPlaceDone (s : State) (c area : Nat) (bad : Option Nat) : State :=
  match bad with
  | some k =>
    let s := s.modCore c fun w => { w with run := .saving 2 2 }
    s.stopEntry c 3 area 0 (Xlt.stage2 k)
  | none =>
    let vec := (s.rp (s.core c).part 0x109).toNat
    s.modCore c fun w => { w.enter area (codeAddr vec) with wdStart := s.time.toNat }

/-- Take a stop in place, or hold it for SAVE_FAULT (R356, R362). -/
def State.stopInPlace (s : State) (c : Nat) : State :=
  let r := s.saveTo c 2 (.virt (s.handlerCtx c)) (s.inplaceArea c) inplaceArrays (s.inplaceParts c)
  r.2.inPlaceDone c (s.inplaceArea c) r.1

/-- Begin a full stop: the commands of the channels are suspended and the save engine takes the core (R142, R351). -/
def State.stopFull (s : State) (c : Nat) : State :=
  s.modCore c fun w => { (w.suspend true) with run := .saving 1 0 }

/-- Take an urgent stop (R349 to R351). The core is at the start of the stop cycle; its pc is the resume point. -/
def State.takeStop (s : State) (c : Nat) (st : Stop) : State :=
  let s := s.trace c 3 st.cause st.addr
  let s := s.modCore c fun w => { (w.takeRemote.report st).halt with stopAt := s.time }
  let k := s.core c
  let fits := decide (0x78000 + k.recordBlob.1 ≤ 2 ^ 20)
  let inplace := !k.rootTakes && bitN (s.rp k.part 0x108).toNat 0 && s.rp k.part 0x109 != 0 && !k.handler && fits
  if inplace then s.stopInPlace c else s.stopFull c

/-! ## The save engine (R361, R362) -/

/-- The save area of core c's position, by the SIZE word of position 0 (R359): none where the launch has none. The positions of a launch are
numbered across its units, those of tiles that run at once and of exact tiles too (DESIGN CHOICE, log entry 114). -/
def State.saveArea (s : State) (c : Nat) : Except Nat (Option Nat) × State :=
  match s.launchOf c with
  | none => (.ok none, s)
  | some l =>
    if l.save = 0 then (.ok none, s)
    else match s.loadArea (.phys l.part c) l.save 8 with
    | (.error k, s) => (.error k, s)
    | (.ok m, s) => (.ok (some (l.save + (s.core c).seat * numAt m 0 8)), s)

/-- The save engine saves core c (R361): what it does when it is held, and s' with the save committed otherwise. -/
def State.saveCore (s : State) (c form : Nat) (arrays : List (Nat × Nat × Nat)) (parts : List (Nat × Blob)) (done : State → State) : State :=
  let p := (s.core c).part
  let root := (s.core c).rootTakes
  let hold (s : State) (n : Nat) : State := s.modCore c fun w => { w with run := .saving form n }
  let faultAt (s : State) (a : Nat) : State := (hold s 2).stopEntry c 3 a 0 root
  let need := 0x790000 + (s.core c).recordBlob.1
  match s.saveArea c with
  | (.error _, s) => faultAt s ((s.launchOf c).map (·.save) |>.getD 0)
  | (.ok none, s) => (hold s 1).stopEntry c 2 0 need root
  | (.ok (some a), s) => match s.loadArea (.phys p c) a 8 with
    | (.error _, s) => faultAt s a
    | (.ok m, s) =>
      if numAt m 0 8 < need then (hold s 1).stopEntry c 2 a need root
      else match s.saveTo c form (.phys p c) a arrays parts with
        | (some _, s) => faultAt s a
        | (none, s) => done ((s.modCore c fun w => { w with savedAt := a }).stopEntry c 1 a 0 root)

/-- A full save is committed: the core stays bound and issues nothing (R363). -/
def State.savedFull (s : State) (c : Nat) : State :=
  s.modCore c fun w => { w with run := .saved 1, pipe := [] }

/-- A claim waits for its area again (R362). -/
def Core.unpark (c : Core) : Core :=
  { c with pipe := c.pipe.map fun o => match o.act, o.phase with
      | some .mclaim, .parked | some .mrelease, .parked => { o with phase := .fly }
      | _, _ => o }

/-- R362: SAVE.RETRY of partition cur.i restarts the saves of its cores that SAVE_FAULT holds. -/
def execSaveRetryWrite (s : State) : Out :=
  onItem s.cur.i 16 s fun s =>
    { s with cores := s.cores.map fun e => if e.2.part ≠ s.cur.i then e else match e.2.run with
        | .saving form 2 => (e.1, { e.2 with run := .saving form 0 })
        | _ => (e.1, e.2.unpark) }

/-! ## Reissue (R365) -/

/-- A record as an operation that waits to be reissued at cycle u (R352, R353). -/
def Rec.op (r : Rec) (u id : Nat) : Op :=
  let m := r.pay.2
  let w (k : Nat) : Word := wordAt m (8 * k)
  let v (k : Nat) : Vec := elemsOf (slice m k 4096)
  let o : Op := { id := id, act := r.act, slot := r.slot, fault := r.fault, cause := r.cause, land := u + r.remain, addr := r.addr
                  progress := r.progress, cls := r.cls, resvEnd := u + r.resv, dest := r.dest, dspace := r.dspace, reissued := true }
  match r.act with
  | none =>
    if r.dspace || r.dest < 0x100 then { o with vs := [v 0] }
    else if r.dest < 0x140 then { o with ws := [w 0] }
    else if r.dest < 0x1F0 then { o with vs := [v 0] }
    else { o with vs := [Vec.ofMask (BitVec.ofNat 1024 (numAt m 0 128))] }
  | some i => match r.kind with
    | 1 => { o with ws := [w 0, w 1, w 2] }
    | 2 => match Instr.trigger i with
      | some (_, x) => { o with vs := (List.range x.latches.length).map fun k => v (4096 * k), ws := if x = .wc then [wordAt m (4096 * x.latches.length)] else [] }
      | none => match i with
        | .move _ (.k _) => { o with vs := [Vec.ofMask (BitVec.ofNat 1024 (numAt m 0 128))] }
        | _ => { o with vs := [v 0] }
    | 3 => match i with
      | .stb _ | .sth _ | .stw _ | .std _ => { o with ws := [w 0, w 1], bs := slice m 8 8, va := (w 0).toNat }
      | .vst _ | .vst16 _ | .vst32 _ => { o with ws := [w 0], bs := slice m 8 4096, va := (w 0).toNat }
      | .vgath _ | .vlut _ => { o with ws := [w 0], vs := [v 8, v 4104], va := (w 0).toNat }
      | .vscat _ | .vlst _ => { o with ws := [w 0], vs := [v 8, v 4104], bs := slice m 4104 4096, va := (w 0).toNat }
      | _ => { o with ws := [w 0, w 1, w 2], va := (w 0).toNat }
    | 4 => match i with
      | .push .. | .acc .. => { o with imgs := [imageSlot m] }
      | .accp .. | .shift .. => { o with imgs := [imageSlot (slice m 0 2816), imageSlot (slice m 2816 2816)] }
      | .mfix .. => { o with ws := [w 0] }
      | _ => { o with vs := [v 0] }
    | _ => { o with bs := m, bytes := r.pay.1 }

/-- The operations of records in order, numbered from the core's next number. -/
def Core.stage (c : Core) (rs : List Rec) : Core :=
  { c with nextId := c.nextId + rs.length, pipe := (List.range rs.length).filterMap fun k => (rs[k]?).map fun r => r.op c.sched (c.nextId + k) }

/-- The ports that a reissued record holds for what is left of its reservation (R153). -/
def heldPorts (ps : List (Nat × Nat)) (left sched slot : Nat) : List (Nat × Nat × Nat) :=
  let n := maxOf (ps.map (·.2))
  (ps.map fun e => (e.1, sched + (left - (n - e.2)), slot)).filter fun e => decide (sched < e.2.1)

/-- What the stop kept of the operation whose record this is: the one of the same instruction, bundle and slot, and of the same count and
operands where there is one. -/
def Core.keptFor (c : Core) (o : Op) : Option Op :=
  let same (k : Op) : Bool := k.act == o.act && k.act.isSome && codeAddr k.addr == codeAddr o.addr && k.slot == o.slot
  let l := if c.handler then c.keptH else c.kept
  let timed (k : Op) : Bool := same k && k.land == o.land - c.sched
  (l.find? fun k => timed k && k.ws == o.ws) <|> l.find? timed <|> l.find? same

/-- A record that a stop wrote at the operation's own issue or landing, set to PENDING: the operation is performed again (R367, R439). -/
def redone (k : Option Op) : Bool := match k with | some k => k.fault | none => false

/-- The ports of the blocks of a beat at two addresses. -/
def beatPorts (aa bb : Nat) (fa fb : ArrFmt) (p : Nat) (sp : Bool) : List (Nat × Nat) :=
  [(portOf (aa / 2 ^ 20 % 4) false, (lenA fa p sp + 511) / 512), (portOf (bb / 2 ^ 20 % 4) false, (lenB fa fb p sp + 511) / 512)]

/-- The two addresses in an image of a beat stopped at its own issue. -/
def imageAddrs (q : StageSlot) : Nat × Nat := (numAt q.a 0 4, numAt q.a 4 4)

/-- The ranges of the scratchpad that a reissued array operation reads afresh (R439). -/
def afreshPlaces (i : Instr) (o : Op) : List (Nat × Nat) :=
  let beat (q : StageSlot) (fa fb : ArrFmt) (p : BitVec 3) (sp : Bool) : List (Nat × Nat) :=
    [((imageAddrs q).1, lenA fa p.toNat sp), ((imageAddrs q).2, lenB fa fb p.toNat sp)]
  match i with
  | .push _ _ _ fa fb p sp => beat (o.imgs.getD 0 {}) fa fb p sp
  | .accp _ _ _ fa fb p sp _ => beat (o.imgs.getD 1 {}) fa fb p sp
  | .scla .. | .sclb .. | .smap _ | .sidx .. => [(numAt o.bs 0 8, (scLen i).1)]
  | _ => []

/-- The blocks of a reissued beat: what is left of its ports is held (R153); where it was stopped at its own issue they are read afresh
from the addresses of its image, or it stops again. -/
def Core.reissueBlocks (c : Core) (q : StageSlot) (fa fb : ArrFmt) (p : Nat) (sp : Bool) (o : Op) (k : Option Op) (other : Option Nat) :
    Core × StageSlot × Option Nat :=
  let left := o.resvEnd - c.sched
  let hold (c : Core) (aa bb : Nat) : Core := { c with ports := c.ports ++ heldPorts (beatPorts aa bb fa fb p sp) left c.sched 3 }
  if redone k || (k.isNone && q.width == 0) then
    let (aa, bb) := imageAddrs q
    match c.pushBlocks aa bb fa fb p sp other with
    | (c, r, some x) => (c, r, some x)
    | (c, r, none) => (hold c aa bb, r, none)
  else match k with
    | some k => (hold c (k.ws.getD 0 0).toNat (k.ws.getD 1 0).toNat, q, none)
    | none => (c, q, none)

/-- A beat that is performed again sets CLS, unless a clear issued after it (R251, R258). -/
def Core.clsAgain (c : Core) (fa : ArrFmt) (later : List Op) : Core :=
  if later.any fun o => o.act == some Instr.clear then c else c.setCls fa
/-- The core whose class a beat that is performed again is checked against. -/
def Core.beforeClear (c : Core) (later : List Op) : Core :=
  if later.any fun o => o.act == some Instr.clear then { c with mx := { c.mx with cls := 0 } } else c

/-- An mx operation is reissued (R259, R354, R439): with what its record and the stop kept of it; one that was stopped is checked and
performed again. later are the records behind it, bad the cause where a word that it reads afresh cannot be corrected. -/
def Core.reissueMx (c : Core) (i : Instr) (o : Op) (later : List Op) (bad : Option Nat) : Core × Op :=
  let k := c.keptFor o
  let stopAt (x : Nat) : Op := { o with fault := true, cause := x }
  let again (cause : Option Nat) (f : Core → Core) : Core × Op :=
    if !redone k then (c, o) else match cause with
      | some x => (c, stopAt x)
      | none => (f c, o)
  match i with
  | .push _ _ _ fa fb p sp =>
    match c.reissueBlocks (o.imgs.getD 0 {}) fa fb p.toNat sp o k bad with
    | (c, _, some x) => (c, stopAt x)
    | (c, r, none) => (c, { o with imgs := [r] })
  | .accp s _ _ fa fb p sp _ =>
    let fresh := redone k || (k.isNone && (o.imgs.getD 1 {}).width == 0)
    let x := if fresh then c.slot s.toNat else o.imgs.getD 0 {}
    let check := if fresh then (c.beforeClear later).accCheck x fa fb p.toNat sp else none
    match c.reissueBlocks (o.imgs.getD 1 {}) fa fb p.toNat sp o k (firstCause [check, bad]) with
    | (c, _, some x) => (c, stopAt x)
    | (c, r, none) => (if fresh then c.clsAgain fa later else c, { o with imgs := [x, r] })
  | .acc _ fa fb p sp =>
    if (match k with | some k => k.fault | none => true) then
      match firstCause [c.arrayDenied, (c.beforeClear later).accCheck (o.imgs.getD 0 {}) fa fb p.toNat sp] with
      | some x => (c, stopAt x)
      | none => (c.clsAgain fa later, o)
    else (c, o)
  | .shift .. => again (firstCause [c.arrayDenied, if samePair (o.imgs.getD 0 {}) (o.imgs.getD 1 {}) then none else some cFORMAT_MIX]) fun c => c
  | .clear => again c.arrayDenied Core.snapshot
  | .dchk => again c.arrayDenied fun c => c
  | .drain .. =>
    let o := { o with gst := match k with | some k => k.gst | none => c.mx.cls }
    if redone k then (match c.arrayDenied with | some x => (c, { o with fault := true, cause := x }) | none => (c, o)) else (c, o)
  | .mfix a b => (c, { o with gst := match k with
      | some k => if k.ws = o.ws then k.gst else (c.mfixVal a.toNat b.toNat).2
      | none => (c.mfixVal a.toNat b.toNat).2 })
  | .mclaim | .mrelease => (c, { o with phase := .fly })
  | _ => (c, o)

/-- An sc operation is reissued: its bytes as recorded, or read afresh where it was stopped at its own issue (R439). -/
def Core.reissueSc (c : Core) (i : Instr) (o : Op) (bad : Option Nat) : Core × Op :=
  if !redone (c.keptFor o) then (c, o)
  else
    let a := numAt o.bs 0 8
    let (n, al) := scLen i
    match firstCause [c.arrayDenied, blockCheck al a n, bad] with
    | some k => (c, { o with fault := true, cause := k })
    | none => ({ c with ports := c.ports ++ heldPorts [(portOf (a / 2 ^ 20 % 4) false, 1)] (o.resvEnd - c.sched) c.sched 4 }, { o with bs := c.spmBytes a n })

/-- An operation of the array or the scale slot is reissued. -/
def State.reissueArray (s : State) (c : Nat) (i : Instr) (o : Op) (later : List Op) : State :=
  let afresh := redone ((s.core c).keptFor o)
  let (bad, s) := if afresh then s.spmVerify c (afreshPlaces i o) else (none, s)
  s.modCore c fun k =>
    let (k, o) := match i.kind with
      | some .sc => k.reissueSc i o bad
      | _ => k.reissueMx i o later bad
    { k with pipe := k.pipe ++ [o] }

/-- A memory access is reissued (R182, R283, R289, R355): it is checked again, a load reads again in full, a store goes on from its
progress and meets its group as it stood at its issue (R319); the fences before it hold it. -/
def State.reissueAccess (s : State) (c : Nat) (i : Instr) (f : Form) (o : Op) : State :=
  let k := s.core c
  let a : Word := BitVec.ofNat 64 o.va
  let vi := o.vs.getD 0 []
  let fences := (k.pipe.filter fun p => match p.act with | some (.fence m _) => bitN m.toNat o.cls | _ => false).map (·.id)
  let before := if f.acc = Acc.command then (k.pipe.filter fun p => (memForm (p.act.getD .done)).isSome && !p.performed).map (·.id) else []
  let gst := if f.acc = Acc.store ∧ 4 ≤ f.grp then
      (match k.keptFor o with
        | some p => if p.fault && p.cause == 0x9E then (k.groups.getD (f.grp - 4) {}).st else p.gst
        | none => (k.groups.getD (f.grp - 4) {}).st) else 0
  let ports := heldPorts (accessPorts i f a) (o.resvEnd - k.sched) k.sched o.slot
  let o := { o with deps := if f.acc = Acc.command then before else if f.sp.det then [] else fences, gst := gst }
  let check := s.accessCheck c i f a vi
  let reads := f.sp.det && f.acc != .store && check.isNone
  let (whole, s) := if reads then s.arrayRead c (if f.sp = .lane then 1 else 0) (detPlaces i f a vi) else (true, s)
  let (d, s) := if f.sp = .glb then s.freeTime else (0, s)
  let o := match (if whole then check else some cDATA_ABORT) with
    | some cause => { o with fault := true, cause := cause }
    | none => match f.sp with
      | .glb => { o with phase := .walk (s.wall + d) }
      | .spm | .lane => { o with got := if f.acc = .store then [] else k.detRead i f a vi }
      | _ => { o with phase := .fly, pieces := (s.fixedPieces c f a vi k.sched).filter fun q =>
          f.acc != .store || decide (o.progress ≤ (if f.elems then q.off / 4 else q.off)) }
  s.modCore c fun k => { k with pipe := k.pipe ++ [o], ports := k.ports ++ ports }

/-- The chunk of a reissued ap rd: the one it read at its trigger, where its latches are those it captured (R354). -/
def Core.chunkAgain (c : Core) (o : Op) : Vec :=
  let b := o.vs.getD 1 []
  match c.keptFor o with
  | some k => if k.vs.take 2 = o.vs.take 2 then k.vs.getD 2 [] else chunkRead c.acc (apTile b) (apChunk b)
  | none => chunkRead c.acc (apTile b) (apChunk b)

/-- A deferred write stands for the signature operation that the stop kept with this result and count, and whose record is gone (R367). -/
def Core.standsForSig (c : Core) (o : Op) (all : List Op) : Bool :=
  o.act.isNone && o.dspace && o.dest == 0x145 &&
  (if c.handler then c.keptH else c.kept).any fun k =>
    (match k.act with | some (.wcSig _) | some (.wcSigclr _) => true | _ => false) && k.land == o.land - c.sched &&
    all.all fun p => !(p.act == k.act && codeAddr p.addr == codeAddr k.addr && p.slot == k.slot && p.land == o.land)

/-- The signature that an operation leaves for the next one; a cmp leaves S as it is (R221). -/
def Op.signs (o : Op) : Option Elem :=
  match o.act with
  | some (.wcSig a) => some (sigAfter (.wcSig a) ((o.ws.getD 0 0).setWidth 32) o.vs)
  | some (.wcSigclr a) => some (sigAfter (.wcSigclr a) ((o.ws.getD 0 0).setWidth 32) o.vs)
  | some _ => none
  | none => if o.gst = 1 then some ((o.vs.getD 0 []).at_ 0 0) else none
/-- The signature from which the next wc operation starts: that of the reissued operation that lands last (R221, R367). -/
def Core.lastSig (c : Core) : Elem :=
  (c.pipe.foldl (fun (b : Nat × Elem) o => match o.signs with
    | some e => if b.1 ≤ o.land then (o.land, e) else b
    | none => b) (0, c.sig)).2

/-- A read that was stopped for TIMING_NONREPLAY is made again, with its side effect (R380, R401). -/
def State.rereads (s : State) (c n : Nat) (o : Op) : Op × State :=
  match (s.core c).keptFor o with
  | some k =>
    if k.fault && k.cause == 0x8D then
      let s' : State := if n = 0x002 then { s with turn := { cur := { core := c }, act := .cntrdLoRead } :: s.turn } else s
      ({ o with ws := [o.ws.getD 0 0, s.sysRead c n, o.ws.getD 2 0] }, s')
    else (o, s)
  | none => (o, s)

/-- Reissue one operation behind those already reissued; later are the records behind it, all every record. No field of a record holds WIT: an
operation whose record the stop wrote has that of its bundle, one of another record none (DESIGN CHOICE, log entry 115). -/
def State.reissueOp (s : State) (c : Nat) (o : Op) (later all : List Op) : State :=
  let add (s : State) (o : Op) : State := s.modCore c fun k => { k with pipe := k.pipe ++ [o] }
  let o := { o with root := (s.core c).rsr 0x082, tag := getF ((s.core c).rsr 0x083) 0 4, wit := match (s.core c).keptFor o with | some k => k.wit | none => false }
  match o.act with
  | none => add s { o with gst := b2n ((s.core c).standsForSig o all) }
  | some i => match i.kind with
    | some .mx | some .sc => s.reissueArray c i o later
    | some .mv => match i with
      | .apRd _ => add s { o with vs := o.vs ++ [(s.core c).chunkAgain o] }
      | _ => add s o
    | some .mem => match i with
      | .fence m _ =>
        let deps := ((s.core c).pipe.filter fun p => p.elastic && !p.performed && (match p.ordClass with
          | some k => bitN m.toNat k | none => false)).map (·.id)
        add s { o with phase := .fly, deps := deps }
      | .gcommit g | .gabort g => add s { o with phase := .fly, gst := if ((s.core c).groups.getD g.toNat {}).spilt then 2 else
          (match (s.core c).keptFor o with | some k => k.gst | none => 1) }
      | .gopen g => s.modCore c fun k =>
          let q := k.groups.getD g.toNat {}
          if q.st = 0 then k.setGroup g.toNat { q with st := 1, spilt := false } else k
      | .tlbiall => let (d, s) := s.freeTime; add s { o with phase := .walk (s.wall + d) }
      | .cwait .. | .wpwait .. => add s { o with phase := .fly }
      | i => match memForm i with
        | some f => if f.acc = .line then (let (d, s) := s.freeTime; add s { o with phase := .walk (s.wall + d) }) else s.reissueAccess c i f o
        | none => s
    | _ => match i with
      | .gsres _ | .gsend => add s { o with fault := true, cause := 0xA3 }
      | .srrd _ n => let (o, s) := s.rereads c n.toNat o; add s o
      | _ => add s o

/-- The new number of the operation whose number at the stop was the first: pairs. -/
def Core.renamed (c : Core) (os : List Op) : List (Nat × Nat) := os.filterMap fun o => (c.keptFor o).map fun k => (k.id, o.id)

/-- A queue entry that a reissued qld reserved waits for it; one whose record is gone is filled with zero bytes (R354). ids pairs the
numbers of the operations at the stop with their new ones. -/
def Core.bindQueues (c : Core) (ids : List (Nat × Nat)) : Core :=
  let qlds (n : Nat) : List Nat := c.pipe.filterMap fun o => match o.act with
    | some (.qld m) => if m.tg.toNat % 4 = n then some o.id else none
    | _ => none
  let new (n : Nat) (e : QEntry) : Option Nat := ((ids.find? fun p => p.1 == e.op).map (·.2)).filter (qlds n).contains
  { c with queues := (List.range 4).map fun n =>
      let bound := (c.queue n).filterMap fun e => if e.filled then none else new n e
      ((c.queue n).foldl (fun (st : List QEntry × List Nat) e =>
        if e.filled then (st.1 ++ [e], st.2)
        else match new n e with
          | some i => (st.1 ++ [{ e with op := i }], st.2)
          | none => match st.2 with
            | i :: is => (st.1 ++ [{ e with op := i }], is)
            | [] => (st.1 ++ [{ e with filled := true, data := [] }], [])) ([], (qlds n).filter fun i => !bound.contains i)).1 }

/-- The commands that a stop held back wait for the reissued accesses that were issued before them (R131); those of the interrupted
context stay held while its handler goes on. -/
def Core.freeCmds (c : Core) (ids : List (Nat × Nat)) : Core :=
  let mine (q : Cmd) : Bool := !c.handler || q.after.all fun i => !c.kept.any fun o => o.id == i
  c.mapCmds fun q => if q.held && mine q then { q with held := false, after := q.after.filterMap fun i => (ids.find? fun p => p.1 == i).map (·.2) } else q

/-- Reissue every staged operation at the core's present cycle, and let the program go on (R365): one that had ended stays so (R243), and a
handler that had issued its RESUME carries it out. -/
def State.reissueAll (s : State) (c : Nat) : State :=
  let s := s.trace c 5 0 (s.core c).pc
  let os := (s.core c).pipe
  let ids := (s.core c).renamed os
  let s := s.modCore c fun k => { k with pipe := [] }
  let s := (List.range os.length).foldl (fun s n => match os[n]? with
    | some o => s.reissueOp c o (os.drop (n + 1)) os
    | none => s) s
  s.modCore c fun k =>
    { ((k.bindQueues ids).freeCmds ids) with
      sig := k.lastSig, kept := if k.handler then k.kept else [], keptH := [], staged := false
      resuming := k.handler && k.owed, owed := false, freeze := 0, frozen := 0, hadDone := false
      run := if (if k.handler then k.hadDone else k.hadEnded) then .ended else .running
      wdStart := s.time.toNat, trcDue := s.wall + getF (k.rsr 0x198) 8 24 * 1024 }

/-! ## Reading an area back (R363 to R366) -/

/-- Why a resume does not restore: the area cannot be used; the record section is invalid; a FAULT record stops again. -/
inductive NoResume
  | area (cause : Nat)
  | bad (n : Nat)
  | again (cause addr : Nat)
deriving DecidableEq, Repr

/-- The header and the records of an area whose record section starts at off and may hold at most lim bytes. -/
def State.readArea (s : State) (w : Area) (a off lim : Nat) : Except NoResume (Sparse Byte × List Rec) × State :=
  match s.loadArea w a 0x60 with
  | (.error k, s) => (.error (.area k), s)
  | (.ok h, s) =>
    let nrec := numAt h 0x38 4
    let rb := numAt h 0x40 4
    match s.loadArea w (a + off) (min rb lim) with
    | (.error k, s) => (.error (.area k), s)
    | (.ok m, s) => match readRecs m rb nrec 0 0 with
      | .error n => (.error (.bad n), s)
      | .ok rs => match rs.find? fun r => r.fault && r.cause != cCHECKSUM with
        | some r => (.error (.again r.cause r.addr), s)
        | none => (.ok (h, rs.filter fun r => r.cause != cCHECKSUM), s)

/-- Read parts (offset, length) of an area, in order. -/
def State.loadList (s : State) (w : Area) (a : Nat) (ps : List (Nat × Nat)) : Except Nat (List (Sparse Byte)) × State :=
  ps.foldl (fun (st : Except Nat (List (Sparse Byte)) × State) p =>
    match st with
    | (.error k, s) => (.error k, s)
    | (.ok l, s) => match s.loadArea w (a + p.1) p.2 with
      | (.error k, s) => (.error k, s)
      | (.ok m, s) => (.ok (l ++ [m]), s)) (.ok [], s)

/-- LOOP and AG from the words of indices 0x020 to 0x03F. -/
def Core.setLoops (c : Core) (m : Sparse Byte) : Core :=
  (List.range 32).foldl (fun (c : Core) k =>
    if k < 16 ∧ k % 4 = 3 then c
    else c.wsr (0x20 + k) (wordAt m (8 * k) &&& sysMask (0x20 + k))) c

/-- The restored core runs on from RPOINT; a pending matrix replay comes first (R276, R365). -/
def Core.goOn (c : Core) (h : Sparse Byte) (rs : List Rec) : Core :=
  let c := { c.stage rs with pc := codeAddr (numAt h 0x10 8), nextIssue := c.sched + numAt h 0x18 1 % 64, resuming := true, staged := true
                             skipBrk := true, stepFrom := false, freeze := 19, frozen := 0, trapped := none, ports := [] }
  if bitN (c.rsr rRETRY).toNat 8 then
    let fa := codeAddr (c.rsr rFAILADDR).toNat
    { c with pipe := c.pipe.filter fun o => !(o.act == some Instr.dchk && o.addr == fa) }.startReplay
  else c

/-- The sections that an in-place save holds. -/
def inplaceReads : List (Nat × Nat) :=
  [(0x1100, 0x100), (0x10C0, 8), (0x31C0, 64), (0x3200, 0x40), (0x10000, 0x18800), (0x30000, 0x8000), (0x38000, 0x10000)]

/-- Restore the interrupted context from its in-place sections. -/
def Core.leave (c : Core) (l : List (Sparse Byte)) : Core :=
  let m (i : Nat) : Sparse Byte := l.getD i []
  let sig := wordAt (m 1) 0
  let c := { (((c.setLoops (m 0)).setThird (m 3)).setLatches (m 4)) with sig := sig.setWidth 32 }
  let c := c.wsr 0x018 (sig &&& 0xFFFFFFFF)
  let c := (List.range 8).foldl (fun (c : Core) k => c.wx (56 + k) (wordAt (m 2) (8 * k))) c
  let c := (List.range 8).foldl (fun (c : Core) k => c.wv (248 + k) (elemsOf (slice (m 5) (4096 * k) 4096))) c
  let hi : Sparse Byte := c.spm.filter fun e => decide (0x300000 ≤ e.1)
  let c := { c with spm := clip c.spm 0x2F0000 ++ shiftUp (m 6) 0x2F0000 ++ hi }
  let c := { c with handler := false, level := c.hlevel }
  c.setCause c.stopCause

/-- End an in-place handler (R364, R365), once every operation it issued has landed or performed. -/
def State.resumeInPlace (s : State) (c : Nat) : State :=
  let k := s.core c
  let a := k.area
  let w : Area := .virt (s.handlerCtx c)
  let full (s : State) (k : Core) (st : Stop) : State := (s.setCore c { k with resuming := false }).takeStop c st
  if k.mx.claim then full s k { cause := 0xA4, addr := k.lastAddr }
  else
    let unmade (s : State) (cause : Nat) : State :=
      full s { s.core c with pc := k.lastAddr, pend := [], nextIssue := k.sched } { cause := cause, addr := k.lastAddr }
    match s.readArea w a 0x78000 0x88000 with
    | (.error (.area cause), s) => unmade s cause
    | (.error (.bad n), s) => full s (s.core c) { cause := 0xA5, detail := n % 65536, addr := k.lastAddr }
    | (.error (.again cause addr), s) => full s (s.core c) { cause := cause, addr := addr }
    | (.ok (h, rs), s) => match s.loadList w a inplaceReads with
      | (.error cause, s) => unmade s cause
      | (.ok l, s) => match s.storeArea w (a + 8) (numBlob 8 (numAt h 8 8 / 2 * 2)) with
        | (some cause, s) => unmade s cause
        | (none, s) => s.modCore c fun k => (k.leave l).goOn h rs

/-- System registers that a full restore puts back: those the core itself holds as context (R239, R359). -/
def sysRestored (i : Nat) : Bool :=
  (sysInfo i).isSome && !sysShared i &&
  !(i ≤ 0x004 || i == 0x01A || (0x080 ≤ i && i ≤ 0x081) || i == 0x084 || i == 0x085 || (0x0C1 ≤ i && i ≤ 0x0C6)
    || (0x140 ≤ i && i < 0x150) || i == 0x162 || i == 0x182 || i == 0x191)

/-- An event-select register takes a restored word: its identifier is checked anew (R402). -/
def Core.setEvent (c : Core) (n : Nat) : Core :=
  let id := getF (c.rsr (0x1A0 + n)) 0 32
  let c := c.wsr (0x1A0 + n) (BitVec.ofNat 64 (id + b2n (!eventKnown id) * 2 ^ 32))
  if eventKnown id then c else c.wsr (0x1A8 + n) 0

/-- The context registers of a save. -/
def Core.setSys (c : Core) (m : Sparse Byte) : Core :=
  let c := (List.range 0x1C0).foldl (fun (c : Core) i => if sysRestored i then c.wsr i (wordAt m (8 * i) &&& sysBits i) else c) c
  let c := (List.range 8).foldl Core.setEvent c
  let c := { c with shadow := BitVec.ofNat 32 (numAt m 0x18 4), sched := numAt m (8 * 0x182) 8, sig := (wordAt m (8 * 0x018)).setWidth 32 }
  match lpcKey (c.rsr 0x190) with
  | some n => { c with prof := Sparse.set 0 c.prof n (wordAt m (8 * 0x191)) }
  | none => c

/-- The sections that a full save holds. -/
def fullReads : List (Nat × Nat) :=
  [(0x1000, 0xE00), (0x3000, 0x200), (0x3200, 0x40), (0x10000, 0x18800), (0x30000, 0x20000), (0x50000, 0x16200), (0x80000, 0x100000),
   (0x180000, 0x180000), (0x300000, 0x400000), (0x700000, 0x80000), (0x780000, 0x8200)]

/-- A core takes the context of a full save (R363, R365); bit 8 of the saved STOP.CAUSE tells whether it is that of a handler, whatever the
header says by now (R360). -/
def Core.setFull (c : Core) (l : List (Sparse Byte)) (lvl : Level) : Core :=
  let nest := bitN (numAt (l.getD 0 []) (8 * 0x100) 8) 8
  let m (i : Nat) : Sparse Byte := l.getD i []
  let c := (((c.setSys (m 0)).setThird (m 2)).setLatches (m 3)).setArray (m 5)
  let c := { c with x := [], v := [], acc := elemsOf (m 7), spm := m 8, lane := m 9, queues := setQueues c.queues (m 2) (m 4), icache := []
                    handler := nest, hlevel := lvl, level := if nest then .partition else lvl }
  let c := (List.range 64).foldl (fun (c : Core) n => c.wx n (wordAt (m 1) (8 * n))) c
  let c := (List.range 256).foldl (fun (c : Core) n => c.wv n (elemsOf (slice (m 6) (4096 * n) 4096))) c
  let c := (c.setChannels (m 10)).suspend false
  c.setCause c.stopCause

/-- What a core keeps when its binding ends: its memories, the remote port, and the registers that are its own (R378, R379). -/
def Core.bare (c : Core) : Core :=
  { Core.reset with spm := c.spm, lane := c.lane, acc := c.acc, rwrite := c.rwrite, rport := c.rport, rportBusy := c.rportBusy
                    rportHeld := c.rportHeld, sr := c.sr.filter (fun e => decide (0x140 ≤ e.1 ∧ e.1 < 0x150)), nextId := c.nextId
                    replayStart := c.replayStart, marginDue := c.marginDue, escal := c.escal }

/-- What the hardware keeps of a saved context old beside its area comes to core k: its binding and place, its groups (R323), its profile, what its
operations had read at their issue (R354) and whether its program had ended (R243), the commands as they waited (R131), the pass registers
and snapshots, which a waymark's area does not hold (R276), and its in-place area (R351). -/
def Core.carry (k old : Core) : Core :=
  let k := (0x083 :: upto 0xC1 6).foldl (fun (k : Core) i => k.wsr i (old.rsr i)) k
  { k with launch := old.launch, lpos := old.lpos, seat := old.seat, savedAt := old.savedAt, tile := old.tile, part := old.part, groups := old.groups
           prof := old.prof, trcIdx := old.trcIdx, trcQ := old.trcQ, nextId := max k.nextId old.nextId, kept := old.kept, keptH := old.keptH
           hadEnded := old.hadEnded, hadDone := old.hadDone, owed := old.owed, area := old.area, chans := old.chans, queues := old.queues
           wmStop := old.wmStop, pc := old.pc, run := old.run
           mx := { k.mx with syn := old.mx.syn, snapAg := old.mx.snapAg, snapLoop := old.mx.snapLoop } }
/-- What is kept of a saved context while no core holds it. -/
def Core.aside (old : Core) : Core := Core.reset.carry old

/-- GRV.MAP of a shape on its cores (R155). -/
def grvMap (sh : Nat) (cores : List Nat) : Word :=
  let ps := if sh < 4 then cores.map posOf else List.range 8
  BitVec.ofNat 64 ((List.range 8).map fun w => match ps[w]? with | some p => (8 + p) * 16 ^ w | none => 0).sum

/-- Move a saved context from core a to the free core b of its single-shape launch (R323, R363). -/
def State.rebind (s : State) (a b : Nat) (l : Launch) : State :=
  if a = b then s
  else
    let old := s.core a
    let s := s.modCore b fun k => (k.bare.wsr 0x084 (grvMap l.shape [b])).carry old
    let s := s.setCore a old.bare
    let move (l : List Nat) : List Nat := l.map fun c => if c = a then b else c
    s.modLaunch l.key fun l => { l with cores := move l.cores, tiles := l.tiles.map fun t => { t with cores := move t.cores, rcores := move t.rcores } }

/-- A restored core runs on from now, and its commands come to their engines (R148, R365, R383). -/
def State.runOn (s : State) (c : Nat) (h : Sparse Byte) (rs : List Rec) : State :=
  s.modCore c fun k => { ((k.goOn h rs).mapCmds fun q => { q with elig := s.eligFrom k.part q }) with run := .running, wdStart := s.time.toNat }

/-- Restore the full save at a of core q into core c, q's own or another, for the launch l (R363, R365): whether it was restored. Where it is not,
core q is as it was, and its stop registers say why. -/
def State.restoreFull (s : State) (q c a : Nat) (l : Launch) : Bool × State :=
  let w : Area := .phys l.part c
  let no (s : State) (st : Stop) : State := s.modCore q fun k => k.report st
  match s.readArea w a 0x790000 0xFFFFFFFF with
  | (.error (.area k), s) => (false, (no s { cause := k }).stopEntry q 3 a 0 false)
  | (.error (.bad n), s) => (false, no s { cause := 0xA5, detail := n % 65536 })
  | (.error (.again k addr), s) => (false, no s { cause := k, addr := addr })
  | (.ok (h, rs), s) => match s.loadList w a fullReads with
    | (.error k, s) => (false, (no s { cause := k }).stopEntry q 3 a 0 false)
    | (.ok ps, s) => match s.storeArea w (a + 8) (numBlob 8 (numAt h 8 8 / 2 * 2)) with
      | (some k, s) => (false, (no s { cause := k }).stopEntry q 3 a 0 false)
      | (none, s) =>
        let s := (s.rebind q c l).modCore c fun k => k.setFull ps (s.launchLevel l)
        (true, (s.runOn c h rs).stopEntry c 4 a 0 false)

/-- The saved core of partition p whose save lies at an area: the one that was saved there, whatever its header says by now (R360); for a copy of
an area, the one that the header names (DESIGN CHOICE, log entry 116). -/
def State.savedIn (s : State) (p a n : Nat) : Option Nat :=
  let held (c : Nat) : Bool := (s.core c).run == .saved 1 && (s.core c).part == p
  match (s.cores.map (·.1)).find? fun c => held c && (s.core c).savedAt == a with
  | some c => some c
  | none => if held n then some n else none

/-- R363: CTX.RESTORE of partition p. -/
def execCtxRestoreWrite (p : Nat) (v : Word) (s : State) : Out :=
  onItem p 16 s fun s =>
    let t := getF v 0 7
    let a := getF v 16 32 * 65536
    let reg := ppage p 0x4010
    let base := v &&& (maskHL 6 0 ||| maskHL 47 16)
    let refuse (s : State) : State := s.ww reg (base ||| maskHL 49 49)
    match s.loadArea (.phys p 0xFF) a 0x60 with
    | (.error _, s) => refuse s
    | (.ok h, s) => match s.savedIn p a (numAt h 0x50 1 % 128) with
      | none => refuse s
      | some q => match s.launchOf q with
        | none => refuse s
        | some l =>
          let free : Bool := (match (s.core t).run with | .free => true | _ => false) && (s.coresOf p).contains t && !s.quarantined t
          if !(bitN (numAt h 8 1) 0 && (t == q || (l.shape == 0 && free))) then refuse s
          else ((s.ww reg base).restoreFull q t a l).2

/-! ## Images and their waymarks (R328, R332, R336) -/

/-- The context in which a launch's virtual addresses are reached, from core c (R332). -/
def State.launchCtx (s : State) (l : Launch) (c : Nat) : Ctx :=
  { core := c, part := l.part, level := s.launchLevel l, root := (l.desc.getD 1 0) &&& sysMask 0x082 }

/-- The cores of a shape; 0 for a reserved code (R327). -/
def shapeCores (sh : Nat) : Nat :=
  match sh with
  | 0 => 1 | 1 => 2 | 2 => 4 | 3 => 8
  | n => if 18 ≤ n ∧ n ≤ 32 then 8 * (n - 16) else 0

/-- An image table: its shape, largest waymark distance, the code addresses of n positions, its waymark table and the table's length. -/
structure Image where
  shape : Nat
  dist : Nat
  codes : List Nat
  tab : Nat
  count : Nat
deriving DecidableEq, Repr
/-- The image table at h of a launch; none where it cannot be read. -/
def State.readImage (s : State) (l : Launch) (h c : Nat) : Option Image × State :=
  let n := shapeCores l.shape
  if h % 64 ≠ 0 then (none, s)
  else match s.loadArea (.virt (s.launchCtx l c)) h (64 + 8 * n) with
    | (.error _, s) => (none, s)
    | (.ok m, s) => (some { shape := numAt m 0 2, dist := numAt m 4 4, codes := (List.range n).map fun k => numAt m (64 + 8 * k) 8,
                            tab := numAt m 8 8, count := numAt m 16 4 }, s)
/-- The code addresses of an image that fits the launch and the bound on waymark distances at its dispatch (R332). -/
def State.image (s : State) (l : Launch) (h c : Nat) : Option (List Nat) × State :=
  match s.readImage l h c with
  | (some m, s) => (if m.shape == l.shape && decide (m.dist ≤ getF (s.rw (ppage l.part 0x1808)) 32 21) then some m.codes else none, s)
  | (none, s) => (none, s)

/-- The entry of a waymark table for a bundle address, by halving; n counts the halvings. -/
def State.findLive (s : State) (w : Area) (tab a : Nat) : Nat → Nat → Nat → Except Nat (Option (Sparse Byte)) × State
  | 0, _, _ => (.ok none, s)
  | n + 1, lo, hi =>
    if hi ≤ lo then (.ok none, s)
    else
      let mid := (lo + hi) / 2
      match s.loadArea w (tab + 64 * mid) 64 with
      | (.error k, s) => (.error k, s)
      | (.ok m, s) =>
        let b := numAt m 0 8
        if b = a then (.ok (some m), s)
        else if b < a then State.findLive s w tab a n (mid + 1) hi
        else State.findLive s w tab a n lo mid

/-- The image that core c of a launch runs (R328, R343). -/
def Launch.imageOf (l : Launch) (c : Nat) : Nat := if l.tiles.any fun t => t.rcores.contains c then l.w 11 else l.w 0

/-- What is live at the waymark at an address (R328, R336); none where the table does not list it. -/
def State.liveAt (s : State) (l : Launch) (h c a : Nat) : Except Nat (Option Live) × State :=
  let w : Area := .virt (s.launchCtx l c)
  match s.readImage l h c with
  | (none, s) => (.error cDATA_ABORT, s)
  | (some m, s) => match s.findLive w m.tab a 40 0 m.count with
    | (.error k, s) => (.error k, s)
    | (.ok none, s) => (.ok none, s)
    | (.ok (some m), s) =>
      let k := numAt m 52 2
      match s.loadArea w (numAt m 56 8) (8 * k) with
      | (.error k, s) => (.error k, s)
      | (.ok r, s) =>
        (.ok (some { v := numAt m 8 32, x := numAt m 40 8, acc := numAt m 48 4 % 2 ^ 24
                     spm := (List.range k).map fun i => (numAt r (8 * i) 4, numAt r (8 * i + 4) 4) }), s)
/-- A bundle of core c with WAY is a waymark: its image's table lists it (R336), or no table can say that it does not. -/
def State.atWaymark (s : State) (c a : Nat) : Bool :=
  match s.launchOf c with
  | none => true
  | some l => match (s.liveAt l (l.imageOf c) c a).1 with
    | .ok none => false
    | _ => true

/-! ## Array claims (R277) -/

/-- The part of the array that a claim saves: MX.CTL, CKINJ and the tolerances stay. -/
def Core.resetArray (c : Core) : Core :=
  let c := (upto 0xC1 6).foldl (fun (c : Core) i => c.wsr i (srReset i)) c
  { c with mx := { claim := true } }

/-- A claim or release whose access to the area failed waits, and the stop log tells of it (R362). -/
def State.claimFails (s : State) (c : Nat) (o : Op) (a cause : Nat) : State :=
  (s.setOp c { o with phase := .parked }).stopEntry c 3 a 0 (Xlt.stage2 cause)
/-- The array is saved: the handler has it at its dispatch state. -/
def State.claimed (s : State) (c : Nat) (o : Op) (a : Nat) (bad : Option Nat) : State :=
  match bad with
  | some cause => s.claimFails c o a cause
  | none => (s.modCore c Core.resetArray).dropOp c o.id
/-- The array is put back. -/
def State.released (s : State) (c : Nat) (o : Op) (a : Nat) (r : Except Nat (Sparse Byte)) : State :=
  match r with
  | .error cause => s.claimFails c o a cause
  | .ok m => (s.modCore c fun k => let k := k.setArray m; { k with mx := { k.mx with claim := false } }).dropOp c o.id

/-- The in-place area that a claim of core c works on. -/
def State.claimArea (s : State) (c : Nat) : Nat := if (s.core c).handler then (s.core c).area else s.inplaceArea c

/-- A claim or release whose older array operations have landed writes or reads the array section of the in-place area (R277,
R362). -/
def State.claim (s : State) (c : Nat) (o : Op) : State :=
  let w : Area := .virt (s.handlerCtx c)
  let a := s.claimArea c
  match o.act with
  | some .mclaim =>
    let r := s.storeArea w (a + 0x48000) (s.core c).arrayBlob
    r.2.claimed c o a r.1
  | some .mrelease =>
    let r := s.loadArea w (a + 0x48000) 0x16200
    r.2.released c o a r.1
  | _ => s

end Sys2Proof.Machine
end

