-- ==== Sys2Proof/Machine/Land.lean ====
section
/-! DEFINITION. What lands in a schedule cycle (R70, R71): every operation of a core, by its count; the operations that are late
and freeze it (R4, R165); the stops found at a landing (R195, R225, R259, R269); remote writes (R158); and the matrix replay's
own landings (R276). -/
namespace Sys2Proof.Machine

open Sys2Proof

/-! ## Late operations (R4, R103, R138, R165, R290) -/

/-- The operation is a command whose block is handed over. -/
def Op.isCommand (o : Op) : Bool := match o.act with | some (.red _) | some (.coll _) | some (.lqput _) => true | _ => false
/-- An elastic qld: it never freezes the core (R177). -/
def Op.isQld (o : Op) : Bool := match o.act with | some (.qld _) => true | _ => false
/-- A fence, a group closing, a prefetch or a claim: it has no landing count. -/
def Op.countless (o : Op) : Bool := match o.act with
  | some (.fence ..) | some (.gcommit _) | some (.gabort _) | some (.pref _) | some (.ipref _) | some .mclaim | some .mrelease => true
  | _ => false

/-- The accesses that a tlbiva or tlbiall waits for have performed, and the reductions have ended (R103); an rwait counts once it has reached
its home, satisfied, parked, or to be compared again (log entry 106). -/
def State.invalDone (s : State) (o : Op) : Bool :=
  o.phase == .arrived && (o.xdeps.all fun e => match (s.core e.1).op e.2 with
    | some p => p.performed || p.phase == .parked || (match p.phase with | .recheck _ => true | _ => false)
    | none => true) && o.rdeps.all fun k => s.reds.all (·.key != k)

/-- An operation whose count has run has what it needs to land. -/
def State.ready (s : State) (o : Op) : Bool :=
  match o.act with
  | some (.tlbiva _) | some .tlbiall => s.invalDone o
  | some (.cwait ..) | some (.wpwait ..) => o.phase == .arrived
  | _ =>
    if o.isCommand then o.progress == 1
    else match o.form with
      | some f => f.sp.det || o.phase == .arrived
      | none => true

/-- The operation is to land now: it has a count, the count has run, and it has not failed. -/
def Op.due (o : Op) (sched : Nat) : Bool := !o.fault && !o.countless && !(o.isQld && o.elastic) && decide (o.land ≤ sched)

/-- The freeze index of R427 of a late operation. -/
def Op.lateIndex (o : Op) : Nat := match o.act with | some (.rwait _) => 21 | _ => 19

/-- The late operations of core c: those whose count has run, and that are neither ready nor taken by their port in this wall cycle. -/
def State.lateOps (s : State) (c : Nat) : List Op := (s.core c).pipe.filter fun o => o.due (s.core c).sched && !s.ready o && !o.taken
/-- The causes of the late operations of core c. -/
def State.late (s : State) (c : Nat) : List Nat := (s.lateOps c).map Op.lateIndex

/-! ### What a frozen core waits for -/

/-- An elastic access, a command or a group closing that cannot go on before access p, which was issued before it, has performed: p is
earlier in its class, or a fence, a command, an invalidation or a closing waits for it (R131, R283, R289, R319, R398). c is the core. -/
def Op.needs (o : Op) (c : Nat) (p : Op) : Bool :=
  o.deps.contains p.id || o.xdeps.contains (c, p.id) ||
  (p.elastic && o.ordClass.isSome && p.ordClass == o.ordClass) ||
  (o.pieces.any fun q => q.home == .regs) ||
  (match o.act with
    | some (.gcommit g) | some (.gabort g) => (p.form.bind Form.group) == some g.toNat
    | _ => false)

/-- The operations of core n that must perform before those of a list of numbers do, and these. -/
def Core.awaited (c : Core) (n : Nat) (roots : List Nat) : List Nat :=
  (c.pipe.foldr (fun p w => if roots.contains p.id || w.any (fun o => o.needs n p) then p :: w else w) []).map (·.id)

/-- The elastic accesses of a core. -/
def Core.elastics (c : Core) : List Nat := (c.pipe.filter Op.elastic).map (·.id)
/-- The elastic accesses that write: a ring may be waiting for what they lead to. -/
def Core.writers (c : Core) : List Nat :=
  (c.pipe.filter fun o => o.elastic && (match o.form with | some f => f.acc == .store || f.acc == .atomic | none => false)).map (·.id)

/-- The commands that must complete before those named by channel and number do, and these: the earlier ones of their channels, and those
that their tokens name (R122, R134). n bounds how far they lead. -/
def Core.cmdsBefore (c : Core) : Nat → List (Nat × Nat) → List (Nat × Nat)
  | 0, ws => ws
  | n + 1, ws =>
    let more := c.allCmds.filter fun q => ws.any fun w => w.1 == q.ch && decide (q.seq ≤ w.2)
    Core.cmdsBefore c n (ws ++ more.flatMap fun q => q.deps)
/-- The accesses for which commands wait that must complete before those named do (R131). -/
def Core.cmdAccesses (c : Core) (ws : List (Nat × Nat)) : List Nat :=
  let all := c.cmdsBefore (c.allCmds.length) ws
  (c.allCmds.filter fun q => all.any fun w => w.1 == q.ch && decide (q.seq ≤ w.2)).flatMap fun q => q.after

/-- What a late wait that nothing in the pipe names waits for: a ring, for whatever the core's writes lead to; a token, for the commands
before it; a write pointer, for those of its channel (R138, R309). -/
def Core.waitRoots (c : Core) (o : Op) : List Nat :=
  let w := (o.ws.getD 0 0).toNat
  match o.act with
  | some (.rwait _) => c.writers ++ c.cmdAccesses ((List.range 16).map fun ch => (ch, 2 ^ 56))
  | some (.cwait ..) => c.cmdAccesses [(w % 16, w / 2 ^ 8)]
  | some (.wpwait _ _ ch) => c.cmdAccesses [(ch.toNat, 2 ^ 56)]
  | _ => []

/-- The accesses that core n, frozen by late operations, or before a bundle for the reasons given, waits for. -/
def Core.waitedFor (c : Core) (n : Nat) (lates : List Op) (before : List Nat) : List Nat :=
  c.awaited n (lates.map (·.id) ++ before ++ lates.flatMap c.waitRoots)

/-- The accesses that a frozen core waits for travel on: their arrivals come nearer by one cycle (R10, R115, R156). Log entry 29. -/
def Core.travel (c : Core) (ids : List Nat) : Core :=
  { c with pipe := c.pipe.map fun o =>
      if o.elastic && ids.contains o.id then { o with pieces := o.pieces.map fun q => { q with due := q.due - 1 } } else o }

/-! ## Landing -/

/-- The exception record of a scalar slot. -/
def slotExc (slot : Nat) : Nat := if slot = 2 then 0x011 else 0x010

/-- A scalar destination code takes a word. -/
def Core.wxCode (c : Core) (dest : Nat) (w : Word) : Core := c.wx (dest - 0x100) w

/-- A deferred write lands (R352); one that stands for a signature operation leaves the signature too (R221, R367). -/
def Core.landValue (c : Core) (o : Op) : Core :=
  if !o.dspace && decide (0x100 ≤ o.dest ∧ o.dest < 0x140) then c.wxCode o.dest (o.ws.getD 0 0)
  else (if o.gst = 1 then c.wsr 0x018 (((o.vs.getD 0 []).at_ 0 0).setWidth 64) else c).wDest o.dspace o.dest (o.vs.getD 0 [])

/-- A scalar-slot operation lands (R228 to R237). -/
def Core.landScalar (c : Core) (i : Instr) (o : Op) : Core :=
  let w (k : Nat) : Word := o.ws.getD k 0
  match scalarVal i (w 0) (w 1) (w 2) with
  | some (v, fl) => (c.wxCode o.dest v).raise (slotExc o.slot) fl o.addr
  | none => match i with
    | .loop n _ off => c.arm n.toNat (w 1) (w 2) o.addr off.toNat
    | .loopi n _ off => c.arm n.toNat (w 1) (w 2) o.addr off.toNat
    | .agbase n _ => (c.wsr (0x30 + 4 * n.toNat) (w 0)).wsr (0x33 + 4 * n.toNat) 0
    | .agstep n _ => c.wsr (0x31 + 4 * n.toNat) (w 0)
    | .agwrap n _ => c.wsr (0x32 + 4 * n.toNat) (w 0)
    | _ => c

/-- A load or an atomic that has its bytes lands (R170 to R175, R312). -/
def Core.landLoad (c : Core) (i : Instr) (f : Form) (o : Op) : Core :=
  let bs := Sparse.bytes o.got 0 f.bytes
  match i with
  | .ldb _ | .ldh _ | .ldw _ | .ldd _ | .ldbs _ | .ldhs _ | .ldws _ => c.wxCode o.dest (loadVal i bs)
  | .vld _ | .vgath _ | .vlut _ => c.wv o.dest (Vec.ofImage o.got)
  | .vld16 m => c.wv o.dest ((c.rv o.dest).putSegment m.seg.toNat 16 o.got)
  | .vld32 m => c.wv o.dest ((c.rv o.dest).putSegment m.seg.toNat 32 o.got)
  | .qld _ => c.fill o.id o.got
  | .afaddbW _ | .afaddbD _ =>
    (c.wxCode o.dest (BitVec.ofNat 64 (natLE bs))).wxCode (o.dest + 1) (BitVec.ofNat 64 (o.progress % 2))
  | .rwait _ | .radd _ => c
  | _ => if f.acc = .atomic then c.wxCode o.dest (BitVec.ofNat 64 (natLE bs)) else c

/-- The entry of a witness mismatch (R382, R386). -/
def State.witness (s : State) (c : Nat) (o : Op) : State :=
  let p := (s.core c).part
  let a := getF ((s.core c).rsr 0x019) 11 53 * 4
  s.rel (some p) (relWords s a 1 0 c p o.wit 1)

/-- One operation lands and is over. -/
def State.landOp (s : State) (c : Nat) (o : Op) : State :=
  let s := s.dropOp c o.id
  match o.act with
  | none => s.modCore c fun k => k.landValue o
  | some i => match i.kind with
    | some .mx => s.modCore c fun k => k.landMx i o
    | some .sc => s.modCore c fun k => k.landSc i o
    | some .mv => match Instr.trigger i with
      | some (_, u) =>
        let (k, rep) := (s.core c).landVec i u o
        let s := s.setCore c k
        if rep then s.witness c o else s
      | none => s.modCore c fun k => k.wDest false o.dest (o.vs.getD 0 [])
    | some .mem => match memForm i with
      | some f =>
        if f.acc = .store then (s.modCore c fun k => k.detWrite i f (BitVec.ofNat 64 o.va) (o.vs.getD 0 []) o.bs).arrayWritten c
          (if f.sp = .lane then 1 else 0) (detPlaces i f (BitVec.ofNat 64 o.va) (o.vs.getD 0 []))
        else s.modCore c fun k => k.landLoad i f o
      | none => s
    | _ => match i with
      | .srwr n _ | .srset n _ | .srclr n _ =>
        s.sysWrite c n.toNat (sysNew i (s.sysRead c n.toNat) (o.ws.getD 0 0))
      | i => s.modCore c fun k => k.landScalar i o

/-- An operation that is applied before whatever else lands in its cycle: a write of an exception record or of WC.SIG, before the flags
and the signature of a landing (R201, R222), and of WC.STAT, before a mismatch (log entry 87); then an mpass or a dchk, before a drain (R268,
R272). -/
def Op.landsFirst (o : Op) : Bool := match o.act with
  | some (.srwr n _) | some (.srset n _) | some (.srclr n _) => decide (0x010 ≤ n.toNat ∧ n.toNat ≤ 0x019)
  | _ => false
def Op.landsNext (o : Op) : Bool := match o.act with
  | some .mpass | some .dchk => true
  | _ => false

/-- The accumulation of an accp lands two cycles before its push (R256). -/
def Op.accpDue (o : Op) (sched : Nat) : Bool :=
  match o.act with
  | some (.accp ..) => !o.fault && o.progress % 2 == 0 && decide (o.land ≤ sched + 2)
  | _ => false
def Core.landAccps (c : Core) (sched : Nat) (id : Nat) : Core :=
  match c.op id with
  | some o => if o.accpDue sched then (c.landAccp o).setOp { o with progress := o.progress + 1 } else c
  | none => c

/-- Land what is due of one operation. -/
def State.landOne (s : State) (c : Nat) (id : Nat) : State :=
  let s := s.modCore c fun k => k.landAccps k.sched id
  match (s.core c).op id with
  | some o => if o.due (s.core c).sched && s.ready o then s.landOp c o else s
  | none => s

/-- Land what is due of the operations that test names, in pipe order. -/
def State.landThose (s : State) (c : Nat) (test : Op → Bool) : State :=
  (((s.core c).pipe.filter test).map (·.id)).foldl (fun s id => s.landOne c id) s

/-- Everything of core c that lands in its present cycle: what is applied first, then in the order of issue, which is that of the pipe (R71).
Within one bundle that is the order of the slots: a write of MX.RETRY or CKINJ in sa stands before a clear or an acc (log entry 88). Where
nothing is due it changes nothing. -/
def State.landAll (s : State) (c : Nat) : State :=
  ((s.landThose c Op.landsFirst).landThose c Op.landsNext).landThose c fun _ => true

/-! ## Stops found at a landing (R349) -/

/-- The stop that an operation due now raises: its cause. -/
def Core.landStop (c : Core) (o : Op) : Option Nat :=
  if !o.due c.sched then none
  else match o.act with
    | some i => match i.kind with
      | some .mv => vecStop c i o
      | some .mx => (match mxStop c i with
        | some k => some k
        | none => if dchkStops i o then some cCHECKSUM else none)
      | _ => none
    | none => none

/-- An operation that stops the core at its landing keeps its record with status FAULT; a dchk's outcome has landed and a
conversion's flags are raised (R195, R200, R269). -/
def Core.failLanding (c : Core) (o : Op) (cause : Nat) : Core :=
  let c := match o.act with
    | some .dchk => c.landDchk (o.vs.getD 0 []) o.addr
    | some i => if cause = 0x90 then c.raise 0x017 (vecVal i o.vs 0).2.1 o.addr else c
    | none => c
  c.setOp { o with fault := true, cause := cause }

/-- The operations that stop core c at their landing now, with their causes; a non-replayable one whose capture stage disagreed lands now
(R380). -/
def Core.landStops (c : Core) : List (Op × Nat) :=
  c.pipe.filterMap fun o => if o.fault && o.cause == 0x8D then some (o, 0x8D) else (c.landStop o).map fun k => (o, k)

/-! ## Operations whose count runs in a freeze (R277, R365) -/

/-- The counts of the operations that test names run on by one frozen cycle. -/
def Core.countDown (c : Core) (test : Op → Bool) : Core :=
  { c with pipe := c.pipe.map fun o => if test o then { o with land := o.land - 1 } else o }

/-- An operation of the array or the scale slot. -/
def Op.ofArray (o : Op) : Bool := match o.act with
  | some .mclaim | some .mrelease => false
  | some i => (match i.kind with | some .mx => true | some .sc => true | _ => false)
  | none => false

end Sys2Proof.Machine
end

