-- ==== Sys2Proof/Machine/Issue.lean ====
section
/-! DEFINITION. The sequencer (R43 to R72, R151, R178 to R180, R231 to R246, R289, R423, R424): what is checked before a bundle
issues, the issue of its slots, and the choice of the next bundle; and the schedule cycle of a core, with its freezes (R4), its
stops (R349, R350) and the matrix replay (R276). -/
namespace Sys2Proof.Machine

open Sys2Proof

/-! ## Slots -/

/-- A slot instruction issues: its own meaning, the one that exec gives it. -/
def runSlot (i : Instr) (s : State) : Out :=
  match i with
  | .add a b c => execAdd a b c s
  | .sub a b c => execSub a b c s
  | .and a b c => execAnd a b c s
  | .or a b c => execOr a b c s
  | .xor a b c => execXor a b c s
  | .andn a b c => execAndn a b c s
  | .sll a b c => execSll a b c s
  | .srl a b c => execSrl a b c s
  | .sra a b c => execSra a b c s
  | .slt a b c => execSlt a b c s
  | .sltu a b c => execSltu a b c s
  | .seq a b c => execSeq a b c s
  | .min a b c => execMin a b c s
  | .max a b c => execMax a b c s
  | .minu a b c => execMinu a b c s
  | .maxu a b c => execMaxu a b c s
  | .mul a b c => execMul a b c s
  | .mulh a b c => execMulh a b c s
  | .mulhu a b c => execMulhu a b c s
  | .div a b c => execDiv a b c s
  | .divu a b c => execDivu a b c s
  | .rem a b c => execRem a b c s
  | .remu a b c => execRemu a b c s
  | .clz a b => execClz a b s
  | .ctz a b => execCtz a b s
  | .popc a b => execPopc a b s
  | .addi a b c => execAddi a b c s
  | .andi a b c => execAndi a b c s
  | .ori a b c => execOri a b c s
  | .xori a b c => execXori a b c s
  | .slli a b c => execSlli a b c s
  | .srli a b c => execSrli a b c s
  | .srai a b c => execSrai a b c s
  | .slti a b c => execSlti a b c s
  | .sltiu a b c => execSltiu a b c s
  | .li a b => execLi a b s
  | .lui a b => execLui a b s
  | .lsh a b => execLsh a b s
  | .beq a b c => execBeq a b c s
  | .bne a b c => execBne a b c s
  | .blt a b c => execBlt a b c s
  | .bge a b c => execBge a b c s
  | .bltu a b c => execBltu a b c s
  | .bgeu a b c => execBgeu a b c s
  | .j a => execJ a s
  | .jl a b => execJl a b s
  | .jr a => execJr a s
  | .jlr a b => execJlr a b s
  | .loop a b c => execLoop a b c s
  | .loopi a b c => execLoopi a b c s
  | .lcrd a b => execLcrd a b s
  | .agbase a b => execAgbase a b s
  | .agstep a b => execAgstep a b s
  | .agwrap a b => execAgwrap a b s
  | .agrd a b => execAgrd a b s
  | .srrd a b => execSrrd a b s
  | .srwr a b => execSrwr a b s
  | .srset a b => execSrset a b s
  | .srclr a b => execSrclr a b s
  | .trap a => execTrap a s
  | .brk a => execBrk a s
  | .gsres a => execGsres a s
  | .push a b c d e f g => execPush a b c d e f g s
  | .acc a b c d e => execAcc a b c d e s
  | .accp a b c d e f g h => execAccp a b c d e f g h s
  | .shift a b => execShift a b s
  | .drain a b c d => execDrain a b c d s
  | .mloc a => execMloc a s
  | .mfix a b => execMfix a b s
  | .scla a b => execScla a b s
  | .sclb a b => execSclb a b s
  | .smap a => execSmap a s
  | .sidx a b c => execSidx a b c s
  | .move a b => execMove a b s
  | .vaMov a b c => execVaMov a b c s
  | .vaAdd a b c => execVaAdd a b c s
  | .vaSub a b c => execVaSub a b c s
  | .vaMul a b c => execVaMul a b c s
  | .vaFma a b c => execVaFma a b c s
  | .vaFms a b c => execVaFms a b c s
  | .vaFnma a b c => execVaFnma a b c s
  | .vaMin a b c => execVaMin a b c s
  | .vaMax a b c => execVaMax a b c s
  | .vaAbs a b c => execVaAbs a b c s
  | .vaNeg a b c => execVaNeg a b c s
  | .vaAnd a b c => execVaAnd a b c s
  | .vaOr a b c => execVaOr a b c s
  | .vaXor a b c => execVaXor a b c s
  | .vaAndn a b c => execVaAndn a b c s
  | .vaNot a b c => execVaNot a b c s
  | .vaSll a b c => execVaSll a b c s
  | .vaSrl a b c => execVaSrl a b c s
  | .vaSra a b c => execVaSra a b c s
  | .vaMulhi a b c => execVaMulhi a b c s
  | .vaSel a b c => execVaSel a b c s
  | .vaCeq a b c => execVaCeq a b c s
  | .vaCne a b c => execVaCne a b c s
  | .vaClt a b c => execVaClt a b c s
  | .vaCle a b c => execVaCle a b c s
  | .vaCun a b c => execVaCun a b c s
  | .vaKand a b c => execVaKand a b c s
  | .vaKor a b c => execVaKor a b c s
  | .vaKxor a b c => execVaKxor a b c s
  | .vaKandn a b c => execVaKandn a b c s
  | .vaKnot a b c => execVaKnot a b c s
  | .vaKcnt a b c => execVaKcnt a b c s
  | .vpRotr a b => execVpRotr a b s
  | .vpBcr a b => execVpBcr a b s
  | .vpSumr a b => execVpSumr a b s
  | .vpMaxr a b => execVpMaxr a b s
  | .vpMinr a b => execVpMinr a b s
  | .vpRotc a b => execVpRotc a b s
  | .vpBcc a b => execVpBcc a b s
  | .vpSumc a b => execVpSumc a b s
  | .vpMaxc a b => execVpMaxc a b s
  | .vpMinc a b => execVpMinc a b s
  | .vpTrn16 a b => execVpTrn16 a b s
  | .vpShuf a b => execVpShuf a b s
  | .sfExp2 a b => execSfExp2 a b s
  | .sfLog2 a b => execSfLog2 a b s
  | .sfRcp a b => execSfRcp a b s
  | .sfRsqrt a b => execSfRsqrt a b s
  | .sfSqrt a b => execSfSqrt a b s
  | .sfTanh a b => execSfTanh a b s
  | .sfSin a b => execSfSin a b s
  | .sfCos a b => execSfCos a b s
  | .sfErf a b => execSfErf a b s
  | .cvDn a b c d => execCvDn a b c d s
  | .cvUp a b => execCvUp a b s
  | .cvUpRounding a b c => execCvUpRounding a b c s
  | .wcSig a => execWcSig a s
  | .wcSigclr a => execWcSigclr a s
  | .wcCmp a => execWcCmp a s
  | .apRd a => execApRd a s
  | .apWr a => execApWr a s
  | .apAcc a => execApAcc a s
  | .ldb a => execLdb a s
  | .ldh a => execLdh a s
  | .ldw a => execLdw a s
  | .ldd a => execLdd a s
  | .ldbs a => execLdbs a s
  | .ldhs a => execLdhs a s
  | .ldws a => execLdws a s
  | .stb a => execStb a s
  | .sth a => execSth a s
  | .stw a => execStw a s
  | .std a => execStd a s
  | .vld a => execVld a s
  | .vst a => execVst a s
  | .vld16 a => execVld16 a s
  | .vld32 a => execVld32 a s
  | .vst16 a => execVst16 a s
  | .vst32 a => execVst32 a s
  | .qld a => execQld a s
  | .vgath a => execVgath a s
  | .vscat a => execVscat a s
  | .vlut a => execVlut a s
  | .vlst a => execVlst a s
  | .pref a => execPref a s
  | .ipref a => execIpref a s
  | .aincW a => execAincW a s
  | .aincD a => execAincD a s
  | .afaddbW a => execAfaddbW a s
  | .afaddbD a => execAfaddbD a s
  | .aaddW a => execAaddW a s
  | .aaddD a => execAaddD a s
  | .aaddfW a => execAaddfW a s
  | .acasW a => execAcasW a s
  | .acasD a => execAcasD a s
  | .axchgW a => execAxchgW a s
  | .axchgD a => execAxchgD a s
  | .amaxW a => execAmaxW a s
  | .amaxD a => execAmaxD a s
  | .aminW a => execAminW a s
  | .aminD a => execAminD a s
  | .radd a => execRadd a s
  | .rwait a => execRwait a s
  | .rrd a => execRrd a s
  | .fence a b => execFence a b s
  | .gopen a => execGopen a s
  | .gcommit a => execGcommit a s
  | .gabort a => execGabort a s
  | .cpy a => execCpy a s
  | .cpy2d a => execCpy2d a s
  | .cpyg a => execCpyg a s
  | .cwait a b => execCwait a b s
  | .wpwait a b c => execWpwait a b c s
  | .red a => execRed a s
  | .coll a => execColl a s
  | .lqput a => execLqput a s
  | .tlbiva a => execTlbiva a s
  | .l2wb a => execL2wb a s
  | .l2inv a => execL2inv a s
  | .l2wbinv a => execL2wbinv a s
  | .done => execDone s
  | .resume => execResume s
  | .gsend => execGsend s
  | .dchk => execDchk s
  | .clear => execClear s
  | .mpass => execMpass s
  | .mretry => execMretry s
  | .mclaim => execMclaim s
  | .mrelease => execMrelease s
  | .tlbiall => execTlbiall s
  | _ => .next s

/-- The state of a next outcome. -/
def nextOr (s : State) : Out → State
  | .next t => t
  | _ => s

/-- The order in which the slots of one bundle act: the slots before the moves, then the plain moves, then the triggers, which
capture the latches after all moves (R208). -/
def actOrder (slots : List (Nat × Instr)) : List (Nat × Instr) :=
  let trig (e : Nat × Instr) : Bool := (Instr.trigger e.2).isSome
  slots.filter (fun e => !trig e) ++ slots.filter trig

/-- One slot of the bundle at an address of core c issues. -/
def State.runAt (s : State) (c addr : Nat) (wit : Bool) (e : Nat × Instr) : State :=
  let s := { s with cur := { core := c, slot := e.1, addr := addr, wit := wit } }
  nextOr s (runSlot e.2 s)

/-! ## Checks before issue -/

/-- What the sequencer finds when a bundle is due; a freeze has its index of R427 and the operations that it waits for. -/
inductive Look
  | stop (st : Stop) (hit : Option Nat)
  | freeze (idx : Nat) (on : List Nat)
  | fetch (line : Nat)
  | waymark
  | go (b : Bundle)
deriving DecidableEq, Repr

/-- The comparators that match an address (R423). -/
def Core.hits (c : Core) (a : Nat) : Nat :=
  (List.range 8).foldl (fun m n =>
    let b := c.rsr (0x188 + n)
    if bitN b.toNat 0 && getF b 2 53 * 4 == a then m + 2 ^ n else m) 0

/-- The first line of n bytes at an address that core c does not hold. -/
def State.missing (s : State) (c a n : Nat) : Option Nat :=
  (upto (a / 128) ((a + n - 1) / 128 - a / 128 + 1)).find? fun l => !s.lineHeld c l

/-- A line is not held: the fetch is waited for, or has failed (R245, R246, R372). -/
def State.unfetched (s : State) (c line : Nat) : Look :=
  match (s.core c).fetchFail with
  | some (l, d) => if l = line then .stop { cause := 0x86, detail := d, addr := (s.core c).pc } none else .fetch line
  | none => .fetch line

/-- The slot whose unit is busy (R66). -/
def Core.busySlot (c : Core) : List (Nat × Instr) → Option Nat
  | [] => none
  | (k, i) :: r =>
    let u : Option Nat := match Instr.trigger i with
      | some (_, u) => some u.code
      | none => match i with
        | .div .. | .divu .. | .rem .. | .remu .. => some (7 + k)
        | _ => none
    match u with
    | some u => if c.sched < Sparse.get 0 c.unitEnd u then some k else Core.busySlot c r
    | none => Core.busySlot c r

/-- The lowest slot that needs a level the core is not at (R67). -/
def Core.deniedSlot (c : Core) (slots : List (Nat × Instr)) : Option Nat :=
  (slots.find? fun e => !c.level.reaches e.2.needs).map (·.1)

/-- The violation of R68 that the slots of a decoded bundle make in this state: reason and slot. -/
def Core.illegal (c : Core) (slots : List (Nat × Instr)) : Option (Nat × Nat) :=
  match doubleDest [] slots with
  | some k => some (5, k)
  | none => match c.busySlot slots with
    | some k => some (6, k)
    | none => (c.deniedSlot slots).map fun k => (7, k)

/-- The link of a jl or jlr needs the headers of the two bundles that follow (R232): the first line missing for them. -/
def State.linkMissing (s : State) (c : Nat) : Nat → Nat → Option Nat
  | 0, _ => none
  | n + 1, a => match s.code c a 4 with
    | some h => State.linkMissing s c n (codeAddr (a + Header.len h))
    | none => s.missing c a 4
/-- The bundle holds a jl or jlr. -/
def hasLink (slots : List (Nat × Instr)) : Bool := slots.any fun e => match e.2 with | .jl .. | .jlr .. => true | _ => false

/-! ### Ports (R151, R152, R254) -/

/-- The ports that one slot needs and the core with the generators it advances. -/
def Core.wants (c : Core) (i : Instr) : List (Nat × Nat) × Core :=
  let beat (ga gb : BitVec 2) (fa fb : ArrFmt) (p : BitVec 3) (sp : Bool) : List (Nat × Nat) × Core :=
    let (d, aa, bb) := c.twoAg ga.toNat gb.toNat
    ([(portOf (aa / 2 ^ 20 % 4) false, (lenA fa p.toNat sp + 511) / 512), (portOf (bb / 2 ^ 20 % 4) false, (lenB fa fb p.toNat sp + 511) / 512)], d)
  let scale (ag : BitVec 2) : List (Nat × Nat) × Core := ([(portOf ((c.ag ag.toNat).toNat / 2 ^ 20 % 4) false, 1)], c)
  match i with
  | .push _ ga gb fa fb p sp => beat ga gb fa fb p sp
  | .accp _ ga gb fa fb p sp _ => beat ga gb fa fb p sp
  | .scla _ ag => scale ag
  | .sclb _ ag => scale ag
  | .smap ag => scale ag
  | .sidx _ ag _ => scale ag
  | .vgath m | .vscat m | .vlut m | .vlst m => (match memForm i with | some f => accessPorts i f (c.rx m.a.toNat) | none => [], c)
  | .vld16 m | .vld32 m | .vst16 m | .vst32 m => (match memForm i with | some f => accessPorts i f (addrMS c m) | none => [], c)
  | .ldb m | .ldh m | .ldw m | .ldd m | .ldbs m | .ldhs m | .ldws m | .stb m | .sth m | .stw m | .std m | .vld m | .vst m | .qld m =>
    (match memForm i with | some f => accessPorts i f (addrM c m) | none => [], c)
  | _ => ([], c)

/-- Every port the bundle needs, in the order ca, cb, mx, sc: slot, port, cycles. -/
def Core.allWants (c : Core) (slots : List (Nat × Instr)) : List (Nat × Nat × Nat) :=
  let of (c : Core) (k : Nat) : List (Nat × Nat × Nat) × Core :=
    match slots.find? fun e => e.1 == k with
    | some e => let (l, d) := c.wants e.2; (l.map fun w => (k, w.1, w.2), d)
    | none => ([], c)
  let (ca, _) := of c 5
  let (cb, _) := of c 6
  let (mx, d) := of c 3
  let (sc, _) := of d 4
  ca ++ cb ++ mx ++ sc

/-- The first conflict as STOP.BANK lays it out; held are the ports (port, end, holder). -/
def bankConflict (sched : Nat) : List (Nat × Nat × Nat) → List (Nat × Nat × Nat) → Option Word
  | _, [] => none
  | held, (slot, port, n) :: r =>
    match held.find? fun h => h.1 == port with
    | some (_, e, holder) => some (BitVec.ofNat 64 (port / 2 + port % 2 * 8 + slot * 16 + holder * 256 + (e - sched) * 4096))
    | none => bankConflict sched ((port, sched + n, slot) :: held) r

/-- The bank conflict of a bundle (R151). -/
def Core.conflict (c : Core) (slots : List (Nat × Instr)) : Option Word :=
  bankConflict c.sched ((c.ports.filter fun p => decide (c.sched < p.2.1)).map fun p => (p.1, p.2.1, 0xF)) (c.allWants slots)

/-! ### Queues (R178 to R180) -/

/-- The queue that a slot pops or peeks, and whether it pops. -/
def readsQueue (i : Instr) : Option (Nat × Bool) :=
  match Instr.moveSrc i with
  | some (.pop n) => some (n.toNat, true)
  | some (.peek n) => some (n.toNat, false)
  | _ => none
/-- The queue a slot fills. -/
def fillsQueue : Instr → Option Nat
  | .qld m => some (m.tg.toNat % 4)
  | _ => none

/-- The operation that reserved a queue entry is still to bring its data: the entry is not filled, and its data is not taken in this cycle. -/
def Core.awaits (c : Core) (e : QEntry) : Bool := !e.filled && !(c.op e.op).any Op.taken
/-- A queue stop of a bundle: its cause, with SLOT and QUEUE (R180), the lowest queue's where several meet the condition (DESIGN CHOICE, log
entry 112); or the freeze on heads that elastic qlds reserved, and these. -/
def Core.queueLook (c : Core) (slots : List (Nat × Instr)) : Option (Stop ⊕ List Nat) :=
  let names (n : Nat) (e : Nat × Instr) : Bool := (readsQueue e.2).any (·.1 == n) || fillsQueue e.2 == some n
  let slotOf (n : Nat) : Nat := match slots.find? (names n) with | some e => e.1 | none => 0
  let stop (cause n : Nat) : Stop ⊕ List Nat := .inl { cause := cause, detail := slotOf n * 16 + n * 256, addr := c.pc }
  let pops (n : Nat) : Nat := slots.countP fun e => readsQueue e.2 == some (n, true)
  let fills (n : Nat) : Nat := slots.countP fun e => fillsQueue e.2 == some n
  let reads := (List.range 4).filter fun n => slots.any fun e => (readsQueue e.2).any (·.1 == n)
  let head (n : Nat) : Option QEntry := (c.queue n).head?
  match (List.range 4).find? fun n => fills n != 0 && decide (8 < (c.queue n).length - pops n + fills n) with
  | some n => some (stop 0x83 n)
  | none => match reads.find? fun n => (head n).isNone with
    | some n => some (stop 0x84 n)
    | none => match reads.find? fun n => (head n).any fun e => !e.filled && e.spm with
      | some n => some (stop 0x85 n)
      | none =>
        match reads.filterMap fun n => (head n).bind fun e => if c.awaits e then some e.op else none with
        | [] => none
        | ids => some (.inr ids)

/-! ### Freezes before issue (R101, R121, R277, R289, R319) -/

/-- A gcommit or gabort has not performed yet. -/
def Core.anyClosing (c : Core) : Bool := c.pipe.any fun o => match o.act with | some (.gcommit _) | some (.gabort _) => true | _ => false
/-- The class of an access that a fence orders: deterministic accesses have none (R289). -/
def fenceClass (i : Instr) : Option Nat := match memForm i with
  | some f => if f.sp.det then none else Instr.ordClass i
  | none => Instr.ordClass i
/-- A fence holds an access of the bundle (R289). -/
def Core.fenced (c : Core) (slots : List (Nat × Instr)) : Bool :=
  slots.any fun e => match fenceClass e.2 with
    | some k => c.pipe.any fun o => o.fences k
    | none => false
/-- Outstanding-request entries that the slots need: one for each elastic access, and one for a prefetch in an earlier slot (R101, R166). -/
def needEntries : List (Nat × Instr) → Nat
  | [] => 0
  | e :: r =>
    let n := needEntries r
    match e.2 with
    | .pref _ | .ipref _ => if n = 0 then 0 else n + 1
    | i => n + b2n (match memForm i with | some f => !f.sp.det | none => false)
/-- The channel of a copy command. -/
def copyChan : Instr → Option Nat
  | .cpy m => some m.ch.toNat | .cpy2d m => some m.ch.toNat | .cpyg m => some m.ch.toNat
  | _ => none
/-- A copy command of the bundle finds its channel full (R121). -/
def Core.channelFull (c : Core) (slots : List (Nat × Instr)) : Bool :=
  let chs := slots.filterMap fun e => copyChan e.2
  chs.any fun ch => decide (8 < (c.chan ch).length + chs.countP (· == ch))

/-- The fences and the closings of groups that have not performed. -/
def Core.barriers (c : Core) : List Nat := (c.pipe.filter fun o => match o.act with
  | some (.fence ..) | some (.gcommit _) | some (.gabort _) => true
  | _ => false).map (·.id)
/-- The freeze that the bundle meets before it issues, by its index of R427, and the operations that it waits for. -/
def Core.preFreeze (c : Core) (slots : List (Nat × Instr)) : Option (Nat × List Nat) :=
  if c.channelFull slots || (needEntries slots != 0 && decide (1024 < c.requests + needEntries slots)) then
    some (19, c.elastics.filter (fun _ => needEntries slots != 0 && decide (1024 < c.requests + needEntries slots)) ++
      c.cmdAccesses ((slots.filterMap fun e => copyChan e.2).map fun ch => (ch, 2 ^ 56)))
  else if c.anyClosing || c.fenced slots then some (22, c.barriers) else none

/-- What the sequencer of core c finds at its next bundle. -/
def State.look (s : State) (c : Nat) : Look :=
  let k := s.core c
  let a := k.pc
  let hit := k.hits a
  if !k.skipBrk && hit != 0 then .stop { cause := 0x88, addr := a } (some hit)
  else if k.stepFrom then .stop { cause := 0x89, addr := a } none
  else match s.code c a 4 with
  | none => s.unfetched c (a / 128)
  | some h =>
    match s.missing c a (Header.len h) with
    | some l => s.unfetched c l
    | none =>
      if Header.way h && k.wmStop != 0 && !k.handler then .waymark
      else match decodeBundle ((s.code c a (Header.len h)).getD 0) with
      | .error (r, sl) => .stop { cause := 0x81, detail := r + 16 * sl, addr := a } none
      | .ok b => match k.illegal b.slots with
        | some (r, sl) => .stop { cause := 0x81, detail := r + 16 * sl, addr := a } none
        | none => match (if hasLink b.slots then s.linkMissing c 2 (codeAddr (a + b.len)) else none) with
          | some l => s.unfetched c l
          | none => match k.conflict b.slots with
            | some w => .stop { cause := 0x82, addr := a, bank := some w } none
            | none => match k.queueLook b.slots with
              | some (.inl st) => .stop st none
              | some (.inr ids) => (match k.preFreeze b.slots with
                | some (i, more) => .freeze (min 20 i) (ids ++ more)
                | none => .freeze 20 ids)
              | none => match k.preFreeze b.slots with
                | some (i, ids) => .freeze i ids
                | none => .go b

/-! ## Issue -/

/-- The loops that end at an address, in descending n (R234): the counters, and the loop that transfers. -/
def Core.endLoops (c : Core) (a : Nat) : List Nat → Core × Option Nat
  | [] => (c, none)
  | n :: ns =>
    if c.loopCnt n ≠ 0 ∧ c.loopEnd n = a then
      if 2 ≤ c.loopCnt n then (c.wsr (0x20 + 4 * n) (BitVec.ofNat 64 (c.loopCnt n - 1)), some n)
      else Core.endLoops (c.wsr (0x20 + 4 * n) 0) a ns
    else Core.endLoops c a ns

/-- Transfers taken come nearer by one bundle; the target of one that is due (R231). -/
def Core.tickPend (c : Core) : Core × Option Nat :=
  let p := c.pend.map fun e => (e.1, e.2 - 1)
  ({ c with pend := p.filter fun e => e.2 != 0 }, (p.find? fun e => e.2 == 0).map (·.1))

/-- The sequencer chooses the next bundle after the one at a (R231, R234, R235), and the loop that transferred, if the transfer is
what issues next. -/
def Core.sequence (c : Core) (a len : Nat) : Core × Option Nat :=
  let (c, loop) := c.endLoops a [3, 2, 1, 0]
  let (c, due) := c.tickPend
  match due, loop with
  | some t, _ => ({ c with pc := t }, none)
  | none, some n => ({ c with pc := c.loopFirst n }, some n)
  | none, none => ({ c with pc := codeAddr (a + len) }, none)

/-- The lines of a bundle become the most recently used (R244). -/
def State.useLines (s : State) (c a n : Nat) : State :=
  (upto (a / 128) ((a + n - 1) / 128 - a / 128 + 1)).foldl (fun s l => match s.heldLine c l with
    | some x => s.modCore c fun k => k.icTouch x.set_ x.line
    | none => s) s

/-- What the issue of a bundle begins with. -/
def Core.beginIssue (c : Core) : Core :=
  { c with bundleId := c.nextId, pops := [], skipBrk := false, ports := c.ports.filter fun p => decide (c.sched < p.2.1)
           fetchFail := none }

/-- A schedule cycle is over. -/
def Core.passCycle (c : Core) (loops slots : List Nat) (wit : Bool) : Core :=
  let c := c.charge loops slots wit
  { c with sched := c.sched + 1, wmCount := if c.wmStop ≠ 0 then c.wmCount + 1 else c.wmCount }

/-- What the issue of a bundle ends with: pops, the sequencer, the idle count and the schedule cycle itself. A waymark restarts the watchdog
(R383) and is traced (R429). -/
def State.endIssue (s : State) (c a : Nat) (b : Bundle) (loops : List Nat) (before : Nat) : State :=
  let k := s.core c
  let taken := decide (before < k.pend.length)
  let way := b.way && s.atWaymark c a
  let k := k.popHeads k.pops
  let (k, loop) := k.sequence a b.len
  let k := match loop with | some n => k.count [n] 26 1 | none => k
  let k := { k with nextIssue := k.sched + b.idle + 1, lastAddr := a, pops := [], stepFrom := bitN (k.rsr 0x180).toNat 0
                    wdStart := if way then s.time.toNat else k.wdStart }
  let s := s.setCore c k
  let s := if taken || loop.isSome then s.trace c 2 0 a else s
  let s := if way then s.trace c 4 0 a else s
  s.modCore c fun k => k.passCycle loops (b.slots.map (·.1)) b.wit

/-- The operations of the bundle that has just issued stand in the order of their slots (R69, R352). -/
def Core.inSlotOrder (c : Core) : Core :=
  let new := c.pipe.filter fun o => decide (c.bundleId ≤ o.id)
  { c with pipe := c.pipe.filter (fun o => decide (o.id < c.bundleId)) ++ (upto 1 15).flatMap fun k => new.filter fun o => o.slot == k }

/-- A bundle issues (R4, R231): all its slots in one schedule cycle. -/
def State.issueBundle (s : State) (c : Nat) (b : Bundle) : State :=
  let k := s.core c
  let a := k.pc
  let cur := s.cur
  let s := (s.useLines c a b.len).modCore c Core.beginIssue
  let s := ((actOrder b.slots).foldl (fun s e => s.runAt c a b.wit e) s).modCore c Core.inSlotOrder
  { s.endIssue c a b k.activeLoops k.pend.length with cur := cur }

/-- The words of a core's instruction cache, by their device physical addresses, that hold n bytes of code at a. -/
def State.codeWords (s : State) (c a n : Nat) : List Nat :=
  (upto (a / 8) ((a + n - 1) / 8 - a / 8 + 1)).filterMap fun w => (s.heldLine c (w / 16)).map fun l => l.line * 16 + w % 16
/-- The bundle at a is read from the instruction cache: an upset of one bit in its words is corrected and recorded (R82); one of two is recorded,
false is the answer, and its line is dropped, so that the next fetch reads it again (R83; log entry 84). -/
def State.codeRead (s : State) (c a : Nat) : Bool × State :=
  if s.strikes.isEmpty then (true, s)
  else
    let ws := s.codeWords c a (match s.code c a 4 with | some h => Header.len h | none => 4)
    let hit := s.strikes.filter fun x => x.arr == 4 && x.core == c && decide (x.wall ≤ s.wall) && ws.contains x.word
    let s := hit.foldl (fun s x => s.record (some (s.core c).part) (x.word * 8) 15
      { kind := if x.double then 3 else 1, site := 6, die := dieOf c, core := c } 0) s
    let lost := (hit.filter (·.double)).map fun x => x.word / 16
    let s := s.modCore c fun k => { k with icache := k.icache.filter fun l => !lost.contains l.line }
    (lost.isEmpty, { s with strikes := s.strikes.filter fun x => !hit.contains x })
/-- A fetch whose datum is uncorrectable stops the core (R246). -/
def badFetch (a : Nat) : Stop := { cause := 0x86, detail := 0x100, addr := a }
/-- A look that read the bundle: comparators and the single step come before the fetch (R423). -/
def Look.fetched : Look → Bool
  | .stop st _ => st.cause != 0x88 && st.cause != 0x89
  | .fetch _ => false
  | _ => true

/-- The core is due to look at its next bundle. -/
def Core.dueIssue (c : Core) : Bool := c.run == .running && !c.resuming && decide (c.nextIssue ≤ c.sched) && c.mretry.isNone

/-- R231: BUNDLE_ISSUE of the cursor's core in its present schedule cycle, in which what is left to land has landed: the bundle issues, or
stops before issue, or the cycle is an idle one. A core that is frozen in this wall cycle, or whose access has failed in it, does
nothing. -/
def State.bundleIssue (s : State) (c : Nat) : State :=
  let k := s.core c
  if k.freeze ≠ 0 then s
  else if k.pipe.any (·.fault) then s.modCore c fun k => k.lose 19
  else
    let t := s.landAll c
    if k.dueIssue then
      let look := t.look c
      let read (s : State) : Bool × State := if look.fetched then s.codeRead c k.pc else (true, s)
      if !(read s).1 then (read s).2.takeStop c (badFetch k.pc)
      else match look with
      | .stop st hit =>
        let s := (read s).2
        let s := match hit with
          | some h => s.modCore c fun k => k.wsr 0x181 (BitVec.ofNat 64 h)
          | none => s
        s.takeStop c st
      | .waymark => { t with turn := { cur := { core := c }, act := .waymarkStop } :: t.turn }
      | .go b => (read t).2.issueBundle c b
      | .freeze i _ => (read s).2.modCore c fun k => k.lose i
      | .fetch l => s.modCore c fun k => { k with fetchWait := some l }.lose 18
    else if k.run = .running ∨ (k.run = .ended ∧ k.pipe ≠ []) then t.modCore c fun k => k.passCycle k.activeLoops [] false
    else s
def execBundleIssue (s : State) : Out := onCore s fun s => s.bundleIssue s.cur.core

/-! ## The matrix replay (R276) -/

/-- The core as the replay runs it: the replay's cycle, its operations and its copies of the generators and loops. -/
def Core.inReplay (c : Core) (r : Replay) : Core :=
  let c := { c with sched := r.cyc, pipe := r.pipe, ports := r.ports, mretry := none }
  let c := (List.range 16).foldl (fun (c : Core) k => c.wsr (0x30 + k) (r.ag.getD k 0)) c
  (List.range 12).foldl (fun (c : Core) k => c.wsr (0x20 + 4 * (k / 3) + k % 3) (r.lp.getD k 0)) c

/-- The replay's copies taken back out of such a core d, and the live ones of c put in again. A replay that an mretry has started in it runs
first (R275). -/
def Core.outReplay (d c : Core) (r : Replay) : Core :=
  let r := { r with pipe := d.pipe, ports := d.ports.filter (fun p => decide (d.sched < p.2.1)), ag := (List.range 16).map fun k => d.rsr (0x30 + k)
                    lp := (List.range 12).map fun k => d.rsr (0x20 + 4 * (k / 3) + k % 3) }
  let d := (upto 0x20 32).foldl (fun (d : Core) i => d.wsr i (c.rsr i)) d
  let d := { d with sched := c.sched, pipe := c.pipe, ports := c.ports }
  match d.mretry with
  | none => { d with mretry := some r }
  | some _ => { d with mouter := r :: d.mouter }

/-- The array slots of a bundle that the replay issues: drains are masked. -/
def replaySlots (slots : List (Nat × Instr)) : List (Nat × Instr) :=
  slots.filter fun e => (e.1 == 3 || e.1 == 4) && match e.2 with
    | .drain .. => false
    | _ => true

/-- The failing dchk that lands in a replay and stops the core. -/
def Core.replayFails (c : Core) : Option Op :=
  c.pipe.find? fun o => o.due c.sched && (match o.act with | some i => dchkStops i o | none => false)

/-- The replay ends: PEND is cleared, and a replay in which it ran goes on. -/
def Core.endReplay (c : Core) : Core := { c.wsr rRETRY (setF (c.rsr rRETRY) 8 1 0) with mretry := c.mouter.head?, mouter := c.mouter.drop 1 }
/-- A stop ends a replay and those in which it ran. -/
def Core.stopReplay (c : Core) : Core := { c.endReplay with mretry := none, mouter := [] }

/-- A bundle of the replay that finds a bank conflict among its array slots does not issue (R254): STOP.BANK as R151 lays it out. -/
def State.replayConflict (s : State) (c : Nat) (r : Replay) : Option Word :=
  match (s.code c r.pc 4).bind fun h => if (s.missing c r.pc (Header.len h)).isSome then none else (s.code c r.pc (Header.len h)).map decodeBundle with
  | some (.ok b) => (s.core c).conflict (replaySlots b.slots)
  | _ => none

/-- The replay's sequencer at its bundle: issue it masked, or wait for its lines. -/
def State.replayIssue (s : State) (c : Nat) (r : Replay) : State × Replay :=
  match s.code c r.pc 4 with
  | none => (s.modCore c fun k => { k with fetchWait := some (r.pc / 128) }, { r with cyc := r.cyc - 1 })
  | some h => match s.missing c r.pc (Header.len h) with
    | some l => (s.modCore c fun k => { k with fetchWait := some l }, { r with cyc := r.cyc - 1 })
    | none => match decodeBundle ((s.code c r.pc (Header.len h)).getD 0) with
      | .error _ => (s, { r with last := true })
      | .ok b =>
        let cur := s.cur
        let s := (replaySlots b.slots).foldl (fun s e => s.runAt c r.pc b.wit e) s
        let (k, loop) := (s.core c).endLoops r.pc [3, 2, 1, 0]
        let s := { s.setCore c k with cur := cur }
        let fail := codeAddr (k.rsr rFAILADDR).toNat
        let next := match loop with | some n => k.loopFirst n | none => codeAddr (r.pc + b.len)
        (s, { r with pc := next, next := r.cyc + b.idle + 1, last := r.pc == fail })

/-- The claim that freezes the core (R277), if one does. -/
def Core.claiming (c : Core) : Option Op := c.pipe.find? fun o => match o.act with | some .mclaim | some .mrelease => true | _ => false
/-- A frozen cycle of a claim: the array's operations land by their counts, those issued before an mclaim, or every one where the handler
releases, the scale operation of its own bundle too; and then it is made. -/
def State.claimStep (s : State) (c : Nat) (o : Op) : State :=
  let before := match o.act with
    | some .mrelease => (s.core c).pipe
    | _ => (s.core c).pipe.takeWhile fun p => p.id != o.id
  let older := before.any Op.ofArray
  if older then s.modCore c fun k => k.countDown Op.ofArray
  else if o.phase = .fly then s.claim c o else s
def State.claimCycle (s : State) (c : Nat) (o : Op) : State := (s.claimStep c o).modCore c fun k => k.lose 19

/-- A failing dchk stops the core in its replay: the outcome has landed, PEND is cleared and the record is a FAULT one (R269, R276). -/
def Core.replayChecksum (d live : Core) (r : Replay) (o : Op) : Core :=
  let k := ((d.landDchk (o.vs.getD 0 []) o.addr).outReplay live r).stopReplay
  { k with pipe := { o with land := k.sched, fault := true, cause := cCHECKSUM } :: k.pipe }

/-- An operation that a replay issued and that was stopped at its issue: its record joins those of the program, and the replay stays
pending. Log entry 89. -/
def Core.replayFault (d live : Core) (r : Replay) (o : Op) : Core :=
  let k := d.outReplay live r
  { k with pipe := k.pipe ++ [{ o with land := k.sched + (o.land - d.sched), resvEnd := k.sched + (o.resvEnd - d.sched) }] }

/-- One wall cycle of a matrix replay, frozen for the program. -/
def State.replayCycle (s : State) (c : Nat) (r : Replay) : State :=
  let live := s.core c
  match live.fetchFail with
  | some (l, d) =>
    if r.pc / 128 ≤ l ∧ l ≤ r.pc / 128 + 1 then (s.modCore c fun k => k.lose 17).takeStop c { cause := 0x86, detail := d, addr := r.pc }
    else s.modCore c fun k => { k with fetchFail := none }.lose 17
  | none =>
    let s := s.setCore c (live.inReplay r)
    let d := s.core c
    match d.replayFails, d.pipe.find? (·.fault) with
    | some o, _ => (s.setCore c ((d.replayChecksum live r o).lose 17)).takeStop c { cause := cCHECKSUM, addr := o.addr }
    | none, some o => (s.setCore c ((d.replayFault live r o).lose 17)).takeStop c { cause := o.cause, addr := o.addr }
    | none, none =>
      let s := s.landAll c
      match (s.core c).claiming with
      | some o =>
        let s := s.claimStep c o
        s.setCore c (((s.core c).outReplay live r).lose 17)
      | none =>
        let pending := (s.core c).pipe.any fun o => o.act == some Instr.dchk && !o.fault
        if r.last && !pending then (s.setCore c (((s.core c).outReplay live r).endReplay.lose 17))
        else
          let now := !r.last && decide (r.next ≤ r.cyc)
          let (ok, s) := if now then s.codeRead c r.pc else (true, s)
          if !ok then (s.setCore c (((s.core c).outReplay live r).lose 17)).takeStop c (badFetch r.pc)
          else
          match (if now then s.replayConflict c r else none) with
          | some w =>
            (s.setCore c (((s.core c).outReplay live r).lose 17)).takeStop c { cause := 0x82, addr := r.pc, bank := some w }
          | none =>
          let (s, r) := if now then s.replayIssue c r else (s, r)
          s.setCore c (((s.core c).outReplay live { r with cyc := r.cyc + 1 }).lose 17)

/-! ## The schedule cycle of a core -/

/-- The stops that take effect at the start of a cycle before the bundle is looked at (R349, R350). -/
def State.urgent (s : State) (c : Nat) : Option State :=
  let k := s.core c
  match ([0x8C, 0x8E, 0x8A] : List Nat).find? k.ext.contains with
  | some x => some (s.takeStop c { cause := x })
  | none => match k.landStops with
    | (o, cause) :: r =>
      let s := s.modCore c fun k => ((o, cause) :: r).foldl (fun (k : Core) e => k.failLanding e.1 e.2) k
      some (s.takeStop c { cause := cause, addr := o.addr })
    | [] => match k.trapped with
      | some (cause, d) => some (s.takeStop c { cause := cause, detail := d, addr := k.lastAddr })
      | none => match k.pipe.find? (·.fault) with
        | some o => some (s.takeStop c { cause := o.cause, addr := o.addr })
        | none => none

/-- A frozen cycle in which a resume waits for the handler's operations (R365). -/
def State.drainCycle (s : State) (c : Nat) : State :=
  let s := s.landAll c
  if (s.core c).pipe = [] then (s.modCore c fun k => k.lose 19).resumeInPlace c
  else match (s.core c).claiming with
    | some o => s.claimCycle c o
    | none => s.modCore c fun k => ((k.countDown fun _ => true).travel k.elastics).lose 19

/-- An operation due now whose data its port takes in this wall cycle: it lands with the bundle's issue. -/
def State.takenNow (s : State) (c : Nat) (o : Op) : Bool := o.due (s.core c).sched && !s.ready o && o.taken

/-- What the sequencer of core c will find once everything due has landed; none where no bundle is due. -/
def State.lookAhead (s : State) (c : Nat) : Option Look :=
  let t := (s.modCore c fun k => { k with pipe := k.pipe.filter fun o => !s.takenNow c o }).landAll c
  if (t.core c).dueIssue then some (t.look c) else none

/-- The freeze index that a look names, and what it waits for. -/
def Look.frozen : Option Look → List Nat
  | some (.freeze i _) => [i]
  | some (.fetch _) => [18]
  | _ => []
def Look.waitsOn : Option Look → List Nat
  | some (.freeze _ on) => on
  | _ => []

/-- Core c loses this wall cycle to the first cause of a list; the accesses that it waits for travel on. -/
def State.frozenCycle (s : State) (c : Nat) (look : Option Look) (i : Nat) (is : List Nat) : State :=
  let lates := s.lateOps c
  s.modCore c fun k =>
    let k := k.travel (k.waitedFor c lates (Look.waitsOn look))
    { k with fetchWait := match look with | some (.fetch l) => some l | _ => k.fetchWait }.lose (is.foldl min i)

/-- A cycle in which nothing stops the core from above: it lands what is due, or is frozen. Where a port takes the data of a load in this
cycle, only the stores land now, and the rest with the bundle (R158). -/
def State.plainCycle (s : State) (c : Nat) : State :=
  let t := s.landAll c
  match (t.core c).claiming with
  | some o => t.claimCycle c o
  | none =>
    let lates := s.late c
    let look := s.lookAhead c
    let stops := match look with | some (.stop ..) => lates.isEmpty | _ => false
    let k := s.core c
    match k.ext with
    | x :: _ =>
      if stops then s.modCore c fun k => { k with freeze := 0 } else s.takeStop c { cause := x }
    | [] =>
      match lates ++ Look.frozen look with
      | [] =>
        let t := if k.pipe.any (s.takenNow c) then s.landThose c Op.detStore else t
        (if stops then s else t).modCore c fun k => { k with freeze := 0 }
      | i :: is => s.frozenCycle c look i is

/-- The index under which a swallowed pulse is counted: a freeze that falls in it comes first (R377, R427). -/
def State.swallowedIndex (s : State) (c : Nat) : Nat :=
  let k := s.core c
  if k.mretry.isSome then 17
  else if k.resuming || ((s.landAll c).core c).claiming.isSome then 19
  else (s.late c ++ Look.frozen (s.lookAhead c)).foldl min 23

/-- A cycle in which the core's clock runs: the matrix replay, the reissue of a resume, the stop, the resume or the plain cycle. -/
def State.clockCycle (s : State) (c : Nat) : State :=
  match (s.core c).mretry with
  | some r => match ([0x8C, 0x8E, 0x8A, 0x8B] : List Nat).find? (s.core c).ext.contains with
    | some x => s.takeStop c { cause := x }
    | none => s.replayCycle c r
  | none =>
    let s := if (s.core c).staged then s.reissueAll c else s
    match s.urgent c with
    | some s => s
    | none => if (s.core c).resuming then s.drainCycle c else s.plainCycle c

/-- One wall cycle of core c: what lands in its schedule cycle, or the freeze, the swallowed pulse, the replay, the resume or the
stop that it meets instead. What the remote port took in the last cycle is written after the core's own landings (R158). -/
def State.landCycle (s : State) (c : Nat) : State :=
  if !(s.core c).on then s
  else
    let s := s.settle c
    if (s.core c).replay ≠ 0 then s.modCore c fun k => ({ k with replay := k.replay - 1 }.lose 16).takeRemote
    else if s.swallows c then
      let i := s.swallowedIndex c
      s.modCore c fun k => if k.mretry.isSome then { k.lose i with freeze := 23 } else k.lose i
    else (s.clockCycle c).modCore c Core.takeRemote
/-- R70: OPERATION_LANDS of the cursor's core in its present wall cycle. -/
def execOperationLands (s : State) : Out := onCore s fun s => s.landCycle s.cur.core

end Sys2Proof.Machine
end

