-- ==== Sys2Proof/Machine/Sched.lean ====
section
/-! DEFINITION. Launches and the hardware scheduler (R326 to R346, R361, R381, R394, R403, R441): descriptors, waits, order and
placement, dispatch and the return of saved launches, slices and pre-emption, cancels and kills, guarded tiles, completion, the
pool's turns, and the save engine's event. -/
namespace Sys2Proof.Machine

open Sys2Proof

/-! ## Launches -/

def State.launch (s : State) (k : Nat) : Option Launch := s.launches.find? fun l => l.key == k
def State.dropLaunch (s : State) (k : Nat) : State := { s with launches := s.launches.filter fun l => l.key != k }

/-- The descriptor's checks (R332); lvl is the rank of its publisher. -/
def descOk (l : Launch) (needLvl lvl : Nat) : Bool :=
  let kind := l.kind
  l.w 3 != 0 && kind != 3 && shapeCores l.shape != 0 && decide (l.w 2 / 2 ^ 36 = 0)
  && (if kind = 2 then l.ntiles != 0 && l.w 12 != 0 else l.ntiles == 0 && l.rtol == 0 && l.w 11 == 0 && l.w 12 == 0)
  && (if kind = 1 then true else l.w 9 == 0)
  && (l.lvl == 0 || decide (needLvl ≤ lvl))

/-! ## Descriptors (R331, R332, R441) -/

/-- The next descriptor of a queue is published. -/
def State.lqPending (s : State) (p q : Nat) : Bool :=
  let cfg := s.rw (lqCfg p q)
  let d := (getF (s.rw (lqTail p q)) 0 32 + 2 ^ 32 - getF (s.rw (lqHead p q)) 0 32) % 2 ^ 32
  s.partEN p && bitN cfg.toNat 0 && decide (1 ≤ d) && decide (d ≤ 2 ^ getF cfg 48 4)

/-- The words of a descriptor as an agent reads it. -/
def State.readDesc (s : State) (p a : Nat) : Option (List Word) × State :=
  let (r, s) := s.agentRead (some p) a 128
  (r.map fun bs => (List.range 16).map fun i => BitVec.ofNat 64 (natLE ((bs.drop (8 * i)).take 8)), s)

/-- A descriptor could not be read: root's log tells of it once. -/
def State.descFault (s : State) (p k a : Nat) : State :=
  let s := if s.lqFault.contains (k + 1024) then s else s.agentFault a 1 p none
  { s with lqFault := k :: (if s.lqFault.contains (k + 1024) then s.lqFault else (k + 1024) :: s.lqFault) }
/-- A launch is taken from slot i of queue q with its descriptor's words; a bad descriptor ends it at once. -/
def State.queueLaunch (s : State) (p q i : Nat) (ws : List Word) : State :=
  let k := lqKey p q
  let s := s.ww (lqHead p q) (BitVec.ofNat 64 ((i + 1) % 2 ^ 32))
  let lk := k * 2 ^ 32 + i
  let by_ := Sparse.get 0 s.lqLevel lk
  let needLvl := if s.partRoot p then 2 else 1
  let lvl := if by_ = 0 then needLvl else by_ - 1
  let l : Launch := { key := s.nextKey, part := p, q := q, idx := i, desc := ws }
  let l := if descOk l needLvl lvl then l else { l with st := .ending, status := 4 }
  { s with lqFault := s.lqFault.filter (fun x => x != k && x != k + 1024), lqLevel := Sparse.set 0 s.lqLevel lk 0
           launches := s.launches ++ [l], nextKey := s.nextKey + 1 }
/-- Take the next descriptor of queue q of partition p. -/
def State.takeDesc (s : State) (p q : Nat) : State :=
  let k := lqKey p q
  if !s.lqPending p q || s.lqFault.contains k then s
  else
    let i := getF (s.rw (lqHead p q)) 0 32
    let a := s.lqSlot p q i
    match s.readDesc p a with
    | (none, s) => s.descFault p k a
    | (some ws, s) => s.queueLaunch p q i ws
/-- R331: the scheduler takes the next descriptor of a queue (cursor i the partition, j the queue). -/
def execDescriptorTake (s : State) : Out := onItem s.cur.i 16 s fun s => s.takeDesc s.cur.i (s.cur.j % 64)

/-- R331: a write of LQ.TAIL.q. -/
def execLqTailWrite (p q : Nat) (v : Word) (s : State) : Out :=
  onItem p 16 s fun s => if 64 ≤ q then s else (s.ww (lqTail p q) (v &&& 0xFFFFFFFF)).lqRetry p q

/-! ## Waits (R334, R342) -/

/-- The wait ring of a launch: none where it cannot be read. -/
def State.waitValue (s : State) (l : Launch) : Option Nat × State :=
  match s.route (s.launchCtx l 0) { r := true } (l.w 4) with
  | (.ok (.main _ ms, pa, _), s) =>
    if l.w 4 % 8 = 0 ∧ s.reachable l.part pa then
      let s := s.reach ms pa
      match s.readChecked ms pa 8 with
      | some bs => (some (natLE bs), s)
      | none => (none, s.agentMet (some l.part) (some pa))
    else (none, s.agentMet (some l.part) (if s.reachable l.part pa then none else some pa))
  | (_, s) => (none, s)

/-- R334: a WAITING launch (cursor i its key) becomes READY when its conditions hold. -/
def execLaunchReady (s : State) : Out :=
  .next <|
    match s.launch s.cur.i with
    | none => s
    | some l =>
      if l.st ≠ .waiting then s
      else
        let go (s : State) : State :=
          if l.kind = 1 ∧ s.time.toNat < l.w 9 then s else s.modLaunch l.key fun l => { l with st := .ready, readyAt := s.wall }
        if l.w 4 = 0 then go s
        else match s.waitValue l with
        | (none, s) => (s.agentFault (l.w 4) 2 l.part none).modLaunch l.key fun l => { l with st := .ending, status := 6 }
        | (some v, s) => if l.w 5 ≤ v then go s else s

/-! ## Order (R335, R338) -/

/-- Effective priority; n bounds the length of a chain of producers. -/
def effPrio (ls : List Launch) : Nat → Launch → Nat
  | 0, l => l.prio
  | n + 1, l => (ls.filter fun w => w.part == l.part && w.st == .waiting && w.prodv && w.w 6 == l.w 3).foldl
      (fun m w => max m (effPrio ls n w)) l.prio
def State.prioOf (s : State) (l : Launch) : Nat := effPrio s.launches s.launches.length l

/-- Whether a launch comes before another. -/
def State.before (s : State) (a b : Launch) : Bool :=
  let pa := s.prioOf a
  let pb := s.prioOf b
  decide (pb < pa) || (pa == pb && (decide (a.readyAt < b.readyAt) || (a.readyAt == b.readyAt &&
    (decide (a.q < b.q) || (a.q == b.q && (decide (a.idx < b.idx) || (a.idx == b.idx && decide (a.key < b.key))))))))

/-- A launch wants a placement: it is READY, or it runs tiles and has one to dispatch (R343). -/
def Launch.wants (l : Launch) : Bool :=
  (l.st == .ready && l.stopReq != 0x8B) || (l.st == .running && l.kind == 2 && l.parent.isNone && decide (l.nextTile < l.ntiles) && l.stopReq == 0)
/-- The first launch in order of partition p that wants a placement. -/
def State.firstOf (s : State) (p : Nat) : Option Launch :=
  (s.launches.filter fun l => l.part == p && l.wants).foldl (fun m l => match m with
    | some x => if s.before l x then some l else some x
    | none => some l) none

/-! ## Placements (R327, R335, R381, R403) -/

/-- A core that belongs to no partition, enabled or not, and not to the pool (R391, R403). -/
def State.lentCore (s : State) (c : Nat) : Bool := !s.poolCore c && State.parts.all fun p => !s.partCore p c
/-- The cores on which partition p may be placed, free or not. -/
def State.placeCores (s : State) (p : Nat) : List Nat :=
  let own := s.coresOf p
  if s.partEN p && s.partRoot p then allCores.filter fun c => own.contains c || s.lentCore c else own
/-- The core is bound to no launch, kept free for none that has left it, and not quarantined (R381, R403). -/
def State.freeCore (s : State) (c : Nat) : Bool :=
  (s.core c).run == .free && !s.quarantined c && s.launches.all fun l => !l.away.contains c
/-- The free cores of partition p. -/
def State.freeCores (s : State) (p : Nat) : List Nat := (s.placeCores p).filter s.freeCore

/-- The placements of a shape that are not groves n, on the lowest cores first. -/
def placements (sh : Nat) : List (List Nat) :=
  match sh with
  | 0 => allCores.map fun c => [c]
  | 1 => (List.range 16).flatMap fun g => (List.range 4).map fun p => [8 * g + p, 8 * g + p + 4]
  | 2 => (List.range 32).map fun h => upto (4 * h) 4
  | _ => (List.range 16).map fun g => upto (8 * g) 8
/-- The free placement of a shape on the lowest-numbered cores. -/
def place (sh : Nat) (free : List Nat) : Option (List Nat) :=
  let ok (l : List Nat) : Bool := l.all free.contains
  if sh < 4 then (placements sh).find? ok
  else
    let gs := (placements 3).filter ok
    let n := shapeCores sh / 8
    if n ≤ gs.length then some (gs.take n).flatten else none
/-- The placements that a saved launch comes back on: one for its shape, or one for each of the tiles that it runs (R337, R343). -/
def Launch.units (l : Launch) : Nat :=
  if l.kind = 2 then (l.tiles.map fun t => 1 + b2n (!t.rcores.isEmpty)).sum else 1
/-- n disjoint placements of a shape, one after another. -/
def placeAll (sh : Nat) : Nat → List Nat → Option (List Nat)
  | 0, _ => some []
  | n + 1, free => match place sh free with
    | none => none
    | some a => (placeAll sh n (free.filter fun c => !a.contains c)).map (a ++ ·)
/-- The placement or the two disjoint placements (R343) of the next unit of a launch; for a saved one, those of all that it runs. -/
def Launch.placement (l : Launch) (free : List Nat) : Option (List Nat × List Nat) :=
  if l.savedPos then (placeAll l.shape l.units free).map fun a => (a, [])
  else match place l.shape free with
  | none => none
  | some a =>
    if l.kind = 2 ∧ l.w 11 ≠ 0 then
      match place l.shape (free.filter fun c => !a.contains c) with
      | some b => some (a, b)
      | none => none
    else some (a, [])

/-! ## Dispatch (R333, R343) -/

/-- A core takes the dispatch values of a launch's position. -/
def Core.start (c : Core) (l : Launch) (lvl : Level) (pos seat code tileNo : Nat) (guarded : Bool) (map : Word) (time : Nat) : Core :=
  let k : Core := { c.bare with run := .running, pc := codeAddr code, level := lvl, launch := some l.key, lpos := pos, seat := seat, part := l.part
                                tile := if guarded then some tileNo else none, wdStart := time
                                groups := if guarded then [{ st := 1 }, {}, {}, {}] else [{}, {}, {}, {}] }
  let k := (((k.wx 1 (l.desc.getD 13 0)).wx 2 (l.desc.getD 14 0)).wx 3 (l.desc.getD 15 0)).wx 4 (BitVec.ofNat 64 tileNo)
  let k := (((k.wsr 0x082 ((l.desc.getD 1 0) &&& sysMask 0x082)).wsr 0x084 map).wsr 0x160 l.id).wsr 0x161
    (BitVec.ofNat 64 (tileNo + b2n guarded * 2 ^ 16))
  (List.range 16).foldl (fun (k : Core) n => k.wsr (rCHRING n) (BitVec.ofNat 64 (l.bunit * 2 ^ 58))) k

/-- Start the positions of a placement on an image's code addresses; unit is its number among those of its launch (R359). -/
def State.startCores (s : State) (l : Launch) (cores codes : List Nat) (unit tileNo : Nat) (guarded : Bool) : State :=
  let lvl := s.launchLevel l
  let map := grvMap l.shape cores
  (List.range cores.length).foldl (fun s k =>
    s.modCore (cores.getD k 0) fun c => c.start l lvl k (unit * shapeCores l.shape + k) (codes.getD k 0) tileNo guarded map s.time.toNat) s

/-- The units of a launch and its exact tiles that are bound to cores or saved. -/
def State.unitsOf (s : State) (l : Launch) : List Nat :=
  let key := l.parent.getD l.key
  (s.launches.filter fun m => m.key == key || m.parent == some key).flatMap fun m =>
    (m.tiles.flatMap fun t => t.seat :: if t.rcores.isEmpty then [] else [t.rseat]) ++ (if m.parent.isSome && m.start != 0 then [m.seat] else [])
/-- The lowest number that is not among some (log entry 114). -/
def freeUnit (used : List Nat) : Nat := ((List.range (used.length + 1)).find? fun k => !used.contains k).getD 0

/-- What a launch notes at a dispatch of its own or of a tile, or at its return: the cores; at its own and its return the start of its slice; at
its first dispatch the time and whether that is late (R333, R337, R342). -/
def Launch.begun (l : Launch) (time : Nat) (cores : List Nat) : Launch :=
  { l with st := .running, start := if l.start = 0 then time else l.start, cores := l.cores ++ cores
           sliceAt := if l.st = .running then l.sliceAt else time
           late := if l.start = 0 then l.kind == 1 && decide (l.w 9 + 1000 < time) else l.late }

/-! ## The return of a saved launch (R337, R363) -/

/-- Restore a waymark save at a into core c, which has its dispatch values; live says what it holds. -/
def Core.setWaymark (c : Core) (l : List (Sparse Byte)) (live : Live) (xs : Sparse Byte) (vs accs : List (Nat × Sparse Byte))
    (spm : List (Nat × Nat × Sparse Byte)) : Core :=
  let m (i : Nat) : Sparse Byte := l.getD i []
  let c := (c.setSys (m 0)).setThird (m 1)
  let c := ((List.range 64).filter (bitN live.x)).foldl (fun (c : Core) n => c.wx n (wordAt xs (8 * n))) c
  let c := vs.foldl (fun (c : Core) e => c.wv e.1 (elemsOf e.2)) c
  let c := accs.foldl (fun (c : Core) e =>
    { c with acc := (c.acc.filter fun x => decide (x.1 < 16384 * e.1)) ++ shiftUp (elemsOf e.2) (16384 * e.1) ++
        (c.acc.filter fun x => decide (16384 * (e.1 + 1) ≤ x.1)) }) c
  let c := spm.foldl (fun (c : Core) r =>
    { c with spm := (c.spm.filter fun x => decide (x.1 < r.1)) ++ shiftUp (clip r.2.2 r.2.1) r.1 ++ (c.spm.filter fun x => decide (r.1 + r.2.1 ≤ x.1)) }) c
  (c.setChannels (m 2)).suspend false

/-- Load the parts that a list names: key, offset, length. -/
def State.loadKeyed (s : State) (w : Area) (a : Nat) (ks : List (Nat × Nat × Nat)) : Except Nat (List (Nat × Sparse Byte)) × State :=
  match s.loadList w a (ks.map (·.2)) with
  | (.error k, s) => (.error k, s)
  | (.ok l, s) => (.ok ((ks.map (·.1)).zip l), s)

/-- A save that cannot be restored leaves its core saved in full form, with the cause; the partition restores it or kills its
launch. -/
def State.unrestored (s : State) (c a : Nat) (e : NoResume) : State :=
  let s := s.modCore c fun q => { q with run := .saved 1 }
  match e with
  | .area k => (s.modCore c fun q => q.report { cause := k }).stopEntry c 3 a 0 (Xlt.stage2 k)
  | .bad n => s.modCore c fun q => q.report { cause := 0xA5, detail := n % 65536 }
  | .again k addr => s.modCore c fun q => q.report { cause := k, addr := addr }

/-- Restore the waymark save at a into core c of launch l (R337, R363): what is live is what the waymark's entry lists, whatever resume point the
area names by now. -/
def State.restoreWaymark (s : State) (c a : Nat) (l : Launch) : State :=
  let w : Area := .phys l.part c
  match s.readArea w a 0x790000 0xFFFFFFFF with
  | (.error e, s) => s.unrestored c a e
  | (.ok (h, rs), s) => match s.liveAt l (l.imageOf c) c (s.core c).pc with
    | (.error k, s) => s.unrestored c a (.area k)
    | (.ok live, s) =>
      let live := live.getD { v := 0, x := 0, acc := 0, spm := [] }
      let spm := live.ranges
      match s.loadList w a [(0x1000, 0xE00), (0x3200, 0x40), (0x780000, 0x8200), (0x3000, 0x200)] with
      | (.error k, s) => s.unrestored c a (.area k)
      | (.ok ps, s) => match s.loadKeyed w a (((List.range 256).filter (bitN live.v)).map fun n => (n, 0x80000 + 4096 * n, 4096)) with
        | (.error k, s) => s.unrestored c a (.area k)
        | (.ok vs, s) => match s.loadKeyed w a (((List.range 24).filter (bitN live.acc)).map fun n => (n, 0x180000 + 65536 * n, 65536)) with
          | (.error k, s) => s.unrestored c a (.area k)
          | (.ok accs, s) => match s.loadKeyed w a (spm.map fun r => (r.1, 0x300000 + r.1, r.2)) with
            | (.error k, s) => s.unrestored c a (.area k)
            | (.ok ss, s) => match s.storeArea w (a + 8) (numBlob 8 (numAt h 8 8 / 2 * 2)) with
              | (some k, s) => s.unrestored c a (.area k)
              | (none, s) =>
                let spm := (spm.zip ss).map fun e => (e.1.1, e.1.2, e.2.2)
                let s := s.modCore c fun q => q.setWaymark ps live (ps.getD 3 []) vs accs spm
                (s.runOn c h rs).stopEntry c 4 a 0 false

/-- The tiles of a launch on the cores that its places come back on. -/
def Launch.seated (l : Launch) (cores : List Nat) : List Tile :=
  let n := shapeCores l.shape
  (l.tiles.foldl (fun (st : List Tile × List Nat) t =>
    let m := if t.rcores.isEmpty then 0 else n
    (st.1 ++ [{ t with cores := st.2.take n, rcores := (st.2.drop n).take m }], st.2.drop (n + m))) ([], cores)).1

/-- A saved place e of a launch comes back on core c (R323, R363): as its core was saved, whatever the header of its area says by now (R360), or as
ended if it had ended. size is SIZE0 (R359). -/
def State.bringBack (s : State) (l : Launch) (e : Core) (c size : Nat) : State :=
  let s := s.modCore c fun q => (q.start l (s.launchLevel l) e.lpos e.seat 0 (e.tile.getD l.exactTile) e.tile.isSome 0 s.time.toNat).carry e
  let a := l.save + e.seat * size
  match e.run with
  | .saved 1 => (s.restoreFull c c a l).2
  | .saved _ => s.restoreWaymark c a l
  | _ => s

/-- GRV.MAP after a restore is that of the new placement (R155, R333), of n cores each. -/
def State.remap (s : State) (l : Launch) (cores : List Nat) : State :=
  let n := shapeCores l.shape
  (List.range cores.length).foldl (fun s k =>
    s.modCore (cores.getD k 0) fun q => q.wsr 0x084 (grvMap l.shape ((cores.drop (k / n * n)).take n))) s

/-- A saved launch resumes on its placements. -/
def State.resumeLaunch (s : State) (l : Launch) (cores : List Nat) : State :=
  let (size, s) := match s.loadArea (.phys l.part 0xFF) l.save 8 with
    | (.ok m, s) => (numAt m 0 8, s)
    | (.error _, s) => (0, s)
  let l := { l with tiles := l.seated cores }
  let s := s.modLaunch l.key fun k => { ({ k with tiles := l.tiles }.begun s.time.toNat cores) with savedPos := false, stopReq := 0, places := [] }
  let s := (l.places.zip cores).foldl (fun s e => s.bringBack l e.1.2 e.2 size) s
  s.remap l cores

/-- A launch cannot be dispatched for its image: it completes with BAD_IMAGE. One that runs tiles dispatches no more of them and does so when
those are decided and its exact tiles are over; an exact tile makes the launch that it belongs to do so (R332, R346). -/
def State.badImage (s : State) (l : Launch) : State :=
  let noMore (l : Launch) : Launch := { l with unmade := true, nextTile := l.ntiles }
  match l.parent with
  | none => s.modLaunch l.key fun l => if l.st = .running then noMore l else { l with st := .ending, status := 5 }
  | some p => (s.dropLaunch l.key).modLaunch p noMore

/-- Dispatch the next unit of a launch on the placements found for it (R333, R343). -/
def State.dispatch (s : State) (l : Launch) (a b : List Nat) : State :=
  let bad (s : State) : State := s.badImage l
  if l.savedPos then s.resumeLaunch l a
  else
    let c := a.getD 0 0
    match s.image l (l.w 0) c with
    | (none, s) => bad s
    | (some codes, s) =>
      let used := s.unitsOf l
      let u := freeUnit used
      if l.kind = 2 then
        let (rc, s) := if l.w 11 = 0 then (some [], s) else s.image l (l.w 11) c
        let (ec, s) := s.image l (l.w 12) c
        match rc, ec with
        | some rcodes, some _ =>
          let n := l.nextTile
          let v := freeUnit (u :: used)
          let s := (s.startCores l a codes u n true).startCores l b rcodes v n true
          s.modLaunch l.key fun l => { (l.begun s.time.toNat (a ++ b)) with
            nextTile := n + 1, tiles := l.tiles ++ [{ n := n, cores := a, rcores := b, seat := u, rseat := v }] }
        | _, _ => bad s
      else (s.startCores l a codes u l.exactTile false).modLaunch l.key fun l => { (l.begun s.time.toNat a) with seat := u }

/-- Partition p's scheduler dispatches now: while a turn of the pool ends, its holder dispatches nothing more (R394), nor does a partition whose
reset waits for its commands to end (R400; DESIGN CHOICE, log entry 117). -/
def State.mayDispatch (s : State) (p : Nat) : Bool := !(s.partSliced p && s.poolNext.isSome) && !s.fnKill.contains p
/-- The first launch of a partition gets a free placement and starts. -/
def State.dispatchFirst (s : State) (p : Nat) : State :=
  match s.firstOf p with
  | none => s
  | some l => match (if s.mayDispatch p then l.placement (s.freeCores p) else none) with
    | none => s
    | some (a, b) => s.dispatch l a b
/-- R335: the first launch of a partition (cursor i) gets a free placement and starts. -/
def execLaunchDispatch (s : State) : Out := onItem s.cur.i 16 s fun s => s.dispatchFirst s.cur.i

/-! ## Pre-emption (R337) -/

/-- Ask a running launch to stop at its next waymarks with a cause (0xA7 PREEMPT, 0x8B CANCEL); a core that a full stop holds meets its
next one after it is restored; the commands of one that is saved already go on if the launch is cancelled. -/
def State.request (s : State) (key cause : Nat) : State :=
  let s := s.modLaunch key fun l => { l with stopReq := cause }
  { s with cores := s.cores.map fun e =>
      if e.2.launch ≠ some key ∨ e.2.run = .ended then e
      else if e.2.run = .saved 0 then (e.1, if cause = 0x8B then e.2.suspend false else e.2)
      else (e.1, { e.2 with wmStop := cause, wmCount := 0 }) }

/-- A launch that may be pre-empted: it runs and has a save area (R337). -/
def Launch.preemptible (l : Launch) : Bool := l.st == .running && l.save != 0 && l.stopReq == 0
/-- A launch of root on a core that has been given away runs on to its completion (R403). -/
def State.keepsOn (s : State) (l : Launch) : Bool := l.cores.any fun c => !(s.placeCores l.part).contains c

/-- Whether a goes before b among those to be pre-empted. -/
def State.yieldsFirst (s : State) (a b : Launch) : Bool :=
  let pa := s.prioOf a
  let pb := s.prioOf b
  decide (pa < pb) || (pa == pb && decide (b.sliceAt < a.sliceAt))

/-- Launches in the order in which they are taken. -/
def State.insertYield (s : State) (x : Launch) : List Launch → List Launch
  | [] => [x]
  | y :: ys => if s.yieldsFirst x y then x :: y :: ys else y :: State.insertYield s x ys

/-- The launches to stop, taken until their cores would free a placement for l; none if they never do. may are the cores on which l may be
placed. -/
def Launch.victims (l : Launch) (may free : List Nat) : List Launch → Option (List Launch)
  | [] => none
  | v :: vs =>
    let free := free ++ v.cores.filter may.contains
    if (l.placement free).isSome then some [v] else (Launch.victims l may free vs).map (v :: ·)

/-- R337: pre-emption in a partition (cursor i) whose first launch cannot be placed. -/
def execSliceEnd (s : State) : Out :=
  onItem s.cur.i 16 s fun s =>
    let p := s.cur.i
    let ctl := s.rw (ppage p 0x1808)
    let slice := getF ctl 0 16 * 1000
    match s.firstOf p with
    | none => s
    | some l =>
      if slice = 0 ∨ (l.placement (s.freeCores p)).isSome ∨ !s.mayDispatch p then s
      else
        let lp := s.prioOf l
        let cand := s.launches.filter fun v => v.part == p && v.preemptible && !s.keepsOn v && decide (v.sliceAt + slice ≤ s.time.toNat) &&
          (decide (s.prioOf v < lp) || (bitN ctl.toNat 16 && s.prioOf v == lp))
        let order := cand.foldl (fun a v => s.insertYield v a) []
        -- requests already made count as cores that will be free
        let may := (s.placeCores p).filter fun c => !s.quarantined c
        let coming := (s.launches.filter fun v => v.part == p && v.stopReq == 0xA7).flatMap fun v => v.cores.filter may.contains
        let free := s.freeCores p ++ coming
        if (l.placement free).isSome then s
        else match l.victims may free order with
          | none => s
          | some vs => vs.foldl (fun s v => s.request v.key 0xA7) s

/-! ## Waymark stops and the save engine (R334, R336, R361) -/

/-- The core is in its launch's care no longer. -/
def State.release (s : State) (c : Nat) : State := s.modCore c Core.bare

/-- The waymark bundle at the cursor's core is not one that its image lists: it issues, and the core goes on to the next (R336). -/
def State.passWaymark (s : State) (c : Nat) : State :=
  let cause := (s.core c).wmStop
  let n := (s.core c).wmCount
  let s := (s.modCore c fun k => { k with wmStop := 0 }).bundleIssue c
  s.modCore c fun k => if k.run = .running ∨ k.run = .ended then { k with wmStop := cause, wmCount := n + 1 } else k
/-- The cursor's core stops at a waymark (R336). With no save area a cancelled core just stops. -/
def State.stopAtWaymark (s : State) (c : Nat) : State :=
  let cause := (s.core c).wmStop
  let s := s.trace c 3 cause (s.core c).pc
  let s := s.modCore c fun k => { (k.takeRemote.report { cause := cause }).halt with wmStop := 0, wmCount := 0, stopAt := s.time }
  match s.launchOf c with
  | some l =>
    if cause = 0x8B ∧ l.save = 0 then s.modCore c fun k => { k with run := .saved 0, pipe := [] }
    else s.modCore c fun k => { (k.suspend true) with run := .saving 0 0 }
  | none => s
/-- R336: the cursor's core, asked to stop, has reached a bundle with WAY: a waymark, if its image's table lists it. -/
def execWaymarkStop (s : State) : Out :=
  onCore s fun s =>
    let c := s.cur.core
    let k := s.core c
    if k.wmStop = 0 ∨ k.run ≠ .running ∨ k.handler then s
    else match s.launchOf c with
      | none => s.stopAtWaymark c
      | some l => match s.liveAt l (l.imageOf c) c k.pc with
        | (.ok none, s) => s.passWaymark c
        | (_, s) => s.stopAtWaymark c

/-- A waymark save is committed. The commands of a core whose launch is cancelled go on. -/
def State.savedWaymark (s : State) (c : Nat) : State :=
  let k := s.core c
  let cancelled := k.stopCause == 0x8B || (s.launchOf c).any fun l => l.stopReq == 0x8B
  s.setCore c { (if cancelled then k.suspend false else k) with run := .saved 0, pipe := [] }

/-- Every core of a launch is saved, or has ended with nothing left to do. -/
def State.allSaved (s : State) (l : Launch) : Bool :=
  l.cores.all fun c => match (s.core c).run with
    | .saved _ => true
    | .ended => (s.core c).pipe.isEmpty && (s.core c).allCmds.isEmpty
    | _ => false

/-- The cores of a launch in the order of its places: those of its tiles, or its placement. -/
def Launch.seatCores (l : Launch) : List Nat := if l.kind = 2 then l.tiles.flatMap fun t => t.cores ++ t.rcores else l.cores

/-- The cores among some that have been given away and that their launch's completion frees (R403). -/
def State.handed (s : State) (p : Nat) (cores : List Nat) : List Nat := cores.filter fun c => !(s.placeCores p).contains c
/-- Cores are in the care of launch l no longer; its completion, or that of the launch it belongs to, frees those that have been given away
(R326, R403). -/
def State.letGo (s : State) (l : Launch) (cores : List Nat) : State :=
  (cores.foldl State.release s).modLaunch (l.parent.getD l.key) fun m => { m with away := m.away ++ s.handed l.part cores }
/-- A pre-empted launch whose cores are all saved is READY again; what the hardware keeps of them is kept and its cores are free (R323, R334). -/
def State.settleSaved (s : State) (key : Nat) : State :=
  match s.launch key with
  | none => s
  | some l =>
    if l.st = .running ∧ l.stopReq = 0xA7 ∧ s.allSaved l then
      let cs := l.seatCores
      let places := cs.map fun c => (c, (s.core c).aside)
      (s.letGo l l.cores).modLaunch key fun l => { l with st := .ready, readyAt := s.wall, cores := [], savedPos := true, stopReq := 0, places := places }
    else s

/-- R361: the save engine finishes with the cursor's core, or is held by its area. -/
def execContextSaveDone (s : State) : Out :=
  onCore s fun s =>
    let c := s.cur.core
    let k := s.core c
    match k.run with
    | .saving 2 0 => s.stopInPlace c
    | .saving 1 0 =>
      if !k.quiet then s
      else
        let s := s.saveCore c 1 fullArrays (s.fullParts c) fun s => s.savedFull c
        (match k.launch with | some key => s.settleSaved key | none => s)
    | .saving 0 0 =>
      if !k.quiet then s
      else match s.launchOf c with
        | none => s
        | some l => match s.liveAt l (l.imageOf c) c k.pc with
          | (.error cause, s) => (s.modCore c fun w => { w with run := .saving 0 2 }).stopEntry c 3 (l.imageOf c) 0 (Xlt.stage2 cause)
          | (.ok live, s) =>
            let live := live.getD { v := 0, x := 0, acc := 0, spm := [] }
            (s.saveCore c 0 live.arrays (s.waymarkParts c live) fun s => s.savedWaymark c).settleSaved l.key
    | _ => s

/-! ## Cancels and kills (R141, R334, R346) -/

/-- A launch and the exact tiles it made. -/
def State.family (s : State) (key : Nat) : List Nat := (s.launches.filter fun l => l.key == key || l.parent == some key).map (·.key)

/-- The context in which a command of a saved place of a launch acts. -/
def Launch.placeCtx (l : Launch) (e : Nat × Core) (q : Cmd) : Ctx :=
  { core := e.1, part := l.part, level := q.level, root := q.root, tag := getF (e.2.rsr 0x083) 0 4, key := some l.key }
/-- A command of a saved place, suspended at a boundary or not started, completes with KILLED: its steps 2 and 3 are taken in its own context
(R141). -/
def State.killKept (s : State) (l : Launch) (e : Nat × Core) (q : Cmd) : State :=
  let q := { q with kill := true, paused := false, pauseCause := 0 }
  (s.lastSteps (l.placeCtx e q) (if q.phase < 2 then q.ends ccKILLED else q)).1
/-- The commands of every saved place of a launch complete with KILLED, and nothing more is kept of it (R141; of a cancelled launch DESIGN CHOICE,
log entry 98). -/
def State.killPlaces (s : State) (l : Launch) : State :=
  (l.places.foldl (fun s e => e.2.allCmds.foldl (fun s q => s.killKept l e q) s) s).modLaunch l.key fun l => { l with places := [] }
/-- The exact tiles of a launch that were asked to stop before they were dispatched again, or at all, are over. -/
def State.dropKids (s : State) (key : Nat) : State :=
  (s.launches.filter fun m => m.parent == some key && m.st == .ready && m.stopReq == 0x8B).foldl (fun s m => (s.killPlaces m).dropLaunch m.key) s

/-- A cancel acts on a launch by its state (R334, R346): a running one stops at its waymarks; so do its exact tiles, and those that are not running
are not dispatched while the cancel stands; one that is not running is CANCELLED. -/
def State.cancel (s : State) (key : Nat) : State :=
  match s.launch key with
  | none => s
  | some l =>
    if l.st = .ending then s
    else
      let s := (s.family key).foldl (fun s k => match s.launch k with
        | some m => if m.st = .running then s.request k 0x8B
                    else if m.st = .ready ∧ k ≠ key then s.modLaunch k fun m => { m with stopReq := 0x8B } else s
        | none => s) s
      if l.st = .running then s
      else ((s.killPlaces l).dropKids key).modLaunch key fun l => { l with st := .ending, status := 1, tiles := [], nextTile := l.ntiles }
/-- R334: LQ.CANCEL of partition p. A launch whose dispatch, or that of an exact tile of it, falls in this cycle is dispatched first. -/
def execLqCancelWrite (p : Nat) (v : Word) (s : State) : Out :=
  onItem p 16 s fun s =>
    match s.launches.find? fun l => l.part == p && l.parent.isNone && l.id == v && l.st != .ending with
    | none => s
    | some l =>
      let due (h : Happening) : Bool := h.act == .launchDispatch && h.cur.i == p
      let s := if s.turn.any due && (s.firstOf p).any (fun f => (s.family l.key).contains f.key) then
          { s with turn := s.turn.filter fun h => !due h }.dispatchFirst p
        else s
      s.cancel l.key

/-- R334: the cursor's core has not reached a waymark in time: the cancel is itself stopped, and the core stops with CANCEL. -/
def execCancelTimeout (s : State) : Out :=
  onCore s fun s =>
    let c := s.cur.core
    let k := s.core c
    if k.wmStop ≠ 0x8B ∨ k.wmCount ≤ getF (s.rw (ppage k.part 0x1808)) 32 21 then s
    else
      let key := k.launch
      let fam : List Nat := match s.launchOf c with | some l => s.family (l.parent.getD l.key) | none => key.toList
      let s : State := { s with
        cores := s.cores.map fun e => if e.2.launch.any fam.contains then (e.1, { e.2 with wmStop := 0, wmCount := 0 }) else e
        launches := s.launches.map fun l => if fam.contains l.key then { l with stopReq := 0 } else l }
      s.modCore c fun k => { k with ext := k.ext ++ [0x8B] }

/-- A core is killed: it issues nothing, its operations are gone, its commands and groups end (R141, R323). -/
def State.killContext (s : State) (c : Nat) : State :=
  let s := s.modCore c fun k =>
    { k with run := .ended, pipe := [], mretry := none, resuming := false, mouter := [], trapped := none, ext := [], wmStop := 0, handler := false
             freeze := 0, replay := 0, kept := [], keptH := [], staged := false, hadEnded := false, hadDone := false, owed := false
             groups := k.groups.map fun g => if g.st = 0 then { g with held := [], lines := [], ways := [], pages := [], spilt := false }
                                             else { st := 0, last := 5 } }
  let mine (k : Nat) (l : Option Nat) : Bool := k == c && l == (s.core c).launch
  ((s.killCore c).modCore c fun k => k.suspend false).killEngines (s.reds.filter fun r => mine r.core r.launch && !r.kill)
    (s.colls.filter fun r => mine r.core r.launch)

/-- A launch is killed, with its exact tiles and what was saved of them: it goes to ENDING with KILLED. -/
def State.killLaunch (s : State) (key : Nat) : State :=
  (s.family key).foldl (fun s k => match s.launch k with
    | none => s
    | some l =>
      let s := (l.cores.foldl State.killContext s).killPlaces l
      let s := s.killEngines (s.reds.filter fun r => r.launch == some k && !r.kill) (s.colls.filter fun r => r.launch == some k)
      s.modLaunch k fun l => if l.hashed then l else { l with st := .ending, status := 3, tiles := [], nextTile := l.ntiles }) s

/-- R141: root orders the kill of the launches with an ID in a partition (cursor i). -/
def execLaunchKill (id : Word) (s : State) : Out :=
  onItem s.cur.i 16 s fun s =>
    (s.launches.filter fun l => l.part == s.cur.i && l.parent.isNone && l.id == id).foldl (fun s l => s.killLaunch l.key) s

/-! ## Guarded tiles (R343) -/

/-- The core has ended, and its operations have landed or performed. -/
def State.coreOver (s : State) (c : Nat) : Bool := (s.core c).run == .ended && (s.core c).pipe.isEmpty
/-- The commands of a core are complete. -/
def State.cmdsDone (s : State) (c : Nat) : Bool :=
  let mine (k : Nat) (l : Option Nat) : Bool := k == c && l == (s.core c).launch
  (s.core c).allCmds.isEmpty && !s.reds.any (fun r => mine r.core r.launch) && !s.colls.any (fun r => mine r.core r.launch)

/-- A tile's residual is within a tolerance. -/
def withinTol (r tol : Elem) : Bool := !((f32 tol).isNan) && !((f32 tol).below (f32 r))

/-- Decide a tile: its cores commit or abort g0 and are free once their commands are complete, and a tile that fails has an exact tile made,
unless the launch is being cancelled (R343, R346). -/
def State.decide_ (s : State) (l : Launch) (t : Tile) : State :=
  let cores := t.cores ++ t.rcores
  let open_ := cores.all fun c => let g := (s.core c).groups.getD 0 {}; g.st == 1 && !g.spilt
  let pass := t.got && !(f32 t.r).isNan && withinTol t.r ((s.rp l.part (0x168 + l.rtol)).setWidth 32) && open_
  let bump (s : State) (i : Nat) : State := s.wp l.part i (addSat (s.rp l.part i) 1)
  let s := if pass then bump (cores.foldl (fun s c => s.commitGroup c 0) s) 0x170
    else bump (cores.foldl (fun s c => s.modCore c fun k => k.dropGroup 0 2) s) 0x171
  let idle := cores.filter s.cmdsDone
  let s := s.letGo l idle
  let s := s.modLaunch l.key fun l => { l with tiles := l.tiles.filter (fun x => x.n != t.n), cores := l.cores.filter fun c => !idle.contains c
                                               fallback := if pass then l.fallback else min 65535 (l.fallback + 1) }
  if pass || l.stopReq == 0x8B then s
  else
    let w2 := (((l.desc.getD 2 0) &&& ~~~(maskHL 4 3)) &&& ~~~(maskHL 34 16))
    let desc := (List.range 16).map fun i => if i = 0 then l.desc.getD 12 0 else if i = 2 then w2 else if i = 11 ∨ i = 12 then 0 else l.desc.getD i 0
    let e : Launch := { key := s.nextKey, part := l.part, q := l.q, idx := l.idx, desc := desc, st := .ready, readyAt := s.wall
                        parent := some l.key, exactTile := t.n }
    { s with launches := s.launches ++ [e], nextKey := s.nextKey + 1 }

/-- R343: the verdict of tile j of a launch (cursor i its key), every core of which has ended. -/
def execGsVerdict (s : State) : Out :=
  .next <|
    match s.launch s.cur.i with
    | none => s
    | some l => match l.tiles.find? fun t => t.n == s.cur.j with
      | none => s
      | some t => if l.st = .running ∧ (t.cores ++ t.rcores).all s.coreOver then s.decide_ l t else s

/-- The cores of decided tiles whose commands are complete are free. -/
def State.freeTiles (s : State) : State :=
  (s.launches.filter fun l => l.kind == 2 && (l.st == .running || l.st == .ending)).foldl (fun s l =>
    let left := l.cores.filter fun c => !l.tiles.any (fun t => t.cores.contains c || t.rcores.contains c) && s.coreOver c && s.cmdsDone c
    if left.isEmpty then s
    else (s.letGo l left).modLaunch l.key fun l => { l with cores := l.cores.filter fun c => !left.contains c }) s

/-! ## Completion (R334, R339, R346) -/

/-- No core of a running launch has anything left to do; for tiles, each has been decided. -/
def State.launchOver (s : State) (l : Launch) : Bool :=
  let stopped (c : Nat) : Bool := (match (s.core c).run with | .saved 0 => true | _ => false) && l.stopReq == 0x8B
  let kids := s.launches.any fun m => m.parent == some l.key && m.st != .ending && !(m.st == .ready && m.stopReq == 0x8B)
  l.cores.all (fun c => ((s.core c).run == .ended && (s.core c).pipe.isEmpty) || stopped c) && !kids &&
  (l.kind != 2 || l.parent.isSome || l.stopReq == 0x8B || (l.tiles.isEmpty && decide (l.ntiles ≤ l.nextTile)))

/-- The commands of the cores of an ENDING launch, and those that it left at its cores, and its exact tiles are complete. -/
def State.cmdsOver (s : State) (l : Launch) : Bool :=
  l.cores.all (fun c => (s.core c).pipe.isEmpty && s.cmdsDone c)
  && !s.reds.any (fun r => r.launch == some l.key) && !s.colls.any (fun r => r.launch == some l.key)
  && !s.launches.any fun m => m.parent == some l.key

/-- The completion record and its message (R339, R408, R441). -/
def State.completionRecord (s : State) (l : Launch) : State :=
  let cq := s.rw (lqCq l.part l.q)
  let n := Sparse.get 0 s.cqCount (lqKey l.part l.q)
  let a := getF cq 5 43 * 32 + 32 * (n % 2 ^ getF cq 48 4)
  let s := { s with cqCount := Sparse.set 0 s.cqCount (lqKey l.part l.q) (n + 1) }
  let ws : List Word := [l.id, BitVec.ofNat 64 (l.status + b2n l.late * 2 ^ 8 + l.fallback * 2 ^ 16), BitVec.ofNat 64 l.start, s.time]
  match s.agentWrite (some l.part) a (ws.flatMap fun w => bytesLE 8 w.toNat) with
  | (true, s) => s.irq l.part l.q
  | (false, s) => s.agentFault a 3 l.part none

/-- The add to the completion ring. -/
def State.completionRing (s : State) (l : Launch) : State :=
  let a := l.w 7
  let fail (s : State) : State := s.agentFault a 4 l.part none
  if a = 0 then s
  else match s.route (s.launchCtx l 0) { r := true, w := true } a with
    | (.ok (.main _ ms, pa, _), s) =>
      if a % 8 = 0 ∧ s.reachable l.part pa then
        match s.ringAddMain ms pa (l.w 8) 6 0xFF with
        | some s => s
        | none => fail (s.agentMet (some l.part) (some pa))
      else fail (s.agentMet (some l.part) (if s.reachable l.part pa then none else some pa))
    | (_, s) => fail s

/-- A running launch whose cores have nothing left to do goes to ENDING with its status (R334). -/
def State.endLaunch (s : State) (l : Launch) : State × Launch :=
  if l.st = .running ∧ s.launchOver l then
    let status := if l.unmade then 5 else if l.stopReq = 0x8B ∧ (l.kind = 2 ∨ l.cores.any fun c => (s.core c).run == .saved 0) then 2 else 0
    let l' := { l with st := .ending, status := status }
    ((s.dropKids l.key).modLaunch l.key fun _ => l', l')
  else (s, l)
/-- The writes of a launch to the host window have performed at system scope: a free time after its last access (R286, R293). -/
def State.confirmed (s : State) (l : Launch) : Bool × State :=
  match l.confirm with
  | some d => (decide (d ≤ s.wall), s)
  | none =>
    if l.start = 0 then (true, s)
    else
      let (d, s) := s.freeTime
      (d == 0, s.modLaunch l.key fun l => { l with confirm := some (s.wall + d) })
/-- An ENDING launch is DONE: its record, its ring, and the hash of the pages it dirtied (R339, R430). -/
def State.finish (s : State) (l : Launch) : State :=
  let s := s.letGo l l.cores
  if l.parent.isSome then s.dropLaunch l.key
  else
    let s := (s.completionRecord l).completionRing l
    if l.pages.isEmpty then s.dropLaunch l.key
    else
      let s := s.modLaunch l.key fun l => { l with hashed := true, cores := [] }
      { s with turn := { cur := { i := l.key }, act := .pageHash } :: s.turn }
/-- R339: a launch (cursor i its key) whose cores have ended goes to ENDING, and completes once its commands are complete. -/
def execLaunchDone (s : State) : Out :=
  .next <|
    match s.launch s.cur.i with
    | none => s
    | some l =>
      let (s, l) := s.endLaunch l
      if l.st ≠ .ending ∨ l.hashed ∨ !s.cmdsOver l then s
      else match s.confirmed l with
        | (true, s) => s.finish l
        | (false, s) => s

/-! ## The pool (R394, R404) -/

/-- The enabled sliced partitions after the holder, in turn. -/
def State.pooled (s : State) : List Nat :=
  ((upto 1 16).map fun k => (s.poolHolder + k) % 16).filter fun p => s.partEN p && s.partSliced p
/-- The next partition of the pool that has a READY launch, other than the holder. -/
def State.nextHolder (s : State) : Option Nat :=
  s.pooled.find? fun p => p != s.poolHolder && s.launches.any fun l => l.part == p && l.st == .ready
/-- The holder holds the pool. -/
def State.poolHeld (s : State) : Bool := s.partEN s.poolHolder && s.partSliced s.poolHolder
/-- A partition has a launch WAITING, READY or RUNNING. -/
def State.active (s : State) (p : Nat) : Bool := s.launches.any fun l => l.part == p && l.st != .ending
/-- The pool passes to a partition and its turn starts. -/
def State.passPool (s : State) (p : Nat) : State :=
  let s := s.wwF (rpage 0x9820) 16 4 p
  { s with poolStart := s.time.toNat }
/-- The pool's turn of SLICE microseconds is over. -/
def State.turnOver (s : State) : Bool :=
  let slice := s.rwF (rpage 0x9820) 0 16
  slice != 0 && decide (s.poolStart + slice * 1000 ≤ s.time.toNat)

/-- The pool's turn ends (R394): the next partition is chosen once, and every RUNNING launch of the holder that has a save area is asked to
stop. -/
def State.endTurn (s : State) (n : Nat) : State :=
  let h := s.poolHolder
  { ((s.launches.filter fun l => l.part == h && l.preemptible).foldl (fun s l => s.request l.key 0xA7) s) with poolNext := some n }
/-- Every launch of the holder is saved, completed or READY. -/
def State.poolIdle (s : State) : Bool := s.launches.all fun l => l.part != s.poolHolder || l.st == .ready || l.hashed
/-- R394: a turn of the pool ends, or the pool passes because the holder has nothing to run. -/
def execPoolTurnEnd (s : State) : Out :=
  .next <|
    match s.poolNext with
    | some n =>
      if !(s.partEN n && s.partSliced n) then { s with poolNext := none }
      else if s.poolIdle || !s.active s.poolHolder then { s.passPool n with poolNext := none } else s
    | none => match s.nextHolder with
      | none => if s.turnOver then { s with poolStart := s.time.toNat } else s
      | some n =>
        if !s.poolHeld || !s.active s.poolHolder then s.passPool n
        else if s.turnOver then s.endTurn n else s

end Sys2Proof.Machine
end

