-- ==== Sys2Proof/Machine/Part.lean ====
section
/-! DEFINITION. What root and a partition do through the register window (R87, R110 to R118, R381, R391 to R400, R404, R409): plain
register writes, partitions and the pool, way units and their handover, blocks and their scrub, messages, quarantine, resets of a
partition. -/
namespace Sys2Proof.Machine

open Sys2Proof

/-! ## Clean states (R111, R403) -/

/-- A partition is in a clean state: none of its cores runs a launch and none of its commands is in flight. -/
def State.clean (s : State) (p : Nat) : Bool :=
  s.cores.all (fun e => e.2.part != p || (e.2.run == .free && e.2.allCmds.isEmpty)) && s.reds.all (fun r => r.part != p)
  && s.colls.all (fun r => r.part != p) && s.launches.all (fun l => l.part != p || l.cores.isEmpty)

/-! ## Plain registers (R239, R310, R330, R388) -/

/-- What a plain write leaves in a register of a partition's page: LQ.CFG and LQ.CQ of an enabled queue change only EN, WMBOUND keeps
its range, RING.OVF.STAT.OVF is cleared by a 0 (R310, R330). -/
def State.pageValue (s : State) (p o : Nat) (new : Word) : Word :=
  let old := s.rw (ppage p o)
  if 0x1000 ≤ o ∧ o < 0x1200 then (if bitN old.toNat 0 then maskWrite old new 1 else new)
  else if 0x1600 ≤ o ∧ o < 0x1800 then (if bitN (s.rw (ppage p (o - 0x600))).toNat 0 then old else new)
  else if o = 0x1808 then
    let b := getF new 32 21
    if 4096 ≤ b ∧ b ≤ 1048576 then new else setF new 32 21 (getF old 32 21)
  else if o = 0x3020 then old &&& new
  else new

/-- What else follows from a plain write: a queue whose descriptor could not be read is read again, a heartbeat starts, the time
source is measured from now (R384, R417, R441). -/
def State.wrote (s : State) (o : Nat) : State :=
  match winRange o with
  | .page p r => if 0x1000 ≤ r ∧ r < 0x1200 then s.lqRetry p ((r - 0x1000) / 8) else s
  | .root r =>
    if 0x8000 ≤ r ∧ r < 0x8400 ∧ r % 64 = 0x28 then { s with hbStart := Sparse.set 0 s.hbStart ((r - 0x8000) / 64) s.time.toNat }
    else if r = 0xB800 then { s with timeMeas := s.wall }
    else s
  | .reserved => s

/-- R239: a write of a register without a row of its own, by a context of a level. -/
def State.regWrite (s : State) (o : Nat) (l : Level) (v : Word) : State :=
  match winReg o with
  | none => s
  | some r => match r.wr with
    | none => s
    | some w =>
      if !l.reaches w then s
      else
        let new := maskWrite (s.rw o) v r.mask
        let new := match winRange o with | .page p q => s.pageValue p q new | _ => new
        (s.ww o new).wrote o
def execRegisterWrite (off : Nat) (lvl : Level) (v : Word) (s : State) : Out := .next (s.regWrite off lvl v)

/-- R87: a write of MEM.HOT.CTL of partition p clears its counters and starts an epoch. -/
def execMemHotCtlWrite (p : Nat) (v : Word) (s : State) : Out :=
  onItem p 16 s fun s => (s.wp p 0x086 (maskWrite (s.rp p 0x086) v (sysMask 0x086))).newEpoch p
/-- R87: an epoch of a partition (cursor i) ends. -/
def execHotEpochEnd (s : State) : Out :=
  onItem s.cur.i 16 s fun s =>
    let p := s.cur.i
    if Sparse.get 0 s.hotStart p + max 1 (getF (s.rp p 0x086) 32 16) * 1000 ≤ s.time.toNat then s.newEpoch p else s

/-! ## Partitions (R391 to R394) -/

/-- The core mask of partition p as a number, bit c for core c. -/
def State.mask (s : State) (p : Nat) : Nat :=
  (s.rw (rpage (0x8008 + 64 * p))).toNat + (s.rw (rpage (0x8010 + 64 * p))).toNat * 2 ^ 64
def State.poolMask (s : State) : Nat := (s.rw (rpage 0x9810)).toNat + (s.rw (rpage 0x9818)).toNat * 2 ^ 64

/-- No core is in two partitions, or in a partition and the pool. -/
def State.disjoint (s : State) : Bool :=
  (State.parts.foldl (fun (st : Bool × Nat) p => (st.1 && st.2 &&& s.mask p == 0, st.2 ||| s.mask p)) (true, s.poolMask)).1
/-- No two enabled partitions have one FN. -/
def State.fnUnique (s : State) : Bool :=
  State.parts.all fun p => State.parts.all fun q => p == q || !s.partEN p || !s.partEN q || s.partFN p != s.partFN q
/-- ROOT's partition is enabled and not sliced. -/
def State.rootOk (s : State) : Bool := State.parts.all fun p => !s.partRoot p || (s.partEN p && !s.partSliced p)

def partCtl (p : Nat) : Nat := rpage (0x8000 + 64 * p)
/-- REFUSED of PART.CTL.p. -/
def State.refusePart (s : State) (p : Nat) (b : Bool) : State := s.wwF (partCtl p) 9 1 (b2n b)

/-- R392: a write of PART.CTL.p. -/
def execPartCtlWrite (p : Nat) (v : Word) (s : State) : Out :=
  onItem p 16 s fun s =>
    let old := s.rw (partCtl p)
    let t := s.ww (partCtl p) (maskWrite old v 0xFF)
    let change := getF old 0 2 != getF v 0 2
    if t.fnUnique && (!change || (s.clean p && t.disjoint && t.rootOk)) then t.refusePart p false else s.refusePart p true

/-- R392: a write of PART.CORES.p.m. -/
def execPartCoresWrite (p m : Nat) (v : Word) (s : State) : Out :=
  onItem p 16 s fun s =>
    let t := s.ww (rpage (0x8008 + 64 * p + 8 * (m % 2))) v
    if s.clean p && t.disjoint && t.fnUnique && t.rootOk then t.refusePart p false else s.refusePart p true

/-- R393: a write of POOL.CORES.m. -/
def execPoolCoresWrite (m : Nat) (v : Word) (s : State) : Out :=
  .next <|
    let t := s.ww (rpage (0x9810 + 8 * (m % 2))) v
    let clean := State.parts.all fun p => !(s.partEN p && s.partSliced p) || s.clean p
    if clean && t.disjoint then t.wwF (rpage 0x9820) 20 1 0 else s.wwF (rpage 0x9820) 20 1 1

/-! ## Quarantine (R381) -/

/-- The core is held by a full urgent stop. -/
def Core.fullStopped (c : Core) : Bool := match c.run with | .saved 1 | .saving 1 _ => true | _ => false

/-- A full-stopped core of a launch that may move is quarantined: every other core is asked to stop, and once all are saved the
launch is READY. -/
def State.moveAway (s : State) (c : Nat) : State :=
  match s.launchOf c with
  | none => s
  | some l =>
    if (s.core c).fullStopped && l.st == .running && l.save != 0 then (s.request l.key 0xA7).settleSaved l.key else s

/-- Set or clear bits of CORE.QUARANTINE.m. -/
def State.quarantine (s : State) (m : Nat) (v : Word) : State :=
  let o := rpage (0x9800 + 8 * m)
  let old := s.rw o
  let s := s.ww o v
  (List.range 64).foldl (fun s i => if bitN v.toNat i && !bitN old.toNat i then s.moveAway (64 * m + i) else s) s
/-- R381: root writes CORE.QUARANTINE.m. -/
def execCoreQuarantineWrite (m : Nat) (v : Word) (s : State) : Out := onItem m 2 s fun s => s.quarantine m v

/-! ## Messages (R398) -/

/-- A word that may be posted. -/
def postable (v : Word) : Bool := let t := getF v 0 8; decide (1 ≤ t ∧ t ≤ 4) || decide (64 ≤ t)
/-- R398: partition p posts to root. -/
def execPmqPostWrite (p : Nat) (v : Word) (s : State) : Out := onItem p 16 s fun s => if postable v then s.pmq none v p false false else s
/-- The partition in which root runs (R391). -/
def State.rootPart (s : State) : Nat := (State.parts.find? s.partRoot).getD 0
/-- R398: root posts to partition p. -/
def execPmqSendWrite (p : Nat) (v : Word) (s : State) : Out :=
  onItem p 16 s fun s => if postable v then s.pmq (some p) v s.rootPart true false else s

/-! ## Way units (R110 to R112, R116, R118, R404) -/

namespace WuCtl
/-- A way unit's register in a state, with CUR. -/
def moved (w : Word) (st cur : Nat) : Word := setF (setF w 12 2 st) 8 4 cur
end WuCtl

/-- One completion event for root: 1 is added to the ring of L2.HO.RING (R112). -/
def State.handedOver (s : State) : State :=
  let w := s.rw (rpage 0x4000)
  if !bitN w.toNat 0 then s
  else
    let a := getF w 3 45 * 8
    match s.agentAdd none a 1 with
    | (true, s) => s
    | (false, s) => s.agentFault a 6 s.rootPart none

/-- A way unit begins to drain or to be scrubbed, which takes a free time. -/
def State.wuBegin (s : State) (n : Nat) (w : Word) (st : Nat) : State :=
  let (d, s) := s.freeTime
  let s := s.setWu n (WuCtl.moved w st (WuCtl.cur w))
  { s with wuDue := Sparse.set 0 s.wuDue n (s.wall + d + 1), drainPass := Sparse.set 0 s.drainPass n (if st = 2 then 1 else 0) }
/-- A way unit is OWNED by OWNER, or FREE; OWNER and ASSIGN are those that root wrote last (R118). -/
def State.wuSettle (s : State) (n : Nat) : State :=
  let w := match Sparse.get none s.wuNext n with | some v => maskWrite (s.wu n) v 0x1F | none => s.wu n
  let w := if WuCtl.assign w then WuCtl.moved w 1 (WuCtl.owner w) else WuCtl.moved w 0 (WuCtl.cur w)
  { s.setWu n w with wuDue := Sparse.set 0 s.wuDue n 0, drainPass := Sparse.set 0 s.drainPass n 0,
                        wuNext := Sparse.set none s.wuNext n none }

/-- R111, R118, R404: root writes WU.CTL.n. A DRAINING unit takes the OWNER and ASSIGN that it is given when its drain ends. A write with USE = 0 to a
SCRUBBING unit whose USE is 0 is not among the rows of R118: it stores OWNER and ASSIGN, which count when the scrub ends (log entry 90). -/
def execWuCtlWrite (n : Nat) (v : Word) (s : State) : Out :=
  onItem n 1536 s fun s =>
    let old := s.wu n
    let st := WuCtl.state old
    let w := maskWrite old v 0x3F
    let ok := setF w 14 1 0
    if WuCtl.use old || WuCtl.use w then
      if st = 2 ∨ !(s.clean (WuCtl.cur old) && s.clean (WuCtl.owner w)) then s.setWu n (setF old 14 1 1)
      else if st = 0 ∧ !WuCtl.use w ∧ WuCtl.assign w then (s.setWu n ok).wuSettle n
      else if st = 1 ∧ !WuCtl.use old then s.wuBegin n ok 2
      else s.wuBegin n ok 3
    else if st = 0 then (s.setWu n ok).wuSettle n
    else if st = 2 then { s.setWu n (setF old 14 1 0) with wuNext := Sparse.set none s.wuNext n (some (w &&& 0x1F)) }
    else if st = 1 ∧ (WuCtl.owner w ≠ WuCtl.owner old ∨ WuCtl.assign w ≠ WuCtl.assign old) then s.wuBegin n ok 2
    else s.setWu n ok

/-- The lines that a way unit holds. -/
def State.linesIn (s : State) (n : Nat) : List L2Line := s.l2.filter fun l => l.wu == n

/-- R118: a pass of the handover engine over a DRAINING way unit (cursor i) ends. Pass 1 writes dirty lines back and invalidates clean
ones; later passes leave none. -/
def execHandoverPassEnd (s : State) : Out :=
  onItem s.cur.i 1536 s fun s =>
    let n := s.cur.i
    if WuCtl.state (s.wu n) ≠ 2 then s
    else
      let k := Sparse.get 0 s.drainPass n
      let s := (s.linesIn n).foldl (fun s l => if k ≤ 1 && l.dirty then s.writeBack l else s.evict l) s
      if !(s.linesIn n).isEmpty then
        let (d, s) := s.freeTime
        { s with drainPass := Sparse.set 0 s.drainPass n (k + 1), wuDue := Sparse.set 0 s.wuDue n (s.wall + d + 1) }
      else if WuCtl.use (s.wu n) then (s.wuBegin n (s.wu n) 3).handedOver
      else (s.wuSettle n).handedOver

/-- Zero-fill a clearing way unit with fresh checks. -/
def State.wipeWay (s : State) (n : Nat) : State :=
  { s with clr := s.clr.filter fun e => !decide (n * 2 ^ 20 ≤ e.1 ∧ e.1 < (n + 1) * 2 ^ 20)
           clrBad := s.clrBad.filter fun b => !decide (n * 2 ^ 15 ≤ b ∧ b < (n + 1) * 2 ^ 15) }
/-- R111: a SCRUBBING way unit (cursor i) has been zero-filled. -/
def execWayScrubEnd (s : State) : Out :=
  onItem s.cur.i 1536 s fun s =>
    let n := s.cur.i
    if WuCtl.state (s.wu n) ≠ 3 then s else ((s.wipeWay n).wuSettle n).handedOver

/-! ## Blocks (R395 to R397) -/

def blkReg (b : Nat) : Nat := rpage (0x6000 + 8 * b)
/-- The stack or the LPDDR half that block b's scrub occupies. -/
def scrubUnit (b : Nat) : Nat := if b < 256 then b / 32 else 8 + (b - 256) / 256
/-- The bound of a scrub in wall cycles: 2 ms or 8 ms. -/
def scrubBound (b : Nat) : Nat := if b < 256 then 3800000 else 15200000

/-- Queue the scrub of block b behind those of its stack or half (R397). -/
def State.addScrub (s : State) (b : Nat) (keep : Bool) : State :=
  let start := s.scrubs.foldl (fun m x => if scrubUnit x.blk = scrubUnit b then max m x.due else m) s.wall
  let (d, s) := s.freeTime
  { s with scrubs := s.scrubs ++ [{ blk := b, keep := keep, due := start + 1 + d % scrubBound b }] }

/-- R395: root writes BLK.CTL.b. -/
def execBlkCtlWrite (b : Nat) (v : Word) (s : State) : Out :=
  onItem b 768 s fun s =>
    let old := s.rw (blkReg b)
    let st := getF old 8 2
    let cur := getF old 10 4
    let w := setF (maskWrite old v 0x1F) 14 1 0
    let own := getF v 0 4
    let asg := bitN v.toNat 4
    if st = 2 ∨ !s.populated b then s.wwF (blkReg b) 14 1 1
    else if st = 0 then s.ww (blkReg b) (if asg then setF (setF w 8 2 1) 10 4 own else w)
    else if asg && own == cur then s.ww (blkReg b) w
    else
      let s := if bitN v.toNat 5 then s.pmqHw (some cur) 5 b else s
      (s.ww (blkReg b) (setF w 8 2 2)).addScrub b false

/-- A physical address lies in block b. -/
def inBlock (b a : Nat) : Bool := decide (blockBase b ≤ a ∧ a < blockBase b + 2 ^ 31)
/-- A group that holds a line of block b loses its stores and is FAILED (R321, R397). -/
def Group.lose (g : Group) (b : Nat) : Group :=
  if g.lines.any fun l => inBlock b (128 * l) then { g with st := if g.st = 1 then 2 else g.st, spilt := true, held := [], lines := [], ways := [], pages := [] } else g

/-- Steps 1 to 4 of a scrub of block b. -/
def State.wipeBlock (s : State) (b : Nat) : State :=
  let page (k : Nat) : Bool := inBlock b (65536 * k)
  { s with l2 := s.l2.filter fun l => !inBlock b (128 * l.line)
           cores := s.cores.map fun e => (e.1, { e.2 with groups := e.2.groups.map fun g => g.lose b })
           launches := s.launches.map fun l => { l with places := l.places.map fun e => (e.1, { e.2 with groups := e.2.groups.map fun g => g.lose b }) }
           mem := s.mem.filter fun e => !inBlock b e.1
           bad := s.bad.filter fun x => !inBlock b (32 * x)
           hot := s.hot.filter fun e => !page e.1
           hotSeen := s.hotSeen.filter fun k => !page k
           atomCnt := s.atomCnt.filter fun e => !page e.1
           atomCand := s.atomCand.filter fun e => !page e.1
           atomSeen := s.atomSeen.filter fun k => !page k }

/-- A partition's reset has no scrub left: RESET_DONE is posted, once for each reset of it that was ordered (R400). -/
def State.resetOver (s : State) (p : Nat) : State :=
  if s.fnReset.contains p && !s.scrubs.any (fun x => x.keep && s.owns p x.blk) then
    { (s.fnReset.filter (· == p)).foldl (fun s _ => s.pmqHw none 7 p) s with fnReset := s.fnReset.filter (· != p) }
  else s

/-- R397: the scrub of a block (cursor i) ends. -/
def execBlockScrubEnd (s : State) : Out :=
  onItem s.cur.i 768 s fun s =>
    let b := s.cur.i
    match s.scrubs.find? fun x => x.blk == b with
    | none => s
    | some x =>
      let s := { s with scrubs := s.scrubs.erase x }.wipeBlock b
      if x.keep then State.parts.foldl State.resetOver s
      else
        let w := s.rw (blkReg b)
        let w := if bitN w.toNat 4 then setF (setF w 8 2 1) 10 4 (getF w 0 4) else setF w 8 2 0
        (s.ww (blkReg b) w).pmqHw none 6 b

/-! ## Reset of a partition (R400, R407) -/

/-- An address that a completion step would reach lies in memory that the reset of partitions ps scrubs (R141). -/
def State.lostAt (s : State) (ps : List Nat) (cx : Ctx) (clr : Bool) (a : Nat) : Bool × State :=
  if clr then (true, s)
  else match s.route cx {} a with
  | (.ok (.main _ _, pa, _), s) => (ps.any fun p => (blockOf pa).any (s.owns p), s)
  | (_, s) => (false, s)

/-- A copy command leaves out the completion steps that lead into memory that the reset scrubs (R141). -/
def State.blindCmd (s : State) (ps : List Nat) (cx : Ctx) (q : Cmd) : State × Cmd :=
  let st := q.stat.toNat
  let r := q.ring.toNat
  let (x, s) := if bitN st 1 then s.lostAt ps cx (bitN st 2) (fldN st 3 52 * 8 + 8 * (q.seq % 2 ^ fldN st 60 4)) else (false, s)
  let (y, s) := if bitN r 1 then s.lostAt ps cx (bitN r 2) (fldN r 3 52 * 8) else (false, s)
  (s, { q with stat := if x then setF q.stat 1 1 0 else q.stat, ring := if y then setF q.ring 1 1 0 else q.ring })
/-- The same for every copy command of a context, each reached as cx says. -/
def State.blindCore (s : State) (ps : List Nat) (cx : Cmd → Ctx) (k : Core) : Core × State :=
  (List.range 16).foldl (fun (st : Core × State) ch =>
    let (qs, s) := (st.1.chan ch).foldl (fun (st : List Cmd × State) q =>
      let (s, q) := st.2.blindCmd ps (cx q) q
      (st.1 ++ [q], s)) ([], st.2)
    (st.1.setChan ch qs, s)) (k, s)
/-- The same for what is kept of a saved launch. -/
def State.blindPlaces (s : State) (ps : List Nat) (l : Launch) : State :=
  let (xs, s) := l.places.foldl (fun (st : List (Nat × Core) × State) e =>
    let (k, s) := st.2.blindCore ps (l.placeCtx e) e.2
    (st.1 ++ [(e.1, k)], s)) ([], s)
  s.modLaunch l.key fun l => { l with places := xs }
/-- The words of a command without a channel whose STAT (word i) and FLAG (word j) are left out where the reset scrubs their memory: a STAT of
0 is none, and a FLAG that is not aligned is not written (R318). -/
def State.blindWords (s : State) (ps : List Nat) (cx : Ctx) (ws : List Word) (i j : Nat) : List Word × State :=
  let (x, s) := s.lostAt ps cx false (ws.getD i 0).toNat
  let (y, s) := s.lostAt ps cx false (ws.getD j 0).toNat
  let ws := if x then ws.set i 0 else ws
  (if y then ws.set j 1 else ws, s)

/-- The commands of the cores of partitions ps leave out the completion steps that lead into memory that the reset of ps scrubs. -/
def State.blind (s : State) (ps : List Nat) : State :=
  let s := (s.cores.filter fun e => ps.contains e.2.part).foldl (fun s e =>
    let (k, s) := s.blindCore ps (s.cmdCtx e.1) (s.core e.1)
    s.setCore e.1 k) s
  let s := (s.launches.filter fun l => ps.contains l.part).foldl (fun s l => s.blindPlaces ps l) s
  let s := (s.reds.filter fun r => ps.contains r.part).foldl (fun s r =>
    let (ws, s) := s.blindWords ps r.ctx r.words 12 10
    s.setRed { r with words := ws }) s
  (s.colls.filter fun r => ps.contains r.part).foldl (fun s r =>
    let (ws, s) := s.blindWords ps r.ctx r.words 7 5
    s.setColl { r with words := ws }) s

/-- Every command of partition p's cores is over. -/
def State.partQuiet (s : State) (p : Nat) : Bool :=
  s.cores.all (fun e => e.2.part != p || e.2.allCmds.isEmpty) && s.reds.all (fun r => r.part != p) && s.colls.all fun r => r.part != p

/-- The killed launches of partition p complete: their records go out before the scrub. -/
def State.endLaunches (s : State) (p : Nat) : State :=
  let s := (s.launches.filter fun l => l.part == p).foldl (fun s l =>
    let s := l.cores.foldl State.release s
    if l.parent.isSome || l.hashed then s else (s.completionRecord l).completionRing l)
    { s with launches := s.launches.map fun l => if l.part = p ∧ l.st ≠ .ending then { l with st := .ending, status := 3 } else l }
  { s with launches := s.launches.filter fun l => l.part != p }

/-- A page's registers are as after reset, but for SCHED.CTL; its logs and queues count from 0 again. -/
def State.resetPage (s : State) (p : Nat) : State :=
  let mine (o : Nat) : Bool := decide (ppage p 0 ≤ o ∧ o < ppage p 0 + 0x1000000)
  { s with win := s.win.filter fun e => !(mine e.1 && e.1 != ppage p 0x1808)
           logCount := s.logCount.filter fun e => !mine e.1
           cqCount := s.cqCount.filter fun e => e.1 / 64 != p
           lqLevel := s.lqLevel.filter fun e => e.1 / 2 ^ 38 != p
           lqFault := s.lqFault.filter fun k => k % 1024 / 64 != p }

/-- The lines of way units are gone, without write-back. -/
def State.loseWays (s : State) (ways : List Nat) : State := { s with l2 := s.l2.filter fun l => !ways.contains l.wu }

/-- A reset of partition p once its commands are over: its blocks, way units and page (R400). RESET_DONE follows when its blocks are
scrubbed. -/
def State.partWipe (s : State) (p : Nat) : State :=
  let s := s.endLaunches p
  let mine := (List.range 768).filter (s.owns p)
  let s := mine.foldl (fun s b => if s.scrubs.any (fun x => x.blk == b && x.keep) then s else s.addScrub b true) s
  let ways := (List.range 1536).filter fun n => WuCtl.state (s.wu n) == 1 && WuCtl.cur (s.wu n) == p
  let s := s.loseWays ways
  let s := (ways.filter fun n => WuCtl.use (s.wu n)).foldl State.wipeWay s
  { s.resetPage p with fnReset := s.fnReset ++ s.fnKill.filter (· == p), fnKill := s.fnKill.filter (· != p) }.resetOver p
/-- The resets whose partitions' commands are over go on. -/
def State.settleResets (s : State) : State :=
  if s.fnKill.isEmpty then s
  else State.parts.foldl (fun s p => if s.fnKill.contains p && s.partQuiet p then s.partWipe p else s) s
/-- A reset of partition p begins: its launches and commands are killed, and run to their boundaries of 512 bytes (R141, R400). -/
def State.partReset (s : State) (p : Nat) : State :=
  let s := s.blind [p]
  let s := (s.launches.filter fun l => l.part == p && l.parent.isNone).foldl (fun s l => s.killLaunch l.key) s
  { s with fnKill := s.fnKill ++ [p] }.settleResets

/-- The enabled partition of function fn of link j (R407). -/
def State.function (s : State) (j fn : Nat) : Option Nat :=
  State.parts.find? fun p => s.partEN p && s.partFN p == fn && bitN (s.partLinks p) j

/-- R400, R407: a Function Level Reset of function i of link j (cursor): its partition is reset, and its configuration space. One that comes
while a device reset runs is absorbed in it (R434). -/
def execFunctionLevelReset (s : State) : Out :=
  .next <|
    if s.resetting then s
    else match s.function s.cur.j s.cur.i with | some p => (s.partReset p).resetCfg (s.partFN p) | none => s

end Sys2Proof.Machine
end

