-- ==== Sys2Proof/Machine/Margin.lean ====
section
/-! DEFINITION. Margin, replay and what watches the cores (R374 to R387, R403, R427 to R430): the margin offset, late transitions,
replay windows and escalation, watchdogs, heartbeats, samples of the trace unit and the hash engine. -/
namespace Sys2Proof.Machine

open Sys2Proof

/-! ## The margin offset (R374) -/

def marginReg (n : Nat) : Nat := rpage (0x9000 + 8 * n)
def replayReg (n : Nat) : Nat := rpage (0x9400 + 8 * n)

/-- R374: root writes MARGIN.OFS.n: BUSY is set until the supply has settled, within 20 microseconds. -/
def execMarginOfsWrite (n : Nat) (v : Word) (s : State) : Out :=
  onItem n nCores s fun s =>
    let (d, s) := s.freeTime
    let s := s.ww (marginReg n) (setF (maskWrite (s.rw (marginReg n)) v 0xF) 8 1 1)
    s.modCore n fun k => { k with marginDue := s.wall + 1 + d % 38000 }
/-- R374: the supply of the cursor's core has reached its offset. -/
def execMarginSettled (s : State) : Out :=
  onCore s fun s =>
    let c := s.cur.core
    if (s.core c).marginDue ≤ s.wall then s.wwF (marginReg c) 8 1 0 else s

/-! ## Replay (R375 to R380) -/

def rWCNT : Nat := 0x142

/-- R379: root writes REPLAY.CTL.n: a window starts. -/
def execReplayCtlWrite (n : Nat) (v : Word) (s : State) : Out :=
  onItem n nCores s fun s =>
    let s := s.ww (replayReg n) (maskWrite (s.rw (replayReg n)) v (maskHL 31 0))
    s.modCore n fun k => { k.wsr rWCNT 0 with replayStart := s.time.toNat }

/-- The end of the replay window of core c. -/
def State.windowEnd (s : State) (c : Nat) : Nat := (s.core c).replayStart + max 1 (getF (s.rw (replayReg c)) 16 16) * 1000
/-- R379: a replay window of the cursor's core ends. -/
def execReplayWindow (s : State) : Out :=
  onCore s fun s =>
    let c := s.cur.core
    let w := max 1 (getF (s.rw (replayReg c)) 16 16) * 1000
    if s.windowEnd c ≤ s.time.toNat then
      s.modCore c fun k => { k.wsr rWCNT 0 with replayStart := s.time.toNat - (s.time.toNat - k.replayStart) % w }
    else s

/-- The unit whose capture stage holds a non-replayable operation (R380). -/
def Op.nonReplay (o : Op) : Option ReplayUnit :=
  match o.act with
  | some (.srrd _ n) => if sysSampled n.toNat then some (if o.slot = 2 then .sb else .sa) else none
  | some i => match memForm i with
    | some f =>
      if (f.acc = .load ∨ f.acc = .queue) ∧ o.pieces.any (fun q => match q.home with | .host _ ca => ca == 2 | _ => false)
      then some (if o.slot = 6 then .sb else .sa) else none
    | none => none
  | none => none

/-- The core is in the run of a launch: it issues, or has operations that are not over. -/
def Core.live (c : Core) : Bool := c.run == .running || (c.run == .ended && !c.pipe.isEmpty)
/-- Stages of core c advanced in the wall cycle that has just passed, recomputed in it, or ran a matrix replay in it (R377). -/
def Core.checked (c : Core) : Bool := c.live && [0, 16, 17].contains c.freeze
/-- The units with stages that can disagree: all of them, in a matrix replay those of the sequencer and the array (R276, R377). -/
def Core.mayDisagree (c : Core) (u : ReplayUnit) : Bool := c.mretry.isNone || u == .seq || u == .mx || u == .sc

/-- Count a recomputing stage (R378). -/
def Core.countReplay (c : Core) (u : ReplayUnit) : Core :=
  let i := 0x144 + u.idx
  c.wsr i (BitVec.ofNat 64 (min 0xFFFFFFFF (getF (c.rsr i) 0 32 + 1)))

/-- The words of a NONREPLAY entry. -/
def nonReplayWords (s : State) (c : Nat) (o : Op) : List Word :=
  relWords s o.addr 2 (match o.act with | some i => Instr.unitCode i | none => 0) c (s.core c).part false 1

/-- The non-replayable operations that occupied a capture stage in the cycle that has just passed: they land next, an elastic qld by its
fill. -/
def State.captures (s : State) (c : Nat) : List (Op × ReplayUnit) :=
  let k := s.core c
  if k.replay ≠ 0 ∨ k.freeze ≠ 0 then []
  else k.pipe.filterMap fun o =>
    let next := if o.isQld && o.elastic then o.phase == .fly && !(o.arrived s.wall k.sched).isEmpty else o.due k.sched && s.ready o
    if o.fault || !next then none else o.nonReplay.map fun u => (o, u)
/-- A capture stage that disagreed is not recomputed: its operation stops the core at its landing. One occurrence of the unit stands for it
(log entry 92). -/
def State.loseCapture (s : State) (c : Nat) (us : List ReplayUnit) (e : Op × ReplayUnit) : List ReplayUnit × State :=
  if us.contains e.2 then
    (us.erase e.2, (s.setOp c { e.1 with fault := true, cause := 0x8D }).rel (some (s.core c).part) (nonReplayWords s c e.1))
  else (us, s)
/-- The core freezes for two wall cycles. The freeze counts once a wall cycle, and one that takes WCNT above LIMIT is kept until it ends
(R375, R379). -/
def Core.freezes (c : Core) (limit : Nat) : Core :=
  if c.replay = 2 then c
  else
    let n := min 0xFFFF (getF (c.rsr rWCNT) 0 16 + 1)
    { c.wsr rWCNT (BitVec.ofNat 64 n) with replay := 2, escal := if limit < n then n else c.escal }

/-- R375, R380: stages of the cursor's core disagreed with their shadows in the wall cycle just passed, one for each unit named: the core
freezes for two wall cycles in which they recompute; a non-replayable operation whose capture stage disagreed stops the core at its
landing. -/
def execLateTransition (units : List ReplayUnit) (s : State) : Out :=
  onCore s fun s =>
    let c := s.cur.core
    let k := s.core c
    if !k.checked then s
    else
      let (us, s) := (s.captures c).foldl (fun (st : List ReplayUnit × State) e => st.2.loseCapture c st.1 e) (units.filter k.mayDisagree, s)
      if us.isEmpty then s
      else
        let limit := getF (s.rw (replayReg c)) 0 16
        s.modCore c fun k => (us.foldl Core.countReplay k).freezes limit

/-- A freeze took REPLAY.WCNT above LIMIT, and is over (R379). -/
def State.escalates (s : State) (c : Nat) : Bool := (s.core c).escal != 0 && (s.core c).replay == 0

/-- A message of the Ranger to an endpoint (R419). -/
def rangerMsg (ep code tag scope target : Nat) (payload : List Byte) : RangerMsg :=
  { ep := ep, vendor := Config.rangerVendor, ver := 1, code := code, tag := tag, scope := scope, target := target
    len := payload.length, payload := payload }
/-- An event of the Ranger, while it is powered, goes to those who subscribed to it (R419, R420); its SCOPE and TARGET are the device's
(DESIGN CHOICE, log entry 120). -/
def State.announce (s : State) (event : Nat) (data : List Byte) : State :=
  let whom := (s.subs.filter fun e => bitN e.2 (event - 1)).map (·.1)
  if s.domains.contains .ranger then
    { s with out := s.out ++ whom.map fun ep => .ranger (rangerMsg ep 0xFF 0 3 0 (BitVec.ofNat 8 event :: data)) }
  else s
/-- The bytes of words. -/
def wordBytes (ws : List Word) : List Byte := ws.flatMap fun w => bytesLE 8 w.toNat

/-- R379: the cursor's core has had more replays in a window than root accepts: it stops, and the escalation is logged. -/
def execTimingEscalation (s : State) : Out :=
  onCore s fun s =>
    let c := s.cur.core
    let k := s.core c
    if !s.escalates c then s
    else
      let ws := relWords s 0 3 0 c k.part false k.escal
      let s := (((s.rel (some k.part) ws).rel none ws).announce 5 (wordBytes ws)).modCore c fun k => { k.wsr rWCNT 0 with escal := 0 }
      if k.run = .running ∨ k.run = .ended then s.modCore c fun k => { k with ext := k.ext ++ [0x8E] } else s

/-! ## Watchdogs and heartbeats (R383, R384) -/

/-- The watchdog timer of core c has passed its limit. -/
def State.barks (s : State) (c : Nat) : Bool :=
  let k := s.core c
  let lim := getF (s.rw (rpage (0x8020 + 64 * k.part))) 0 24
  k.live && lim != 0 && decide (k.wdStart + lim * 1000 < s.time.toNat)
/-- R383: the watchdog of the cursor's core. -/
def execWatchdog (s : State) : Out :=
  onCore s fun s =>
    let c := s.cur.core
    if !s.barks c then s
    else
      let p := (s.core c).part
      let ws := relWords s 0 4 0 c p false 1
      let s := ((s.rel (some p) ws).rel none ws).announce 6 (wordBytes ws)
      s.modCore c fun k => { k with ext := k.ext ++ [0x8A], wdStart := s.time.toNat }

/-- The heartbeat period of partition p in nanoseconds; 0 disables it. -/
def State.hbPeriod (s : State) (p : Nat) : Nat := getF (s.rw (rpage (0x8028 + 64 * p))) 0 16 * 1000000
/-- The entry of a missed heartbeat, and the period that starts anew. -/
def State.missBeat (s : State) (p : Nat) (ws : List Word) : State :=
  let s := (s.rel none ws).announce 1 (wordBytes ws)
  { s with hbStart := Sparse.set 0 s.hbStart p s.time.toNat }
/-- Whether partition p has let its heartbeat period pass. -/
def State.beatMissed (s : State) (p : Nat) : Bool :=
  s.hbPeriod p != 0 && decide (Sparse.get 0 s.hbStart p + s.hbPeriod p ≤ s.time.toNat)
/-- R384: a partition (cursor i) has not kicked within its period. -/
def execHeartbeat (s : State) : Out :=
  onItem s.cur.i 16 s fun s => if s.beatMissed s.cur.i then s.missBeat s.cur.i (relWords s 0 5 0 0 s.cur.i false 1) else s
/-- R384: a write of HB.KICK of a partition (cursor i). -/
def execHbKickWrite (s : State) : Out :=
  onItem s.cur.i 16 s fun s => { s with hbStart := Sparse.set 0 s.hbStart s.cur.i s.time.toNat }

/-! ## Samples (R428, R429) -/

/-- R429: the sample period of the cursor's core expires. -/
def execTraceSample (s : State) : Out :=
  onCore s fun s =>
    let c := s.cur.core
    let k := s.core c
    let period := getF (k.rsr 0x198) 8 24 * 1024
    if period = 0 ∨ s.wall < k.trcDue ∨ !(k.run == .running || k.run == .ended) then s
    else (s.trace c 1 k.freeze k.lastAddr).modCore c fun k => { k with trcDue := s.wall + period }

/-! ## The hash engine (R430) -/

namespace Sm3
abbrev W := BitVec 32
def rol (x : W) (n : Nat) : W := x.rotateLeft (n % 32)
def p0 (x : W) : W := x ^^^ rol x 9 ^^^ rol x 17
def p1 (x : W) : W := x ^^^ rol x 15 ^^^ rol x 23
def iv : List W := [0x7380166F, 0x4914B2B9, 0x172442D7, 0xDA8A0600, 0xA96F30BC, 0x163138AA, 0xE38DEE4D, 0xB0FB0E4E]
/-- A big-endian word of four bytes. -/
def word (bs : List Byte) : W := bs.foldl (fun a b => a * 256 + b.setWidth 32) 0
/-- The schedule, extended word by word; the newest word stands first. -/
def extend : Nat → List W → List W
  | 0, ws => ws
  | n + 1, ws =>
    let g (k : Nat) : W := ws.getD (k - 1) 0
    extend n ((p1 (g 16 ^^^ g 9 ^^^ rol (g 3) 15) ^^^ rol (g 13) 7 ^^^ g 6) :: ws)
def ff (j : Nat) (x y z : W) : W := if j < 16 then x ^^^ y ^^^ z else (x &&& y) ||| (x &&& z) ||| (y &&& z)
def gg (j : Nat) (x y z : W) : W := if j < 16 then x ^^^ y ^^^ z else (x &&& y) ||| (~~~x &&& z)
/-- One round on a to h with words j and j + 4. -/
def round (j : Nat) (w w4 : W) (v : List W) : List W :=
  let g (k : Nat) : W := v.getD k 0
  let t : W := if j < 16 then 0x79CC4519 else 0x7A879D8A
  let ss1 := rol (rol (g 0) 12 + g 4 + rol t j) 7
  let ss2 := ss1 ^^^ rol (g 0) 12
  let tt1 := ff j (g 0) (g 1) (g 2) + g 3 + ss2 + (w ^^^ w4)
  let tt2 := gg j (g 4) (g 5) (g 6) + g 7 + ss1 + w
  [tt1, g 0, rol (g 1) 9, g 2, p0 tt2, g 4, rol (g 5) 19, g 6]
def rounds : Nat → Nat → List W → List W → List W
  | 0, _, _, v => v
  | n + 1, j, ws, v => rounds n (j + 1) (ws.drop 1) (round j (ws.getD 0 0) (ws.getD 4 0) v)
/-- Compress one block of 64 bytes. -/
def block (v : List W) (bs : List Byte) : List W :=
  let first := (List.range 16).map fun i => word ((bs.drop (4 * i)).take 4)
  let ws := (extend 52 first.reverse).reverse
  (rounds 64 0 ws v).zipWith (· ^^^ ·) v
def blocks : Nat → List W → List Byte → List W
  | 0, v, _ => v
  | n + 1, v, bs => blocks n (block v (bs.take 64)) (bs.drop 64)
/-- The SM3 digest of bytes. Log entry 16. -/
def digest (bs : List Byte) : List Byte :=
  let len := bs.length
  let pad := (119 - len % 64) % 64
  let m := bs ++ [0x80] ++ List.replicate pad 0 ++ (bytesLE 8 (8 * len)).reverse
  (blocks (m.length / 64) iv m).flatMap fun w => (bytesLE 4 w.toNat).reverse
end Sm3

/-- The bytes of a page-log entry: the launch's id, the page, its place among the launch's pages, whether it could not be read, and the
digest of its bytes (R430). -/
def State.hashData (s : State) (l : Launch) (k page : Nat) : List Byte × State :=
  let r := s.agentRead (some l.part) (page * 65536) 65536
  let d : Nat × List Byte := match r.1 with
    | some bs => (0, Sm3.digest bs)
    | none => (1, List.replicate 32 0xFF)
  (wordBytes [l.id, BitVec.ofNat 64 (page * 65536), BitVec.ofNat 64 (k + l.pages.length * 2 ^ 32), BitVec.ofNat 64 d.1] ++ d.2, r.2)
/-- One entry of the hash log: 64 bytes, then the counter; one that could not be made takes no place (R430, R441). -/
def State.hashEntry (s : State) (l : Launch) (k page : Nat) : State :=
  let reg := ppage l.part 0x7000
  let w := s.rw reg
  let base := getF w 3 45 * 8
  let n := Sparse.get 0 s.logCount reg
  let d := s.hashData l k page
  match d.2.logStore (some l.part) reg (base + 64 + 64 * (n % 2 ^ getF w 48 4)) d.1 with
  | (some x, s) => (s.agentMet (some l.part) x.met).agentFault x.addr 5 l.part none
  | (none, s) => match { s with logCount := Sparse.set 0 s.logCount reg (n + 1) }.agentAdd (some l.part) base 1 with
    | (true, s) => s
    | (false, s) => s.agentFault base 5 l.part none

/-- R430: the hash engine digests the pages that a completed launch (cursor i its key) dirtied. -/
def execPageHash (s : State) : Out :=
  .next <|
    match s.launch s.cur.i with
    | none => s
    | some l =>
      if !l.hashed then s
      else ((List.range l.pages.length).foldl (fun s k => s.hashEntry l k (l.pages.getD k 0)) s).dropLaunch l.key

end Sys2Proof.Machine
end

