-- ==== Sys2Proof/Machine/Outside.lean ====
section
/-! DEFINITION. What the hosts, the far nodes and the time inputs do (R105, R106, R406 to R410, R415 to R417): requests through BARs,
address-translation messages, flits, requests of far nodes and their waits, ports and routes, and the discipline of the time
base. -/
namespace Sys2Proof.Machine

open Sys2Proof

/-! ## Hosts (R85, R406, R407) -/

/-- Completion statuses of PCIe: successful, unsupported request, completer abort. -/
def cplOk : Nat := 0
def cplUR : Nat := 1
def cplCA : Nat := 4

/-- What a request through a BAR reaches: a register of the window, bytes of guest-physical memory, or nothing. -/
inductive BarHit
  | reg (o : Nat) (l : Level)
  | mem (gpa : Nat)
  | none
deriving DecidableEq, Repr

/-- Functions answer: the reset sequence is over and the firmware runs (R421, R434). -/
def State.answers (s : State) : Bool := !s.recovery && s.boot.isNone
/-- The size of a BAR of function fn of partition p (R407); zero in recovery (R421). -/
def State.barSize (s : State) (p fn bar : Nat) : Nat :=
  if !s.answers then 0
  else match bar with
  | 0 => 0x1000000
  | 2 => if fn = 0 ∧ s.partRoot p then 0x10000000 else 0
  | 4 => 2 ^ 36
  | _ => 0
/-- R407: the BARs of the function of partition p. -/
def State.bar (s : State) (p fn bar off : Nat) : BarHit :=
  if s.barSize p fn bar ≤ off then .none
  else match bar with
  | 0 => .reg (ppage p off) (if s.partRoot p then .root else .partition)
  | 2 => .reg (rpage off) .root
  | _ => .mem off

/-- The request of a host as main memory sees it (R85). -/
def hostReq (p link : Nat) : Req := { core := 0xFF, part := p, root := false, site := 4, die := link % 2 }

/-- The physical address, CA and MS of a guest-physical address for the host (R94, R407): the walker's reads count, and an address that leads
to a reserved range is a detection (R74). -/
def State.hostAddr (s : State) (p link gpa : Nat) (write : Bool) : Option (Nat × Nat × Bool) × State :=
  let w := stage2Walk s p .partition gpa
  let s := s.walkedBy (hostReq p link) w.2
  match w.1 with
  | .error _ => (none, s)
  | .ok l =>
    let pa := l.out gpa
    if !l.fits pa || !(if write then l.w else l.r) || inWindow pa || inHost pa || inFabric pa then (none, s)
    else if inMain pa then (some (pa, l.ca, l.ms), s)
    else (none, (s.admits (hostReq p link) pa).2)

/-- The assigned function that a request names, on a link that is up. -/
def State.hostFn (s : State) (h : HostReq) : Option Nat := if s.answers then s.function h.link h.fn else none

/-- How far a request of several sectors has come: the bytes read, the granules that it has counted (R86), and whether it goes on. -/
structure Sectors where
  got : List Byte := []
  seen : List Nat := []
  ok : Bool := true
deriving DecidableEq, Repr

/-- The granule of an address, where the L2 does not hold its line. -/
def State.missed (s : State) (ms : Bool) (pa : Nat) : List Nat := if s.inL2 ms pa then [] else [pa / 512]

/-- Read n bytes for a requester sector by sector, each at the place that at_ gives; none is an abort. Each granule counts once, where a
line of it misses (R86). -/
def State.readSectors (s : State) (r : Req) (at_ : State → Nat → Option (Nat × Nat × Bool) × State) (a n : Nat) (u : Upset) :
    Option (List Byte) × State :=
  let x := (splitAt 32 a n).foldl (fun (st : Sectors × State) e =>
    if !st.1.ok then st
    else match at_ st.2 (a + e.1) with
      | (none, s) => ({ st.1 with ok := false }, s)
      | (some (pa, ca, ms), s) =>
        let seen := s.missed ms pa ++ st.1.seen
        match s.readMain r ca ms pa e.2 (!st.1.seen.contains (pa / 512)) (if e.1 = 0 then u else .none) with
        | (none, s) => ({ st.1 with ok := false }, s)
        | (some bs, s) => ({ got := st.1.got ++ bs, seen := seen }, s)) ({}, s)
  (if x.1.ok then some x.1.got else none, x.2)

/-- Write bytes for a requester sector by sector, as far as they go: whether all were written. -/
def State.writeSectors (s : State) (r : Req) (at_ : State → Nat → Option (Nat × Nat × Bool) × State) (a : Nat) (bs : List Byte) (u : Upset) :
    Bool × State :=
  let x := (splitAt 32 a bs.length).foldl (fun (st : Sectors × State) e =>
    if !st.1.ok then st
    else match at_ st.2 (a + e.1) with
      | (none, s) => ({ st.1 with ok := false }, s)
      | (some (pa, ca, ms), s) =>
        let seen := s.missed ms pa ++ st.1.seen
        let w := s.writeMain r ca ms pa ((bs.drop e.1).take e.2) (!st.1.seen.contains (pa / 512)) (if e.1 = 0 then u else .none)
        ({ st.1 with seen := seen, ok := w.1 }, w.2)) ({}, s)
  (x.1.ok, x.2)

/-- Read bytes of guest-physical memory for a host; none is an abort. -/
def State.hostBytes (s : State) (p link gpa len : Nat) (u : Upset) : Option (List Byte) × State :=
  s.readSectors (hostReq p link) (fun s a => s.hostAddr p link a false) gpa len u

/-- Write bytes of guest-physical memory for a host, as far as they go. -/
def State.hostStore (s : State) (p link gpa : Nat) (bs : List Byte) (u : Upset) : State :=
  (s.writeSectors (hostReq p link) (fun s a => s.hostAddr p link a true) gpa bs u).2

/-- R406, R407: a host reads at most 4,096 bytes through a BAR; a longer request is discarded (log entry 119). -/
def execHostRead (h : HostReq) (len : Nat) (s : State) : Out :=
  onItem h.link 2 s fun s =>
    let ans (s : State) (st : Nat) (d : List Byte) : State := s.send (.hostCpl h.link h.tag.toNat st d)
    if !s.linkUp h.link ∨ 4096 < len then s
    else match s.hostFn h with
    | none => ans s cplUR []
    | some p => match s.bar p h.fn h.bar h.off with
      | .none => ans s cplUR []
      | .reg o l => if h.off % 8 = 0 ∧ len = 8 ∧ winMay s p l o false then ans s cplOk (bytesLE 8 (winRead s o).toNat) else ans s cplCA []
      | .mem g => match s.hostBytes p h.link g len h.u with
        | (some bs, s) => ans s cplOk bs
        | (none, s) => ans s cplCA []

/-- R406, R407: a host writes at most 512 bytes through a BAR; a longer request is discarded (log entry 119). A poisoned write is discarded and
recorded (R83, R85). -/
def execHostWrite (h : HostReq) (data : List (BitVec 8)) (poison : Bool) (s : State) : Out :=
  onItem h.link 2 s fun s =>
    if !s.linkUp h.link ∨ 512 < data.length then s
    else match s.hostFn h with
    | none => s
    | some p =>
      let struck (s : State) (pa : Nat) : State := s.memErr pa { kind := 6, site := 4, die := h.link, core := 0xFF } p
      match s.bar p h.fn h.bar h.off with
      | .none => s
      | .reg o l =>
        if poison then struck s (2 ^ 41 + o)
        else if h.off % 8 = 0 ∧ data.length = 8 ∧ winMay s p l o true then
          let w := winWrite o l (BitVec.ofNat 64 (natLE data))
          { s with turn := { cur := w.1, act := w.2 } :: s.turn }
        else s
      | .mem g =>
        if poison then (match s.hostAddr p h.link g true with | (some (pa, _, _), s) => struck s pa | (none, s) => s)
        else s.hostStore p h.link g data h.u

/-- R406: an AtomicOp of a host (cursor i the link, j its tag) is completed with Unsupported Request. -/
def execHostAtomicopReceived (s : State) : Out :=
  onItem s.cur.i 2 s fun s => if s.linkUp s.cur.i then s.send (.hostCpl s.cur.i (s.cur.j % 2 ^ 14) cplUR []) else s

/-! ## Translations of the hosts (R105, R106) -/

/-- The accesses of the cores in flight that a link's translations of a range of a function's host pages serve. -/
def State.atsUsers (s : State) (j fn va len : Nat) : List (Nat × Nat) :=
  (s.cores.filter fun e => s.partFN e.2.part == fn).flatMap fun e => (e.2.pipe.filter fun o => o.phase == .fly && !o.fault && o.pieces.any fun q => !q.done &&
    (match q.home with | .host l _ => l == j && decide (va / 4096 ≤ q.gpa % 2 ^ 45 / 4096 ∧ q.gpa % 2 ^ 45 < va + len) | _ => false)).map
    fun o => (e.1, o.id)

/-- The accesses that an invalidation waits for have performed. -/
def State.invReady (s : State) (a : AtsInv) : Bool :=
  a.deps.all fun e => match (s.core e.1).op e.2 with | some o => o.fault || o.performed | none => true
/-- The completions of the invalidations whose accesses have performed (R105). -/
def State.settleInvs (s : State) : State :=
  { s with out := s.out ++ (s.invs.filter s.invReady).map (fun a => .atsDone a.link a.tag)
           invs := s.invs.filter fun a => !s.invReady a }

/-- R105: an ATS Invalidate Request of a host. -/
def execAtsInvalidate (j fn va len tag : Nat) (s : State) : Out :=
  onItem j 2 s fun s =>
    if !s.linkUp j ∨ (s.function j fn).isNone then s
    else
      let deps := s.atsUsers j fn va len
      ({ s with ats := s.ats.filter fun a => !(a.link == j && a.fn == fn && decide (va / 4096 ≤ a.page ∧ a.page * 4096 < va + len))
                invs := s.invs ++ [{ link := j, tag := tag, deps := deps }] } : State).settleInvs

/-- R106: a PRG Response is an entry of the partition's fault queue; one that does not report success makes a retry fault again, one that does
lets it translate. -/
def execPrgResponse (j fn va : Nat) (ok : Bool) (s : State) : Out :=
  onItem j 2 s fun s =>
    match s.function j fn with
    | none => s
    | some p =>
      let k := (j, fn, va / 4096)
      let others := s.refused.filter (· != k)
      { s with refused := if ok then others else k :: others }.log (some p) (faultQ p) 64 (faultWords s (va / 4096 * 4096) Xlt.HOST 0 0 0 0 0 p 0)

/-- R436: PERSTj_N (cursor i the link) is held low (j = 1) or released: a link in reset carries nothing and its translations are gone. -/
def execPerst (s : State) : Out :=
  onItem s.cur.i 2 s fun s =>
    let j := s.cur.i
    if s.cur.j = 1 then { s with perst := if s.perst.contains j then s.perst else j :: s.perst, ats := s.ats.filter fun a => a.link != j }
    else { s with perst := s.perst.filter (· != j) }

/-! ## Flits (R83, R409) -/

/-- R409: a flit arrives; one that fails its CRC is resent and nothing of it is delivered. Links 0 and 1 are the hosts', 2 + k is port
k. -/
def execFlitReceived (l : FlitLink) (crcOk : Bool) (s : State) : Out :=
  let n := match l with | .pcie j => j | .rootlink k => 2 + k
  onItem (match l with | .pcie j => j | .rootlink k => k) (match l with | .pcie _ => 2 | .rootlink _ => 16) s fun s =>
    if crcOk then s else s.send (.resend n)

/-! ## Far nodes (R304, R308 to R311, R410) -/

/-- The aperture (R409). -/
def State.aperFirst (s : State) : Nat := s.rwF (rpage 0xB008) 0 10
def State.aperCount (s : State) : Nat := s.rwF (rpage 0xB008) 10 10
def State.aperPart (s : State) : Nat := s.rwF (rpage 0xB008) 20 4

/-- The address of n bytes at an offset of the aperture, if they may be reached (R410). -/
def State.aperture (s : State) (o n : Nat) : Option Nat :=
  let b := s.aperFirst + o / 2 ^ 31
  if o + n ≤ s.aperCount * 2 ^ 31 ∧ o % 2 ^ 31 + n ≤ 2 ^ 31 ∧ b < 768 ∧ s.owns s.aperPart b then some (blockBase b + o % 2 ^ 31) else none

/-- The request of a far node as main memory sees it (R85). -/
def State.farReq (s : State) (port : Nat) : Req :=
  { core := 0xFF, part := s.aperPart, root := false, site := 5, die := if port < 8 then 0 else 1 }

/-- The atomic form of a far operation, its width, its first and its second operand. -/
def farAtomic (op : FabricOp) : Option (Instr × Nat × Word × Word) :=
  let m : AArgs := { sp := .glb, cls := 0, land := 0, a := 0, d := 0, v := 0, b := 0 }
  let pick (w : Bool) (d n : AArgs → Instr) : Instr := if w then d m else n m
  let len (w : Bool) : Nat := if w then 8 else 4
  match op with
  | .aadd w v => some (pick w .aaddD .aaddW, len w, v, 0)
  | .axchg w v => some (pick w .axchgD .axchgW, len w, v, 0)
  | .acas w e v => some (pick w .acasD .acasW, len w, v, e)
  | .ainc w b => some (pick w .aincD .aincW, len w, 0, b)
  | .afaddb w v b => some (pick w .afaddbD .afaddbW, len w, v, b)
  | .amax w v => some (pick w .amaxD .amaxW, len w, v, 0)
  | .amin w v => some (pick w .aminD .aminW, len w, v, 0)
  | .aaddf v => some (.aaddfW m, 4, v, 0)
  | .radd v => some (.radd m, 8, v, 0)
  | _ => none

/-- The answer to a far node. -/
def State.farAnswer (s : State) (f : FabricReq) (ok : Bool) (d : List Byte) : State := s.send (.fabCpl f.port f.tag ok d)
/-- The abort response; an offset of the aperture that leads to an unpopulated block is a detection too (R74). -/
def State.farAbort (s : State) (f : FabricReq) : State :=
  let b := s.aperFirst + f.off / 2 ^ 31
  let s := if f.off < s.aperCount * 2 ^ 31 && decide (b < 768) && !s.populated b then (s.admits (s.farReq f.port) (blockBase b + f.off % 2 ^ 31)).2 else s
  s.farAnswer f false []

/-- Far waits whose counters lie in the slice of an address, with the parked waits of cores (R309). -/
def State.parkedNear (s : State) (pa : Nat) : Nat :=
  s.parkedAt { off := 0, len := 8, home := .main 0 false, at_ := pa, due := 0 }

/-- A far wait is compared with its counter: answered, parked, or compared again after 64 wall cycles (R308, R309); a counter that fails its
check is an abort response (R78, R83). -/
def State.farCompare (s : State) (w : FarWait) : State :=
  let s : State := { s with farWaits := s.farWaits.filter (· != w) }
  let s := s.correct (s.farReq w.port) false w.pa 8
  if s.sectorBad false (w.pa / 32) then (s.failRecord (s.farReq w.port) false w.pa).send (.fabCpl w.port w.tag false [])
  else if w.target ≤ s.gran false w.pa then s.send (.fabCpl w.port w.tag true [])
  else { s with farWaits := s.farWaits ++ [{ w with due := if s.parkedNear w.pa < 512 then none else some (s.wall + 64) }] }

/-- A far read-modify-write at its home: one instant (R302, R304). -/
def State.farModify (s : State) (f : FabricReq) (u : Upset) (pa : Nat) (i : Instr) (n : Nat) (v b : Word) : State :=
  match s.readMain (s.farReq f.port) 0 false pa n true u with
  | (none, s) => s.farAnswer f false []
  | (some old, s) =>
    let r := atomicVal i (8 * n) (natLE old) (v.toNat % 2 ^ (8 * n)) (b.toNat % 2 ^ (8 * n))
    let s := match r.1 with | some w => (s.putMain false pa (bytesLE n w)).getD s | none => s
    let wraps := (match i with | .radd _ => true | _ => false) && (ringSum (natLE old) v.toNat).2
    let s := if wraps then s.overrun (((blockOf pa).bind s.ownerOf).getD 0) pa 4 0xFF else s
    s.farAnswer f true (match i with | .radd _ => [] | _ => old ++ [BitVec.ofNat 8 (b2n r.2)])

/-- The bytes a far operation covers. -/
def farLen : FabricOp → Nat
  | .read n => n
  | .write bs => bs.length
  | op => match farAtomic op with | some e => e.2.1 | none => 8

/-- R410: a far node's access to this node's aperture. Atomics and ring operations are naturally aligned (R301). -/
def execFabricRequest (f : FabricReq) (u : Upset) (s : State) : Out :=
  onItem f.port 16 s fun s =>
    let n := farLen f.op
    let whole := match f.op with | .read _ => true | .write _ => true | _ => f.off % n == 0
    if !s.live then s
    else match (if whole then s.aperture f.off n else none) with
    | none => s.farAbort f
    | some pa =>
      let r := s.farReq f.port
      match f.op with
      | .read n =>
        (match s.readSectors r (fun s a => (some (a, 0, false), s)) pa n u with
          | (some bs, s) => s.farAnswer f true bs
          | (none, s) => s.farAnswer f false [])
      | .write bs =>
        (let w := s.writeSectors r (fun s a => (some (a, 0, false), s)) pa bs u
         w.2.farAnswer f w.1 [])
      | .rrd => (match s.readMain r 0 false pa 8 true u with
        | (some bs, s) => s.farAnswer f true bs
        | (none, s) => s.farAnswer f false [])
      | .rwait t => (match s.readMain r 0 false pa 8 true u with
        | (some _, s) => s.farCompare { port := f.port, tag := f.tag, pa := pa, target := t.toNat, due := none }
        | (none, s) => s.farAnswer f false [])
      | op => match farAtomic op with
        | some (i, n, v, b) => s.farModify f u pa i n v b
        | none => s

/-! ## Ports and routes (R409, R410) -/

/-- A port's bit of RL.PSTAT. -/
def State.setPort (s : State) (k : Nat) (up : Bool) : State := s.wwF (rpage 0xB010) k 1 (b2n up)

/-- The operations of core c whose accesses are in flight on port k. -/
def State.onPort (s : State) (c k : Nat) : List Op :=
  (s.core c).pipe.filter fun o => (s.core c).free_ o && o.pieces.any fun q => !q.done &&
    q.port == some k

/-- The bulk command of a chunk that uses a port that fails ends with BAD_ROUTE (R410). -/
def State.chunkLost (s : State) (k : Chunk) : State :=
  let s := { s with chunks := s.chunks.filter (· != k) }
  match (s.core k.core).head k.ch with
  | some q => if q.seq == k.seq && q.phase == 1 then s.complete k.core { q.ends ccROUTE with chunk := 0 } else s
  | none => s

/-- R410: port k (cursor i) fails: what is in flight on it is aborted, accesses, chunks, and collectives (R412). -/
def execPortFailure (s : State) : Out :=
  onItem s.cur.i 16 s fun s =>
    let k := s.cur.i
    let hit := s.cores.flatMap fun e => (s.onPort e.1 k).map fun o => (e.1, o)
    let s := hit.foldl (fun s e => s.failOp e.1 e.2 cDATA_ABORT) s
    let s := (s.chunks.filter fun x => x.ports.contains k).foldl State.chunkLost s
    let s := (s.setPort k false).collsLost
    { s with farWaits := s.farWaits.filter fun w => w.port != k }
/-- R409: port k (cursor i) is trained. -/
def execPortTrained (s : State) : Out :=
  onItem s.cur.i 16 s fun s => if s.powered then s.setPort s.cur.i true else s

/-- Every partition that owns a block of the aperture is in a clean state. -/
def State.aperClean (s : State) : Bool :=
  (upto s.aperFirst s.aperCount).all fun b => match (if b < 768 then s.ownerOf b else none) with | some p => s.clean p | none => true

/-- R409: root writes a Rootlink register at an offset of its page. -/
def execRootlinkRegWrite (off : Nat) (v : Word) (s : State) : Out :=
  .next <|
    match rootReg off with
    | none => s
    | some r =>
      if !s.aperClean then s.wwF (rpage 0xB000) 7 1 1
      else (s.ww (rpage off) (maskWrite (s.rw (rpage off)) v r.mask)).wwF (rpage 0xB000) 7 1 0

/-! ## Time (R415 to R417) -/

/-- R416: the time base takes a value. -/
def execTimeSetWrite (v : Word) (s : State) : Out := .next { s with time := v, frac := 0 }

/-- OFS saturates at 32 bits. -/
def satOfs (o : Int) : Int := max (-2147483648) (min 2147483647 o)
/-- TIME.STAT after a measurement. -/
def State.timeStat (s : State) (locked : Bool) (o : Int) : State :=
  s.ww (rpage 0xB818) (BitVec.ofNat 64 (b2n locked) ||| ((BitVec.ofInt 32 (satOfs o)).setWidth 64 <<< 32))

/-- A measurement corrects the time base (R417). -/
def State.measure (s : State) (o : Int) : State :=
  let near := decide (-1000 ≤ o ∧ o ≤ 1000)
  let s : State := { s.timeStat near o with timeMeas := s.wall, slew := if near || decide (o < 0) then o else 0 }
  if near || decide (o < 0) then s else { s with time := s.time + BitVec.ofInt 64 o }

/-- R417: while the time source is the PTM root of a link that is up, the device asks it every 10 ms (in wall cycles; log
entry 124). -/
def State.ptmStep (s : State) : State :=
  let src := s.rwF (rpage 0xB800) 0 2
  if (src = 1 ∨ src = 2) ∧ s.linkUp (src - 1) ∧ s.ptmDue ≤ s.wall then
    { s with ptmDue := s.wall + 19000000 }.send (.ptmRequest (src - 1))
  else s
/-- R417: a PTM dialogue on link j measures an offset. -/
def execPtmDialogue (j : Nat) (offset : Int) (s : State) : Out :=
  onItem j 2 s fun s => if s.linkUp j ∧ s.rwF (rpage 0xB800) 0 2 = j + 1 then s.measure offset else s
/-- R417: a PPS edge marks TIME.TOD. -/
def execPpsEdge (s : State) : Out :=
  .next (if s.powered ∧ s.rwF (rpage 0xB800) 0 2 = 3 then s.measure ((s.rw (rpage 0xB808) - s.time).toInt) else s)
/-- No measurement has come for 2 seconds (in wall cycles). -/
def State.timeLost (s : State) : Bool :=
  s.rwF (rpage 0xB800) 0 2 != 0 && !bitN (s.rw (rpage 0xB818)).toNat 1 && decide (s.timeMeas + 3800000000 ≤ s.wall)
/-- R417: the selected source is lost and the time base runs free. -/
def execHoldover (s : State) : Out := .next (if s.timeLost then { s.wwF (rpage 0xB818) 1 1 1 with slew := 0 } else s)

/-- A wall cycle of the time base: 10/19 ns, corrected by at most 1 ns in every 3,800 cycles (R9, R417). -/
def State.tickTime (s : State) : State :=
  let w := s.wall % 3800
  let add : Nat := if 0 < s.slew ∧ w = 0 then 29 else if s.slew < 0 ∧ w = 0 then 0 else if s.slew < 0 ∧ w = 1 then 1 else 10
  let slew := if 0 < s.slew ∧ w = 0 then s.slew - 1 else if s.slew < 0 ∧ w = 1 then s.slew + 1 else s.slew
  let f := s.frac + add
  { s with time := s.time + BitVec.ofNat 64 (f / 19), frac := f % 19, slew := slew }

end Sys2Proof.Machine
end

