-- ==== Sys2Proof/Machine/Ranger.lean ====
section
/-! DEFINITION. Power, reset, the Ranger, the identity mailbox and the management agents (R418 to R421, R432 to R437). -/
namespace Sys2Proof.Machine

open Sys2Proof

/-! ## Reset and power (R432 to R434, R436) -/

def bootReg : Nat := rpage 0xC018
/-- The power domains that a device reset begins with, and all of them (R433, R434). -/
def ioDomains : List PwrDomain := [.ranger, .io]
def allDomains : List PwrDomain := [.ranger, .io, .die0, .die1, .mem]

/-- The part after its registers, cores and memories are reset, with the domains that are powered: what is outside, the wall clock, the time
base and the Ranger's own data go on (R415, R418, R434). Launches and commands end with no completion (log entry 104). -/
def State.blank (s : State) (ds : List PwrDomain) (boot : Word) : State :=
  ({ State.reset with cur := s.cur, inputs := s.inputs, freeCtr := s.freeCtr, wall := s.wall, time := s.time, frac := s.frac
                      memCap := s.memCap, strikes := s.strikes, domains := ds, throtLow := s.throtLow, perst := s.perst, auth := s.auth, subs := s.subs
                      jobs := s.jobs, rangerLog := s.rangerLog, nextKey := s.nextKey, timeMeas := s.wall, pwrMeasAt := s.wall, measDue := s.wall
                      alertAt := s.alertAt, jx9p := s.jx9p, out := s.out } : State).ww bootReg boot

/-- R434: the reset sequence begins: IO is powered, BOOT.STAT is 0, and a free time passes. ok says whether the firmware will verify
(R421). Log entry 68. -/
def State.deviceReset (s : State) (ok : Bool) : State :=
  let (d, s) := s.freeTime
  { s.blank ioDomains 0 with boot := some (s.wall + d, ok) }
/-- The reset sequence ends: every domain is powered, READY is 1 and RESET_DONE is posted; or the firmware did not verify and the device is in
recovery (R421, R434). -/
def State.booted (s : State) (ok : Bool) : State :=
  let s : State := { s with boot := none }
  if ok then (({ s with domains := allDomains } : State).ww bootReg 1).pmqHw none 7 0x10 else (s.ww bootReg 2).announce 2 (bytesLE 8 2)

/-- Core c is at rest: bound to no launch and with nothing in flight. -/
def State.idleCore (s : State) (c : Nat) : Bool := let k := s.core c; k.run == .free && k.allCmds.isEmpty
/-- The cores of a die take their reset values, and its L2 writes back what it holds and is empty (R433). Main memory keeps its contents. -/
def State.wipeDie (s : State) (d : Nat) : State :=
  let s := (s.l2.filter fun l => wuDie l.wu == d).foldl (fun s l => s.evict l) s
  { s with cores := s.cores.filter fun e => dieOf e.1 != d, dieNext := s.dieNext.filter (· != d) }
/-- What the resets that are under way come to in a wall cycle: a die is reset once its cores are at rest, the reset sequence begins once the
partitions are reset, and ends in its time. -/
def State.settleBoot (s : State) : State :=
  let s := (s.dieNext.filter fun d => (upto (64 * d) 64).all s.idleCore).foldl State.wipeDie s
  let s := match s.resetNext with
    | some ok => if s.fnKill.isEmpty && s.fnReset.isEmpty then s.deviceReset ok else s
    | none => s
  match s.boot with
  | some (d, ok) => if d ≤ s.wall then s.booted ok else s
  | none => s

/-- R436: RESET_N has been low for at least 1 ms. -/
def execResetN (ok : Bool) (s : State) : Out := .next (if s.powered then s.deviceReset ok else s)

/-- The Ranger has lost its power: what it held of its endpoints is gone, and with it every domain is unpowered (R420, R433). -/
def State.rangerLost (s : State) : State := { s.blank [] 0 with auth := [], subs := [], jobs := [] }
/-- The Ranger logs POWER_INPUT and reports it (R432). -/
def State.powerInput (s : State) (mv : Nat) (out : Bool) : State :=
  { s with rangerLog := s.rangerLog ++ [(mv, out)] }.announce 3 (bytesLE 4 mv ++ [if out then 1 else 0])
/-- The input is outside its range: everything but the Ranger is held in reset, and below 36 V the Ranger has no power either (R432). -/
def State.inputLost (s : State) (mv : Nat) : State :=
  if mv < 36000 then (if s.domains.isEmpty then s else s.rangerLost)
  else if s.powered then (s.blank [.ranger] 0).powerInput mv true else s
/-- R432: the input (cursor i, in mV) has been out of range for more than 1 ms. -/
def execPowerInputOutOfRange (s : State) : Out := .next (s.inputLost s.cur.i)
/-- R436: the power-good signal of a domain (cursor j: IO, DIE0, DIE1, MEM) falls while it is powered; cursor i is the input voltage in mV. -/
def execPwrgdFall (s : State) : Out :=
  onItem s.cur.j 4 s fun s => if s.domains.contains ([PwrDomain.io, .die0, .die1, .mem].getD s.cur.j .io) then s.inputLost s.cur.i else s
/-- R432: the input has been in range for 100 ms: the Ranger is powered, and the reset sequence runs. -/
def execPowerInputRestored (mv : Nat) (ok : Bool) (s : State) : Out :=
  .next (if s.powered then s else (({ s with domains := [.ranger] } : State).powerInput mv false).deviceReset ok)

/-! ## The throttle (R435, R437) -/

def measReg : Nat := rpage 0xC030
/-- The carrier's measurements have stopped for 1 ms (R437). -/
def State.measLost (s : State) : Bool := bitN (s.rw measReg).toNat 12 && decide (s.pwrMeasAt + 1900000 ≤ s.wall)
/-- A level at least 12 where the pin or a missing measurement asks for it. -/
def State.forced (s : State) (l : Nat) : Nat := if s.throtLow || s.measLost then max 12 l else l

/-- The floors that root has written, which take effect at a measurement (R435). -/
def State.rootFloors (s : State) : Sparse Nat :=
  State.parts.foldl (fun m p => Sparse.set 0 m p (s.rwF (rpage (0xC100 + 8 * p)) 0 4)) []

/-- R435: THROT_N changes. It counts at the next measurement. -/
def execThrotN (low : Bool) (s : State) : Out := .next { s with throtLow := low }

/-- The power limit in W: PWR.CTL.LIMIT, which cannot raise the module's 2,800 (R432, R435). -/
def State.limit (s : State) : Nat := min (s.rwF (rpage 0xC000) 0 12) 2800
/-- The smallest level that keeps the expected power within the limit; 15 where none does (DESIGN CHOICE, log entry 123). -/
def State.levelFor (s : State) (draw : Nat) (floors : Sparse Nat) : Nat :=
  ((List.range 16).find? fun l => decide (Config.powerAt s.freeCtr draw floors l ≤ s.limit)).getD 15

/-- R435: the power controller measures and sets the device level: the smallest that, with the floors in force, keeps the power within the limit. What
the module's own sensor measures, and the power to expect at a level, are free. -/
def execPowerMeasurement (s : State) : Out :=
  .next <|
    if !s.live then s
    else
      let (p, s) := s.pick 4096
      let w := s.rw measReg
      let draw := if bitN w.toNat 12 then getF w 0 12 else p
      { s.tickFree with lastMeas := draw, level := s.forced (s.levelFor draw s.rootFloors), measDue := s.wall + 19000, floors := s.rootFloors }

/-- R437: the carrier writes PWR.MEAS. V reads 0 on a part whose module measures for itself. -/
def execPwrMeasWrite (v : Word) (s : State) : Out :=
  .next ({ s with pwrMeasAt := s.wall } |>.ww measReg (v &&& (if s.jx9p then 0x1FFF else 0xFFF)))
/-- R437: no measurement has come for 1 ms. -/
def execPwrMeasTimeout (s : State) : Out := .next (if s.measLost then { s with level := max 12 s.level } else s)

/-- PWR.SWAL counts the pulses swallowed at the device level. -/
def State.countSwallowed (s : State) : State :=
  if s.pulse < s.level then s.ww (rpage 0xC010) (addSat (s.rw (rpage 0xC010)) 1) else s

/-! ## Actions (R418, R420, R437) -/

def stOK : Nat := 0
def stDENIED : Nat := 1
def stBAD_CMD : Nat := 2
def stBAD_TARGET : Nat := 3
def stBAD_VERSION : Nat := 4
def stBUSY : Nat := 5
def stUNPOWERED : Nat := 6
def stBOOT_FAIL : Nat := 7
def stFAILED : Nat := 8

/-- The codes of the acting commands. -/
def codeSTOP : Nat := 0x10
def codeSAVE : Nat := 0x11
def codeRESET : Nat := 0x12
def codeQUARANTINE : Nat := 0x13

/-- The target exists and the command takes its scope. -/
def targetOk (code scope target : Nat) : Bool :=
  match scope with
  | 0 => decide (target < 128)
  | 1 => code != codeQUARANTINE && decide (target < 16)
  | 2 => code != codeQUARANTINE && decide (target < 2)
  | 3 => code == codeRESET && target == 0
  | _ => false
/-- A target that exists, for a command that takes any scope (R419, R420). -/
def targetExists (scope target : Nat) : Bool :=
  match scope with | 0 => decide (target < 128) | 1 => decide (target < 16) | 2 => decide (target < 2) | 3 => target == 0 | _ => false

/-- The domains that a target lies in (R420, R433): a device reset powers the others itself. -/
def targetDomains (scope target : Nat) : List PwrDomain :=
  match scope with
  | 0 => [if target < 64 then .die0 else .die1]
  | 2 => [if target = 0 then .die0 else .die1]
  | 3 => [.io]
  | _ => [.die0, .die1]

/-- The cores of a target. -/
def State.targetCores (s : State) (scope target : Nat) : List Nat :=
  match scope with
  | 0 => [target]
  | 1 => allCores.filter fun c => (s.coresOf target).contains c || ((s.core c).run != .free && (s.core c).part == target)
  | 2 => upto (64 * target) 64
  | _ => allCores

/-- Enabled partitions with a core on a die. -/
def State.partsOn (s : State) (die : Nat) : List Nat :=
  State.parts.filter fun p => s.partEN p && (upto (64 * die) 64).any fun c => s.partCore p c || (s.partSliced p && s.poolCore c)
/-- The partitions that a reset of a target resets. -/
def State.targetParts (s : State) (scope target : Nat) : List Nat :=
  match scope with | 1 => [target] | 2 => s.partsOn target | 3 => State.parts.filter s.partEN | _ => []

/-- A command on a target is still under way. -/
def State.jobOn (s : State) (cores parts : List Nat) : Bool :=
  s.jobs.any fun j => j.cores.any cores.contains || j.parts.any parts.contains

/-- Stop the cores of a list that run, urgently, for the Ranger (R351). -/
def State.stopCores (s : State) (cores : List Nat) : State :=
  cores.foldl (fun s c => s.modCore c fun k =>
    if k.run = .running ∨ k.run = .ended then { k with ext := k.ext ++ [0x8C] } else k) s

/-- Kill the launches that have a core in a list. -/
def State.killOn (s : State) (cores : List Nat) : State :=
  let keys := (s.launches.filter fun l => l.cores.any cores.contains).map fun l => l.parent.getD l.key
  keys.foldl State.killLaunch s

/-- A core reset clears the core's replay counters (R378, R418). -/
def State.resetCore (s : State) (c : Nat) : State :=
  (s.killOn [c]).modCore c fun k => { k with sr := k.sr.filter fun e => !decide (0x144 ≤ e.1 ∧ e.1 < 0x150) }

/-- Begin an action; arg is QUARANTINE's choice, ok the firmware's verification in a device reset. -/
def State.act (s : State) (code scope target arg : Nat) (ok : Bool) : State :=
  if code = codeSTOP ∨ code = codeSAVE then s.stopCores (s.targetCores scope target)
  else if code = codeRESET then
    match scope with
    | 0 => s.resetCore target
    | 1 => if s.partEN target && !s.resetting then s.partReset target else s
    | 2 =>
      let ps := s.partsOn target
      let s := ps.foldl State.partReset ((s.blind ps).killOn (upto (64 * target) 64))
      { s with dieNext := target :: s.dieNext.filter (· != target) }
    | _ => { (State.parts.filter s.partEN).foldl State.partReset s with resetNext := some ok }.settleBoot
  else
    let m := target / 64
    let w := s.rw (rpage (0x9800 + 8 * m))
    s.quarantine m (setF w (target % 64) 1 arg)

/-- Whether an action has finished, and how (R420). A reset has failed where the firmware does not verify, or the power is lost. -/
def State.jobDone (s : State) (j : Job) : Option Nat :=
  let pending := j.wait.any fun c => (s.core c).ext.contains 0x8C
  if j.code = codeSTOP then (if pending then none else some stOK)
  else if j.code = codeSAVE then
    (if pending then none
     else if j.wait.any fun c => (match (s.core c).run with | .saving _ n => n == 0 | _ => false) then none
     else if j.wait.any fun c => (match (s.core c).run with | .saving _ _ => true | _ => false) then some stFAILED
     else some stOK)
  else if j.code = codeRESET then
    (if s.resetting || j.parts.any (fun p => s.fnReset.contains p || s.fnKill.contains p) || (j.scope == 2 && s.dieNext.contains j.target)
        || j.wait.any (fun c => (s.core c).run == .ended) then none
     else if s.recovery || !s.powered then some stFAILED else some stOK)
  else some stOK

/-- The answer to a command goes out: the requester's response, or MGMT.CMD (R419, R437). A response carries the SCOPE and TARGET of its
request (DESIGN CHOICE, log entry 120). -/
def State.tell (s : State) (ep : Option Nat) (code tag scope target st : Nat) (data : List Byte) : State :=
  match ep with
  | some ep => s.send (.ranger (rangerMsg ep (code + 0x80) tag scope target (BitVec.ofNat 8 st :: data)))
  | none => s.ww (rpage 0xC028) (setF (setF (s.rw (rpage 0xC028)) 12 1 0) 16 4 st)
/-- The requester has an earlier command without an answer. -/
def State.owed (s : State) (ep : Option Nat) : Bool := s.jobs.any fun j => j.ep == ep
/-- Answer a command; the answers to one requester go out in the order of its requests (R419). -/
def State.answer (s : State) (ep : Option Nat) (code tag scope target st : Nat) (data : List Byte) : State :=
  if s.owed ep then
    { s with jobs := s.jobs ++ [{ ep := ep, code := code, tag := tag, scope := scope, target := target, cores := [], parts := []
                                  said := some (st, data) }] }
  else s.tell ep code tag scope target st data

/-- A command that has finished is over: its target is free again, and its status waits to be told. -/
def State.finishJob (s : State) (j : Job) : State :=
  match j.said, s.jobDone j with
  | none, some st =>
    let s : State := { s with jobs := s.jobs.map fun k => if k = j then { k with cores := [], parts := [], said := some (st, []) } else k }
    if j.code = codeRESET ∧ st = stOK then s.announce 4 [BitVec.ofNat 8 j.scope, BitVec.ofNat 8 j.target] else s
  | _, _ => s
/-- Tell the status of a command that is over, unless its requester has an earlier one without an answer (R419). -/
def State.tellJob (s : State) (j : Job) : State :=
  match j.said with
  | some (st, data) =>
    if (s.jobs.takeWhile (· != j)).any fun k => k.ep == j.ep then s
    else { s with jobs := s.jobs.erase j }.tell j.ep j.code j.tag j.scope j.target st data
  | none => s
/-- Answer the commands that have finished. -/
def State.settleJobs (s : State) : State :=
  let s := s.jobs.foldl State.finishJob s
  s.jobs.foldl State.tellJob s

/-- An acting command, its requester's rights apart: it is refused, or begins. A reset of a partition that comes while a device reset runs is
absorbed in it, and is over when it is (R434). -/
def State.begin_ (s : State) (ep : Option Nat) (code tag scope target arg : Nat) (ok : Bool) : State :=
  let refuse (st : Nat) : State := s.answer ep code tag scope target st []
  let absorbed := code == codeRESET && scope == 1 && s.resetting
  if s.recovery then refuse stBOOT_FAIL
  else if !targetOk code scope target then refuse stBAD_TARGET
  else if !absorbed && !(targetDomains scope target).all s.domains.contains then refuse stUNPOWERED
  else
    let cores := s.targetCores scope target
    let parts := s.targetParts scope target
    if !absorbed && s.jobOn cores parts then refuse stBUSY
    else
      let j : Job := { ep := ep, code := code, tag := tag, scope := scope, target := target, cores := cores
                       wait := cores.filter fun c => (s.core c).run != .free, parts := if code = codeRESET then parts else [] }
      let s := (s.act code scope target arg ok)
      ({ s with jobs := s.jobs ++ [j] } : State).settleJobs

/-! ## Requests to the Ranger (R418 to R420) -/

/-- The codes that R420 lists. -/
def rangerCodes : List Nat := [0x01, 0x02, 0x03, 0x10, 0x11, 0x12, 0x13]
/-- The code of a request: the row's, or one that no row has. -/
def reqCode (r : RangerReq) (row : Nat) : Nat :=
  match r.other with | some c => if rangerCodes.contains c.toNat then row else c.toNat | none => row

/-- A request's own checks: none for one that is discarded, a status for one that is refused. A LEN that is not that of the payload is refused as
one that the command does not take (DESIGN CHOICE, log entry 120). -/
def reqCheck (r : RangerReq) (row len : Nat) (anyVendor : Bool) : Option Nat :=
  if r.short || (!(anyVendor && reqCode r row == row) && r.vendor != Config.rangerVendor) then none
  else if r.ver ≠ 1 then some stBAD_VERSION
  else if reqCode r row ≠ row then some stBAD_CMD
  else if 3 < r.scope.toNat then some stBAD_TARGET
  else if r.payload.length ≠ len ∨ r.len.toNat ≠ len then some stBAD_CMD
  else some stOK

/-- Answer a request of a row. -/
def State.reply (s : State) (r : RangerReq) (row st : Nat) (data : List Byte) : State :=
  s.answer (some r.ep) (reqCode r row) r.tag.toNat r.scope.toNat r.target.toNat st data
/-- Answer a request, or go on with it; an unpowered Ranger does neither (R433). -/
def State.request_ (s : State) (r : RangerReq) (row len : Nat) (anyVendor : Bool) (go : State → State) : State :=
  if !s.domains.contains .ranger then s
  else match reqCheck r row len anyVendor with
  | none => s
  | some st => if st = stOK then go s else s.reply r row st []
/-- The same for a command that acts (R418). -/
def State.acting (s : State) (r : RangerReq) (row len : Nat) : State :=
  s.request_ r row len false fun s =>
    if !s.auth.contains r.ep then s.reply r row stDENIED []
    else
      let arg := (r.payload.getD 0 0).toNat
      if row = codeQUARANTINE ∧ 1 < arg then s.reply r row stBAD_CMD []
      else s.begin_ (some r.ep) row r.tag.toNat r.scope.toNat r.target.toNat arg (s.cur.j != 1)

/-- R420: GET_ID. -/
def execGetId (r : RangerReq) (s : State) : Out :=
  .next <| s.request_ r 0x01 0 true fun s =>
    if !targetExists r.scope.toNat r.target.toNat then s.reply r 0x01 stBAD_TARGET []
    else s.reply r 0x01 stOK (wordBytes [winRead s (rpage 0xC020), s.rw bootReg])

/-- Entry idx of one of root's logs, as the Ranger reads it. -/
def State.readLog (s : State) (reg idx : Nat) : Except Nat (List Byte) × State :=
  let w := s.rw reg
  let base := getF w 3 45 * 8
  if !s.live then (.error stUNPOWERED, s)
  else if base = 0 then (.error stFAILED, s)
  else match s.agentRead none (base + 8 + 32 * (idx % 2 ^ getF w 48 4)) 32 with
    | (some bs, s) => (.ok bs, s)
    | (none, s) => (.error stFAILED, s)
/-- The data of a READ: its selection, index, scope and target; a status where there are none. -/
def State.readData (s : State) (sel idx scope target : Nat) : Except Nat (List Byte) × State :=
  let ofCore (f : Core → List Byte) : Except Nat (List Byte) × State :=
    if scope ≠ 0 ∨ 128 ≤ target then (.error stBAD_TARGET, s)
    else if !s.live then (.error stUNPOWERED, s) else (.ok (f (s.core target)), s)
  let ofDevice (d : Except Nat (List Byte) × State) : Except Nat (List Byte) × State :=
    if scope = 3 ∧ target = 0 then d else (.error stBAD_TARGET, s)
  match sel with
  | 0 => ofDevice (s.readLog (rpage 0xA000) idx)
  | 1 => ofDevice (s.readLog (rpage 0xA008) idx)
  | 2 => ofDevice (s.readLog (rpage 0xA010) idx)
  | 3 => ofCore fun _ => wordBytes [s.rw (marginReg target)]
  | 4 => ofCore fun k => wordBytes ((upto 0x144 12).map k.rsr)
  | 5 => ofDevice (.ok (wordBytes [winRead s (rpage 0xC008), s.rw (rpage 0xC010)]), s)
  | 6 => ofDevice (.ok (bytesLE 2 (Config.telemetry (3 * s.freeCtr)).toNat ++ bytesLE 2 (Config.telemetry (3 * s.freeCtr + 1)).toNat), s)
  | 7 => ofDevice (.ok (bytesLE 4 (Config.telemetry (3 * s.freeCtr + 2)).toNat), s)
  | _ => (.error stBAD_CMD, s)

/-- R420: READ. -/
def execRead (r : RangerReq) (s : State) : Out :=
  .next <| s.request_ r 0x02 8 false fun s =>
    match s.readData (r.payload.getD 0 0).toNat (natLE (r.payload.drop 4)) r.scope.toNat r.target.toNat with
    | (.ok d, s) => s.tickFree.reply r 0x02 stOK d
    | (.error st, s) => s.reply r 0x02 st []

/-- R420: SUBSCRIBE. -/
def execSubscribe (r : RangerReq) (s : State) : Out :=
  .next <| s.request_ r 0x03 1 false fun s =>
    if s.recovery then s.reply r 0x03 stBOOT_FAIL []
    else if !targetExists r.scope.toNat r.target.toNat then s.reply r 0x03 stBAD_TARGET []
    else ({ s with subs := (r.ep, (r.payload.getD 0 0).toNat) :: s.subs.filter fun e => e.1 != r.ep } : State).reply r 0x03 stOK []

/-- R418: STOP. -/
def execStop (r : RangerReq) (s : State) : Out := .next (s.acting r codeSTOP 0)
/-- R418: SAVE. -/
def execSave (r : RangerReq) (s : State) : Out := .next (s.acting r codeSAVE 0)
/-- R418: RESET. Cursor j = 1: the firmware does not verify in a device reset. -/
def execReset (r : RangerReq) (s : State) : Out := .next (s.acting r codeRESET 0)
/-- R418: QUARANTINE. -/
def execQuarantine (r : RangerReq) (s : State) : Out := .next (s.acting r codeQUARANTINE 1)

/-- R418: an endpoint (cursor i) has authenticated. -/
def execRangerAuthentication (s : State) : Out :=
  .next (if s.auth.contains s.cur.i || !s.domains.contains .ranger then s else { s with auth := s.cur.i :: s.auth })
/-- R420, R433: the Ranger's supply is lost, and with it every other domain's. -/
def execRangerSupplyLost (s : State) : Out := .next s.rangerLost

/-! ## The management agents (R437) -/

/-- The register at an offset of the root page lies in the IO domain, which is powered in recovery too. -/
def ioReg (o : Nat) : Bool := decide (0xB000 ≤ o)
/-- The status of an agent's access: BAD_OFFSET, UNPOWERED or OK (R433). -/
def State.agentStatus (s : State) (o : Nat) : Nat :=
  if (rootReg o).isNone then 2
  else if (if ioReg o then [PwrDomain.io] else [.io, .die0, .die1, .mem]).all s.domains.contains then 0 else 1

/-- The counter word of a log of root's, at the start of the log in memory (R362); 0 where none is set up. -/
def State.logWord (s : State) (o : Nat) : Nat :=
  let a := s.rwF (rpage o) 3 45 * 8
  if a = 0 then 0 else s.gran false a

/-- R437: an agent (cursor i its die) reads the register at an offset (cursor j). -/
def execAgentRegisterRead (s : State) : Out :=
  onItem s.cur.i 2 s fun s =>
    let d := s.cur.i
    let o := s.cur.j
    let st := s.agentStatus o
    let s := s.send (.agent d st (if st = 0 then winRead s (rpage o) else 0))
    if st = 0 ∧ (o = 0xA000 ∨ o = 0xA008) then
      { s with alertAt := Sparse.set 0 s.alertAt (2 * d + (if o = 0xA000 then 0 else 1)) (s.logWord o) }
    else s

/-- ALERT_N of a die is low: the counter of a log differs from the value last read through the die's agent. -/
def State.alertLow (s : State) (d : Nat) : Bool :=
  Sparse.get 0 s.alertAt (2 * d) != s.logWord 0xA000 || Sparse.get 0 s.alertAt (2 * d + 1) != s.logWord 0xA008

/-- The event of an operation of MGMT.CMD. -/
def mgmtEvent : Nat → Option Instr
  | 1 => some .mgmtStop | 2 => some .mgmtSave | 3 => some .mgmtReset | 4 => some .mgmtQuarantineSet | 5 => some .mgmtQuarantineClear
  | _ => none

/-- A write of MGMT.CMD through an agent. -/
def State.mgmtWrite (s : State) (v : Word) : State :=
  let o := rpage 0xC028
  let old := s.rw o
  if bitN old.toNat 12 then s.ww o (setF old 16 4 stBUSY)
  else
    let w := maskWrite old v 0xFFF
    match mgmtEvent (getF v 0 3) with
    | none => s.ww o w
    | some i => { s.ww o (setF w 12 1 1) with turn := { cur := {}, act := i } :: s.turn }

/-- R437: an agent writes a register of the root page, at root level. -/
def execAgentRegisterWrite (die off : Nat) (v : Word) (s : State) : Out :=
  onItem die 2 s fun s =>
    if s.agentStatus off ≠ 0 then s
    else if off = 0xC028 then s.mgmtWrite v
    else if off = 0xC030 then { s with turn := { cur := {}, act := .pwrMeasWrite v } :: s.turn }
    else
      let w := winWrite (rpage off) .root v
      { s with turn := { cur := w.1, act := w.2 } :: s.turn }

/-- The action that MGMT.CMD started. -/
def State.mgmt (s : State) (op code arg : Nat) : State :=
  let w := s.rw (rpage 0xC028)
  if bitN w.toNat 12 ∧ getF w 0 3 = op then s.begin_ none code 0 (getF w 3 2) (getF w 5 7) arg (s.cur.j != 1) else s
/-- R437: MGMT.CMD with OP 1. -/
def execMgmtStop (s : State) : Out := .next (s.mgmt 1 codeSTOP 0)
/-- R437: OP 2. -/
def execMgmtSave (s : State) : Out := .next (s.mgmt 2 codeSAVE 0)
/-- R437: OP 3. -/
def execMgmtReset (s : State) : Out := .next (s.mgmt 3 codeRESET 0)
/-- R437: OP 4. -/
def execMgmtQuarantineSet (s : State) : Out := .next (s.mgmt 4 codeQUARANTINE 1)
/-- R437: OP 5. -/
def execMgmtQuarantineClear (s : State) : Out := .next (s.mgmt 5 codeQUARANTINE 0)

/-! ## Identity (R421) -/

/-- The mailbox of the PF of a link (cursor i) answers, in recovery only where inRecovery says so. Log entry 17 names the codes. -/
def State.doe (s : State) (inRecovery : Bool) (kind : Nat) (data : List Byte) : State :=
  if s.linkUp s.cur.i ∧ (inRecovery || !s.recovery) then s.send (.doe kind data) else s
/-- R421: GET_VERSION: 1.3. -/
def execGetVersion (s : State) : Out := onItem s.cur.i 2 s fun s => s.doe true 0x04 [0x13]
/-- R421: GET_CAPABILITIES: CERT, CHAL and MEAS. -/
def execGetCapabilities (s : State) : Out := onItem s.cur.i 2 s fun s => s.doe false 0x61 (bytesLE 4 0x16)
/-- R421: NEGOTIATE_ALGORITHMS: SM2_P256 and SM3_256. -/
def execNegotiateAlgorithms (s : State) : Out := onItem s.cur.i 2 s fun s => s.doe false 0x63 (bytesLE 4 0x200 ++ bytesLE 4 0x40)
/-- R421: GET_DIGESTS: slot 0. -/
def execGetDigests (s : State) : Out := onItem s.cur.i 2 s fun s => s.doe false 0x01 (Sm3.digest Config.certChain)
/-- R421: GET_CERTIFICATE of slot 0; of another slot (cursor j), an error. -/
def execGetCertificate (s : State) : Out :=
  onItem s.cur.i 2 s fun s => if s.cur.j = 0 then s.doe false 0x02 Config.certChain else s.doe false 0x7F [1]
/-- R421: CHALLENGE of slot 0, signed with the identity key; another slot is an error. -/
def execChallenge (slot : Nat) (nonce : BitVec 256) (s : State) : Out :=
  onItem s.cur.i 2 s fun s => if slot = 0 then s.doe false 0x03 (Config.sign (bytesLE 32 nonce.toNat)) else s.doe false 0x7F [1]
/-- R421: GET_MEASUREMENTS: indices 1 to 3. -/
def execGetMeasurements (s : State) : Out :=
  onItem s.cur.i 2 s fun s => s.doe true 0x60 ([1, 2, 3].flatMap Config.measurement)

end Sys2Proof.Machine
end

