-- ==== Sys2Proof/Machine/Plan.lean ====
section
/-! DEFINITION. The wall cycle (R3, R4, R9, R10): which happenings it brings, in the order in which they are taken. What is due by a time is
planned when the time has come; what the manual leaves to chance is planned by a free choice. A happening that is not enabled when its
turn comes changes nothing. -/
namespace Sys2Proof.Machine

open Sys2Proof

/-- An event of core c about item i. -/
def ev (c i : Nat) (a : Instr) : Happening := { cur := { core := c, i := i }, act := a }
/-- An event about items i and j. -/
def evIJ (i j : Nat) (a : Instr) : Happening := { cur := { i := i, j := j }, act := a }
/-- Plan an event where a condition holds. -/
def when (b : Bool) (h : Happening) : List Happening := if b then [h] else []

/-! ## Accesses that are due -/

/-- The access is in a grove window. -/
def Op.inGrove (o : Op) : Bool := match o.form with | some f => f.sp == .grv | none => false

/-- The events of an access in glb or clr whose parts have come to their home. -/
def State.performs (s : State) (c : Nat) (o : Op) (f : Form) : List Happening × State :=
  let ks := o.arrived s.wall (s.core c).sched
  match ks with
  | [] => (when (o.pieces.isEmpty && f.acc == .line) (ev c o.id (.storePerforms .none)), s)
  | _ => match f.acc with
    | .store | .line => (ks.map fun _ => ev c o.id (.storePerforms .none), s)
    | .atomic => ([ev c o.id (.atomicPerforms .none)], s)
    | .queue => ([ev c o.id (.qldFill .none)], s)
    | _ => let (ks, s) := s.arrivals o f ks; (ks.map fun k => ev c o.id (.elasticDataArrives (some k) .none), s)

/-- The events of one operation in flight. -/
def State.opEvents (s : State) (c : Nat) (o : Op) : List Happening × State :=
  if o.fault then ([], s)
  else match o.phase with
  | .walk d => (when (decide (d ≤ s.wall)) (ev c o.id .translationWalkDone), s)
  | .recheck d => (when (decide (d ≤ s.wall) && o.elastic) (ev c o.id .ringWaitRecheck), s)
  | .fly => (match o.form with
    | some f => s.performs c o f
    | none => (when ((s.core c).waitHolds o) (ev c o.id .copyWaitSatisfied), s))
  | .arrived =>
    (if o.isCommand && o.progress == 0 then
      [match o.act with | some (.red _) => ev c o.id .reductionAccept | _ => ev c o.id (.elasticDataArrives none .none)] else [], s)
  | _ => ([], s)

/-- Gather the events that f gives for each of a list, in order. -/
def gather {α : Type} (f : State → α → List Happening × State) (l : List α) (s : State) : List Happening × State :=
  l.foldl (fun (st : List Happening × State) x => let (h, s) := f st.2 x; (st.1 ++ h, s)) ([], s)

/-- The accesses of core c outside grove windows. -/
def State.coreAccesses (s : State) (c : Nat) : List Happening × State :=
  gather (fun s o => s.opEvents c o) ((s.core c).pipe.filter fun o => !o.inGrove) s

/-- Part k of a grove access of core c, at window w. -/
structure GrvPart where
  c : Nat
  o : Op
  k : Nat
  w : Nat
deriving DecidableEq, Repr

/-- The event of such a part. -/
def GrvPart.event (p : GrvPart) : Happening :=
  match p.o.form with
  | some f => match f.acc with
    | .store => { cur := { core := p.c, i := p.o.id, j := p.k + 1 }, act := .storePerforms .none }
    | .queue => { cur := { core := p.c, i := p.o.id, j := p.k + 1 }, act := .qldFill .none }
    | _ => ev p.c p.o.id (.elasticDataArrives (some p.k) .none)
  | none => ev p.c p.o.id (.storePerforms .none)

/-- The parts of grove accesses that have come to their windows, in the order of the cores. -/
def State.grvParts (s : State) : List GrvPart :=
  s.cores.flatMap fun e => (e.2.pipe.filter fun o => o.inGrove && o.phase == .fly && !o.fault).flatMap fun o =>
    (o.arrived s.wall e.2.sched).filterMap fun k => match (o.pieces[k]?).map Piece.home with
      | some (Home.grv w) => some { c := e.1, o := o, k := k, w := w }
      | _ => none

/-- The grove accesses of all cores in the round-robin order of each window's port (R157): by the distance of the source's position from
the position served last; among the eight grants of a whole register those of other sources may come (DESIGN CHOICE, log entry 110). -/
def State.groveAccesses (s : State) : List Happening :=
  (List.range 8).flatMap fun r => (s.grvParts.filter fun p => (posOf p.c + 7 - (s.core p.w).rport) % 8 == r).map GrvPart.event

/-- The windows that the copy command of core c at the head of channel ch is to use next, each with whether it writes (R128, R157). -/
def State.copyWants (s : State) (c ch : Nat) : List (Nat × Bool) :=
  match (s.core c).head ch with
  | none => []
  | some q =>
    if q.phase != 1 || q.paused || q.pauseCause != 0 || q.win.isSome || decide (s.wall < q.due) || q.bulk then []
    else
      let (e, o, _) := q.place q.progress
      let a := q.addrs e o (q.idx.getD 0)
      let win (sp : Space) (x : Nat) (write : Bool) : List (Nat × Bool) :=
        if sp = .grv then (match (s.spot c q .grv x 1 write).1 with | .win k _ => [(k, write)] | _ => []) else []
      (if q.kind = 2 && q.idx.isNone then [] else win q.m.ssp a.2 false) ++ win q.m.dsp a.1 true
/-- Every request of a copy command for a grove window: core, window, write. -/
def State.copyRequests (s : State) : List (Nat × Nat × Bool) :=
  s.cores.flatMap fun e => if e.2.chans.isEmpty then [] else (List.range 16).flatMap fun ch => (s.copyWants e.1 ch).map fun w => (e.1, w)

/-- The distance of a position from the one that a window's port served last (R157). -/
def State.portDistance (s : State) (w p : Nat) : Nat := (p + 7 - (s.core w).rport) % 8
/-- A part of an access is a write. -/
def GrvPart.writes (p : GrvPart) : Bool := match p.o.form with | some f => f.acc == .store | none => false

/-- The ports whose next grant in the round-robin is a copy command's hold it for the command, whose bytes move at the end of the cycle
(R130, R157). -/
def State.grantCopies (s : State) : State :=
  let parts := s.grvParts
  let reqs := s.copyRequests
  reqs.foldl (fun s r =>
    let (c, w, write) := r
    let d := s.portDistance w (posOf c)
    let beaten := (parts.any fun p => p.w == w && p.writes == write && decide (s.portDistance w (posOf p.c) ≤ d)) ||
      (reqs.any fun x => x.2.1 == w && x.2.2 == write && decide (s.portDistance w (posOf x.1) < d))
    if beaten then s
    else match s.grantAt w (posOf c) write with
    | none => s
    | some s => s.modCore w fun k => { k with rportHeld := Sparse.set 0 k.rportHeld (b2n write) (posOf c + 1) }) s

/-! ## Cores -/

/-- The schedule cycle of a core, if it has one. -/
def Core.cycles (c : Core) : Bool :=
  c.run == .running || (c.run == .ended && (!(c.pipe.isEmpty && c.ext.isEmpty) || c.ports.any fun p => decide (c.sched ≤ p.2.1))) || !c.rwrite.isEmpty

/-- An instruction prefetch of core c is to bring a line: no demand request is made for it (R247, R373). -/
def Core.brings (c : Core) (line : Nat) : Bool :=
  c.pipe.any fun o => (match o.act with | some (.ipref _) => true | _ => false) && o.va / 128 == line
/-- The first bundle of a launch that waited for a time is to issue within 1,000 ns of it (R342): its line comes in by then. Log entry 93. -/
def State.hurries (s : State) (c : Nat) : Bool :=
  match s.launchOf c with
  | some l => l.kind == 1 && !l.late && (s.core c).sched == 0 && decide (l.start ≤ l.w 9 + 500 ∧ l.w 9 + 900 ≤ s.time.toNat)
  | none => false

/-- The fill of the line that core c waits for comes at a free time. -/
def State.fills (s : State) (c : Nat) : List Happening × State :=
  match (s.core c).fetchWait with
  | some l =>
    if (s.core c).brings l then ([], s)
    else if s.hurries c then ([ev c 0 (.lineFill l .none)], s)
    else (let (b, s) := s.coin; (when b (ev c 0 (.lineFill l .none)), s))
  | none => ([], s)
/-- The save engine finishes with core c at a free time. -/
def State.saves (s : State) (c : Nat) : List Happening × State :=
  match (s.core c).run with
  | .saving form 0 => if form = 2 ∨ (s.core c).quiet then (let (b, s) := s.coin; (when b (ev c 0 .contextSaveDone), s)) else ([], s)
  | _ => ([], s)

/-- The events of the timers and engines of a core. -/
def State.coreTimers (s : State) (c : Nat) : List Happening × State :=
  let k := s.core c
  let fixed :=
    when (bitN (s.rw (marginReg c)).toNat 8 && decide (k.marginDue ≤ s.wall)) (ev c 0 .marginSettled) ++
    when (decide (s.windowEnd c ≤ s.time.toNat)) (ev c 0 .replayWindow) ++
    when (s.escalates c) (ev c 0 .timingEscalation) ++
    when (s.barks c) (ev c 0 .watchdog) ++
    when (k.wmStop == 0x8B && decide (getF (s.rw (ppage k.part 0x1808)) 32 21 < k.wmCount)) (ev c 0 .cancelTimeout) ++
    when (getF (k.rsr 0x198) 8 24 != 0 && decide (k.trcDue ≤ s.wall)) (ev c 0 .traceSample) ++
    when (k.freeze == 19 && decide (k.requests < 1024)) (ev c 0 .requestEntryFreed)
  let (fill, s) := s.fills c
  let (save, s) := s.saves c
  (fixed ++ fill ++ save, s)

/-- The events of a core's copy channels. A bulk command's bytes move by its chunks, its completion steps here. -/
def State.channelEvents (s : State) (c : Nat) : List Happening :=
  let k := s.core c
  (List.range 16).flatMap fun ch => match k.head ch with
    | none => []
    | some q =>
      if q.phase = 0 then when (q.kill || q.ready k.pipe) (ev c ch .copyCommandStart)
      else when (!q.paused && q.pauseCause == 0 && decide (q.due ≤ s.wall) && (!q.bulk || q.kill || decide (2 ≤ q.phase)) && q.chunk == 0)
        (ev c ch (.copyCommandComplete 64 .none))

/-! ## Engines, scheduler and device -/

/-- The bulk engines of a die. -/
def State.bulkEvents (s : State) (die : Nat) : List Happening :=
  let idle := (List.range 8).filter fun e => !s.chunks.any fun k => k.die == die && k.eng == e
  ((s.chunks.filter fun k => k.die == die && decide (k.due ≤ s.wall)).map fun k => evIJ die k.eng (.bulkChunkDone .none)) ++
  (idle.take (s.eligible die).length).map fun e => evIJ die e .bulkChunkStart

/-- The events of a launch. -/
def State.launchEvents (s : State) (l : Launch) : List Happening :=
  match l.st with
  | .waiting => [evIJ l.key 0 .launchReady]
  | .ready => []
  | .running =>
    (l.tiles.filterMap fun t => if (t.cores ++ t.rcores).all s.coreOver then some (evIJ l.key t.n .gsVerdict) else none) ++
    when (s.launchOver l) (evIJ l.key 0 .launchDone)
  | .ending => when (!l.hashed && s.cmdsOver l) (evIJ l.key 0 .launchDone)

/-- The events of a partition. -/
def State.partEvents (s : State) (p : Nat) : List Happening :=
  ((List.range 64).filterMap fun q =>
    if s.lqPending p q && !s.lqFault.contains (lqKey p q) then some (evIJ p q .descriptorTake) else none) ++
  (match s.firstOf p with
    | none => []
    | some l =>
      if !s.mayDispatch p then []
      else if (l.placement (s.freeCores p)).isSome then [evIJ p 0 .launchDispatch]
      else when (getF (s.rw (ppage p 0x1808)) 0 16 != 0) (evIJ p 0 .sliceEnd)) ++
  when (decide (Sparse.get 0 s.hotStart p + max 1 (getF (s.rp p 0x086) 32 16) * 1000 ≤ s.time.toNat)) (evIJ p 0 .hotEpochEnd) ++
  when (s.hbPeriod p != 0 && decide (Sparse.get 0 s.hbStart p + s.hbPeriod p ≤ s.time.toNat)) (evIJ p 0 .heartbeat)

/-- The events of the device. -/
def State.deviceEvents (s : State) (before : Word) : List Happening :=
  when (bitN before.toNat 12 && !bitN s.time.toNat 12) (evIJ 0 0 .budgetRefill) ++
  ((s.reds.filter fun r => !r.paused && r.pauseCause == 0 && decide (r.due ≤ s.wall)).map fun r => evIJ r.key 0 (.reductionComplete .none)) ++
  (s.wuDue.filterMap fun e => if e.2 ≤ s.wall then
      some (evIJ e.1 0 (if WuCtl.state (s.wu e.1) = 2 then .handoverPassEnd else .wayScrubEnd)) else none) ++
  ((s.scrubs.filter fun x => decide (x.due ≤ s.wall)).map fun x => evIJ x.blk 0 .blockScrubEnd) ++
  when (s.poolNext.isSome || !s.pooled.isEmpty && (s.turnOver || !s.poolHeld || !s.active s.poolHolder)) (evIJ 0 0 .poolTurnEnd) ++
  when (decide (s.measDue ≤ s.wall)) (evIJ 0 0 .powerMeasurement) ++
  when (s.measLost && decide (s.level < 12)) (evIJ 0 0 .pwrMeasTimeout) ++
  when s.timeLost (evIJ 0 0 .holdover)

/-- Waits of far cores that are to be compared again. -/
def State.farChecks (s : State) : State :=
  (s.farWaits.filter fun w => match w.due with | some d => decide (d ≤ s.wall) | none => false).foldl State.farCompare s

/-- Everything of one wall cycle, in order: the device and its engines; the timers of the cores; the accesses that reach their homes in glb
and clr; the grants of the grove windows' ports; each core's landings; the bytes that the ports serve, as those landings left them
(R158); each core's issue; then the copy engines, through the ports that no core has used (R130). -/
def State.planEvents (s : State) (before : Word) : List Happening × State :=
  let ids := s.cores.map (·.1)
  let dev := s.deviceEvents before ++ s.launches.flatMap s.launchEvents ++ (State.parts.filter s.partEN).flatMap s.partEvents
  let (timers, s) := gather State.coreTimers ids s
  let (acc, s) := gather State.coreAccesses ids s
  let grv := s.groveAccesses
  let s := s.grantCopies
  let own := (s.cores.filter fun e => e.2.cycles).map (·.1)
  let copies := (List.range 2).flatMap s.bulkEvents ++ ids.flatMap s.channelEvents
  (dev ++ timers ++ acc ++ grv ++ own.map (fun c => ev c 0 .operationLands) ++ grv ++ own.map (fun c => ev c 0 .bundleIssue) ++ copies, s)

/-- A wall cycle begins: time passes (a change of bit 12 of the time base that a write of TIME.SET makes is no refill of R147: DESIGN
CHOICE, log entry 111), what has finished is answered, what the last cycle left is settled, and the cycle's happenings are
planned. Nothing happens in dies that are not powered, nor while the reset sequence runs. -/
def State.newCycle (s : State) : State :=
  let before := s.time
  let s := { s with wall := s.wall + 1 }.tickTime.settleBoot.settleJobs
  if !s.live then s
  else
    let s := s.ptmStep.settleRemote.countSwallowed.settleInvs.farChecks.freeTiles.settleResets.scrubArrays.hotChecks.traceSteps
    let (turn, s) := s.planEvents before
    { s with turn := s.turn ++ turn }

/-! ## What comes next, and the placing of one bundle -/

/-- The state with another cursor. -/
def State.at_ (s : State) (u : Cur) : State := { s with cur := u }

/-- The happening that the outside brings now, if the first that it has planned is due; it is planned no longer. -/
def nextInput (s : State) : Option (Happening × State) :=
  match s.inputs with
  | i :: r => if i.wall ≤ s.wall then some (i.hap, { s with inputs := r }) else none
  | [] => none

/-- The slot of an instruction of a width in bits (R43): its index and its bytes. -/
def tableSlot (nbits w : Nat) : Nat × Nat :=
  match nbits with
  | 24 => (8, 3)
  | 64 => (5, 8)
  | _ => match decodeScalar false w with
    | .ok _ => (1, 4)
    | .error _ => match decodeMx w with
      | .ok _ => (3, 4)
      | .error _ => (4, 4)

/-- The bundle that holds one instruction and nothing else, as a number (R43 to R46). -/
def tableBundle (nbits w : Nat) : Nat :=
  let (k, n) := tableSlot nbits w
  2 ^ 31 + (if k < 8 then 2 ^ (30 - k) else 2 ^ (16 + k - 8)) + 2 ^ 32 * (w % 2 ^ (8 * n))
/-- The bytes of that bundle, padded to words. -/
def tableBytes (nbits w : Nat) : List Byte := bytesLE (if (tableSlot nbits w).2 = 8 then 12 else 8) (tableBundle nbits w)

/-- A bundle stands at address 0 of memory and in the first line of core 0's instruction cache, and core 0 runs there in partition 0 at
root level with translation off, and looks at it in the next step. Log entry 8. -/
def State.placeBundle (s : State) (bs : List Byte) : State :=
  let s := (s.wwF (rpage 0x8018) 0 1 0).wwF (rpage 0x8000) 8 1 1
  let line : ICLine := { set_ := 0, line := 0, data := Sparse.setBytes [] 0 bs, age := 0 }
  let k := s.core 0
  let k : Core := { k with run := .running, pc := 0, level := .root, part := 0, nextIssue := k.sched, pend := [], freeze := 0, resuming := false
                           mretry := none, stepFrom := false, skipBrk := true, fetchFail := none, icache := [line]
                           pipe := k.pipe.filter fun o => !o.fault }
  { ({ s with mem := Sparse.setBytes s.mem 0 bs, inputs := [] } : State).setCore 0 (k.wsr 0x082 0) with
    turn := [{ cur := {}, act := .bundleIssue }] }

end Sys2Proof.Machine
end

