-- ==== Sys2Proof/Machine/Dispatch.lean ====
section
/-! DEFINITION. The dispatch: each instruction and each event of the machine to its own meaning, one arm each. -/
namespace Sys2Proof.Machine

open Sys2Proof

/-- The meaning of an instruction or event at the cursor (R3, R9). -/
def exec (i : Instr) (s : State) : Host.Outcome State Fault Refusal :=
  match i with
  | .elasticDataArrives g u => Sys2Proof.Machine.execElasticDataArrives g u s
  | .storePerforms u => Sys2Proof.Machine.execStorePerforms u s
  | .atomicPerforms u => Sys2Proof.Machine.execAtomicPerforms u s
  | .qldFill u => Sys2Proof.Machine.execQldFill u s
  | .lineFill line u => Sys2Proof.Machine.execLineFill line u s
  | .copyCommandComplete n u => Sys2Proof.Machine.execCopyCommandComplete n u s
  | .bulkChunkDone u => Sys2Proof.Machine.execBulkChunkDone u s
  | .reductionComplete u => Sys2Proof.Machine.execReductionComplete u s
  | .collectiveMatch nb => Sys2Proof.Machine.execCollectiveMatch nb s
  | .collectiveComplete xs => Sys2Proof.Machine.execCollectiveComplete xs s
  | .lateTransition units => Sys2Proof.Machine.execLateTransition units s
  | .throtN low => Sys2Proof.Machine.execThrotN low s
  | .powerInputRestored mv ok => Sys2Proof.Machine.execPowerInputRestored mv ok s
  | .resetN ok => Sys2Proof.Machine.execResetN ok s
  | .ptmDialogue j offset => Sys2Proof.Machine.execPtmDialogue j offset s
  | .hostRead h len => Sys2Proof.Machine.execHostRead h len s
  | .hostWrite h data poison => Sys2Proof.Machine.execHostWrite h data poison s
  | .atsInvalidate j fn va len tag => Sys2Proof.Machine.execAtsInvalidate j fn va len tag s
  | .prgResponse j fn va ok => Sys2Proof.Machine.execPrgResponse j fn va ok s
  | .flitReceived l crcOk => Sys2Proof.Machine.execFlitReceived l crcOk s
  | .fabricRequest f u => Sys2Proof.Machine.execFabricRequest f u s
  | .getId r => Sys2Proof.Machine.execGetId r s
  | .read r => Sys2Proof.Machine.execRead r s
  | .subscribe r => Sys2Proof.Machine.execSubscribe r s
  | .stop r => Sys2Proof.Machine.execStop r s
  | .save r => Sys2Proof.Machine.execSave r s
  | .reset r => Sys2Proof.Machine.execReset r s
  | .quarantine r => Sys2Proof.Machine.execQuarantine r s
  | .challenge slot nonce => Sys2Proof.Machine.execChallenge slot nonce s
  | .agentRegisterWrite die off v => Sys2Proof.Machine.execAgentRegisterWrite die off v s
  | .pwrMeasWrite v => Sys2Proof.Machine.execPwrMeasWrite v s
  | .wuCtlWrite n v => Sys2Proof.Machine.execWuCtlWrite n v s
  | .blkCtlWrite b v => Sys2Proof.Machine.execBlkCtlWrite b v s
  | .partCtlWrite p v => Sys2Proof.Machine.execPartCtlWrite p v s
  | .partCoresWrite p m v => Sys2Proof.Machine.execPartCoresWrite p m v s
  | .poolCoresWrite m v => Sys2Proof.Machine.execPoolCoresWrite m v s
  | .coreQuarantineWrite m v => Sys2Proof.Machine.execCoreQuarantineWrite m v s
  | .cpyFresResume p v => Sys2Proof.Machine.execCpyFresResume p v s
  | .cpyFresAbandon p v => Sys2Proof.Machine.execCpyFresAbandon p v s
  | .ctxRestoreWrite p v => Sys2Proof.Machine.execCtxRestoreWrite p v s
  | .lqTailWrite p q v => Sys2Proof.Machine.execLqTailWrite p q v s
  | .lqCancelWrite p v => Sys2Proof.Machine.execLqCancelWrite p v s
  | .pmqPostWrite p v => Sys2Proof.Machine.execPmqPostWrite p v s
  | .pmqSendWrite p v => Sys2Proof.Machine.execPmqSendWrite p v s
  | .memHotCtlWrite p v => Sys2Proof.Machine.execMemHotCtlWrite p v s
  | .replayCtlWrite n v => Sys2Proof.Machine.execReplayCtlWrite n v s
  | .marginOfsWrite n v => Sys2Proof.Machine.execMarginOfsWrite n v s
  | .timeSetWrite v => Sys2Proof.Machine.execTimeSetWrite v s
  | .rootlinkRegWrite off v => Sys2Proof.Machine.execRootlinkRegWrite off v s
  | .registerWrite off lvl v => Sys2Proof.Machine.execRegisterWrite off lvl v s
  | .add d a b => Sys2Proof.Machine.execAdd d a b s
  | .sub d a b => Sys2Proof.Machine.execSub d a b s
  | .and d a b => Sys2Proof.Machine.execAnd d a b s
  | .or d a b => Sys2Proof.Machine.execOr d a b s
  | .xor d a b => Sys2Proof.Machine.execXor d a b s
  | .andn d a b => Sys2Proof.Machine.execAndn d a b s
  | .sll d a b => Sys2Proof.Machine.execSll d a b s
  | .srl d a b => Sys2Proof.Machine.execSrl d a b s
  | .sra d a b => Sys2Proof.Machine.execSra d a b s
  | .slt d a b => Sys2Proof.Machine.execSlt d a b s
  | .sltu d a b => Sys2Proof.Machine.execSltu d a b s
  | .seq d a b => Sys2Proof.Machine.execSeq d a b s
  | .min d a b => Sys2Proof.Machine.execMin d a b s
  | .max d a b => Sys2Proof.Machine.execMax d a b s
  | .minu d a b => Sys2Proof.Machine.execMinu d a b s
  | .maxu d a b => Sys2Proof.Machine.execMaxu d a b s
  | .mul d a b => Sys2Proof.Machine.execMul d a b s
  | .mulh d a b => Sys2Proof.Machine.execMulh d a b s
  | .mulhu d a b => Sys2Proof.Machine.execMulhu d a b s
  | .div d a b => Sys2Proof.Machine.execDiv d a b s
  | .divu d a b => Sys2Proof.Machine.execDivu d a b s
  | .rem d a b => Sys2Proof.Machine.execRem d a b s
  | .remu d a b => Sys2Proof.Machine.execRemu d a b s
  | .clz d a => Sys2Proof.Machine.execClz d a s
  | .ctz d a => Sys2Proof.Machine.execCtz d a s
  | .popc d a => Sys2Proof.Machine.execPopc d a s
  | .addi d a imm => Sys2Proof.Machine.execAddi d a imm s
  | .andi d a imm => Sys2Proof.Machine.execAndi d a imm s
  | .ori d a imm => Sys2Proof.Machine.execOri d a imm s
  | .xori d a imm => Sys2Proof.Machine.execXori d a imm s
  | .slli d a sh => Sys2Proof.Machine.execSlli d a sh s
  | .srli d a sh => Sys2Proof.Machine.execSrli d a sh s
  | .srai d a sh => Sys2Proof.Machine.execSrai d a sh s
  | .slti d a imm => Sys2Proof.Machine.execSlti d a imm s
  | .sltiu d a imm => Sys2Proof.Machine.execSltiu d a imm s
  | .li d imm => Sys2Proof.Machine.execLi d imm s
  | .lui d imm => Sys2Proof.Machine.execLui d imm s
  | .lsh d imm => Sys2Proof.Machine.execLsh d imm s
  | .beq a b off => Sys2Proof.Machine.execBeq a b off s
  | .bne a b off => Sys2Proof.Machine.execBne a b off s
  | .blt a b off => Sys2Proof.Machine.execBlt a b off s
  | .bge a b off => Sys2Proof.Machine.execBge a b off s
  | .bltu a b off => Sys2Proof.Machine.execBltu a b off s
  | .bgeu a b off => Sys2Proof.Machine.execBgeu a b off s
  | .j off => Sys2Proof.Machine.execJ off s
  | .jl d off => Sys2Proof.Machine.execJl d off s
  | .jr a => Sys2Proof.Machine.execJr a s
  | .jlr d a => Sys2Proof.Machine.execJlr d a s
  | .loop n a off => Sys2Proof.Machine.execLoop n a off s
  | .loopi n cnt off => Sys2Proof.Machine.execLoopi n cnt off s
  | .lcrd d n => Sys2Proof.Machine.execLcrd d n s
  | .agbase n a => Sys2Proof.Machine.execAgbase n a s
  | .agstep n a => Sys2Proof.Machine.execAgstep n a s
  | .agwrap n a => Sys2Proof.Machine.execAgwrap n a s
  | .agrd d n => Sys2Proof.Machine.execAgrd d n s
  | .srrd d sys => Sys2Proof.Machine.execSrrd d sys s
  | .srwr sys a => Sys2Proof.Machine.execSrwr sys a s
  | .srset sys a => Sys2Proof.Machine.execSrset sys a s
  | .srclr sys a => Sys2Proof.Machine.execSrclr sys a s
  | .trap imm => Sys2Proof.Machine.execTrap imm s
  | .brk imm => Sys2Proof.Machine.execBrk imm s
  | .gsres a => Sys2Proof.Machine.execGsres a s
  | .push st ga gb fa fb p sp => Sys2Proof.Machine.execPush st ga gb fa fb p sp s
  | .acc st fa fb p sp => Sys2Proof.Machine.execAcc st fa fb p sp s
  | .accp st ga gb fa fb p sp t => Sys2Proof.Machine.execAccp st ga gb fa fb p sp t s
  | .shift st n => Sys2Proof.Machine.execShift st n s
  | .drain tile grp add final => Sys2Proof.Machine.execDrain tile grp add final s
  | .mloc vd => Sys2Proof.Machine.execMloc vd s
  | .mfix r c => Sys2Proof.Machine.execMfix r c s
  | .scla st ag => Sys2Proof.Machine.execScla st ag s
  | .sclb st ag => Sys2Proof.Machine.execSclb st ag s
  | .smap ag => Sys2Proof.Machine.execSmap ag s
  | .sidx st ag kw => Sys2Proof.Machine.execSidx st ag kw s
  | .move src dst => Sys2Proof.Machine.execMove src dst s
  | .vaMov src u f => Sys2Proof.Machine.execVaMov src u f s
  | .vaAdd src u f => Sys2Proof.Machine.execVaAdd src u f s
  | .vaSub src u f => Sys2Proof.Machine.execVaSub src u f s
  | .vaMul src u f => Sys2Proof.Machine.execVaMul src u f s
  | .vaFma src u f => Sys2Proof.Machine.execVaFma src u f s
  | .vaFms src u f => Sys2Proof.Machine.execVaFms src u f s
  | .vaFnma src u f => Sys2Proof.Machine.execVaFnma src u f s
  | .vaMin src u f => Sys2Proof.Machine.execVaMin src u f s
  | .vaMax src u f => Sys2Proof.Machine.execVaMax src u f s
  | .vaAbs src u f => Sys2Proof.Machine.execVaAbs src u f s
  | .vaNeg src u f => Sys2Proof.Machine.execVaNeg src u f s
  | .vaAnd src u f => Sys2Proof.Machine.execVaAnd src u f s
  | .vaOr src u f => Sys2Proof.Machine.execVaOr src u f s
  | .vaXor src u f => Sys2Proof.Machine.execVaXor src u f s
  | .vaAndn src u f => Sys2Proof.Machine.execVaAndn src u f s
  | .vaNot src u f => Sys2Proof.Machine.execVaNot src u f s
  | .vaSll src u f => Sys2Proof.Machine.execVaSll src u f s
  | .vaSrl src u f => Sys2Proof.Machine.execVaSrl src u f s
  | .vaSra src u f => Sys2Proof.Machine.execVaSra src u f s
  | .vaMulhi src u f => Sys2Proof.Machine.execVaMulhi src u f s
  | .vaSel src u f => Sys2Proof.Machine.execVaSel src u f s
  | .vaCeq src u f => Sys2Proof.Machine.execVaCeq src u f s
  | .vaCne src u f => Sys2Proof.Machine.execVaCne src u f s
  | .vaClt src u f => Sys2Proof.Machine.execVaClt src u f s
  | .vaCle src u f => Sys2Proof.Machine.execVaCle src u f s
  | .vaCun src u f => Sys2Proof.Machine.execVaCun src u f s
  | .vaKand src u f => Sys2Proof.Machine.execVaKand src u f s
  | .vaKor src u f => Sys2Proof.Machine.execVaKor src u f s
  | .vaKxor src u f => Sys2Proof.Machine.execVaKxor src u f s
  | .vaKandn src u f => Sys2Proof.Machine.execVaKandn src u f s
  | .vaKnot src u f => Sys2Proof.Machine.execVaKnot src u f s
  | .vaKcnt src u f => Sys2Proof.Machine.execVaKcnt src u f s
  | .vpRotr src f => Sys2Proof.Machine.execVpRotr src f s
  | .vpBcr src f => Sys2Proof.Machine.execVpBcr src f s
  | .vpSumr src f => Sys2Proof.Machine.execVpSumr src f s
  | .vpMaxr src f => Sys2Proof.Machine.execVpMaxr src f s
  | .vpMinr src f => Sys2Proof.Machine.execVpMinr src f s
  | .vpRotc src f => Sys2Proof.Machine.execVpRotc src f s
  | .vpBcc src f => Sys2Proof.Machine.execVpBcc src f s
  | .vpSumc src f => Sys2Proof.Machine.execVpSumc src f s
  | .vpMaxc src f => Sys2Proof.Machine.execVpMaxc src f s
  | .vpMinc src f => Sys2Proof.Machine.execVpMinc src f s
  | .vpTrn16 src f => Sys2Proof.Machine.execVpTrn16 src f s
  | .vpShuf src f => Sys2Proof.Machine.execVpShuf src f s
  | .sfExp2 src f => Sys2Proof.Machine.execSfExp2 src f s
  | .sfLog2 src f => Sys2Proof.Machine.execSfLog2 src f s
  | .sfRcp src f => Sys2Proof.Machine.execSfRcp src f s
  | .sfRsqrt src f => Sys2Proof.Machine.execSfRsqrt src f s
  | .sfSqrt src f => Sys2Proof.Machine.execSfSqrt src f s
  | .sfTanh src f => Sys2Proof.Machine.execSfTanh src f s
  | .sfSin src f => Sys2Proof.Machine.execSfSin src f s
  | .sfCos src f => Sys2Proof.Machine.execSfCos src f s
  | .sfErf src f => Sys2Proof.Machine.execSfErf src f s
  | .cvDn src t r o => Sys2Proof.Machine.execCvDn src t r o s
  | .cvUp src t => Sys2Proof.Machine.execCvUp src t s
  | .cvUpRounding src t r => Sys2Proof.Machine.execCvUpRounding src t r s
  | .wcSig src => Sys2Proof.Machine.execWcSig src s
  | .wcSigclr src => Sys2Proof.Machine.execWcSigclr src s
  | .wcCmp src => Sys2Proof.Machine.execWcCmp src s
  | .apRd src => Sys2Proof.Machine.execApRd src s
  | .apWr src => Sys2Proof.Machine.execApWr src s
  | .apAcc src => Sys2Proof.Machine.execApAcc src s
  | .ldb m => Sys2Proof.Machine.execLdb m s
  | .ldh m => Sys2Proof.Machine.execLdh m s
  | .ldw m => Sys2Proof.Machine.execLdw m s
  | .ldd m => Sys2Proof.Machine.execLdd m s
  | .ldbs m => Sys2Proof.Machine.execLdbs m s
  | .ldhs m => Sys2Proof.Machine.execLdhs m s
  | .ldws m => Sys2Proof.Machine.execLdws m s
  | .stb m => Sys2Proof.Machine.execStb m s
  | .sth m => Sys2Proof.Machine.execSth m s
  | .stw m => Sys2Proof.Machine.execStw m s
  | .std m => Sys2Proof.Machine.execStd m s
  | .vld m => Sys2Proof.Machine.execVld m s
  | .vst m => Sys2Proof.Machine.execVst m s
  | .vld16 m => Sys2Proof.Machine.execVld16 m s
  | .vld32 m => Sys2Proof.Machine.execVld32 m s
  | .vst16 m => Sys2Proof.Machine.execVst16 m s
  | .vst32 m => Sys2Proof.Machine.execVst32 m s
  | .qld m => Sys2Proof.Machine.execQld m s
  | .vgath m => Sys2Proof.Machine.execVgath m s
  | .vscat m => Sys2Proof.Machine.execVscat m s
  | .vlut m => Sys2Proof.Machine.execVlut m s
  | .vlst m => Sys2Proof.Machine.execVlst m s
  | .pref m => Sys2Proof.Machine.execPref m s
  | .ipref m => Sys2Proof.Machine.execIpref m s
  | .aincW m => Sys2Proof.Machine.execAincW m s
  | .aincD m => Sys2Proof.Machine.execAincD m s
  | .afaddbW m => Sys2Proof.Machine.execAfaddbW m s
  | .afaddbD m => Sys2Proof.Machine.execAfaddbD m s
  | .aaddW m => Sys2Proof.Machine.execAaddW m s
  | .aaddD m => Sys2Proof.Machine.execAaddD m s
  | .aaddfW m => Sys2Proof.Machine.execAaddfW m s
  | .acasW m => Sys2Proof.Machine.execAcasW m s
  | .acasD m => Sys2Proof.Machine.execAcasD m s
  | .axchgW m => Sys2Proof.Machine.execAxchgW m s
  | .axchgD m => Sys2Proof.Machine.execAxchgD m s
  | .amaxW m => Sys2Proof.Machine.execAmaxW m s
  | .amaxD m => Sys2Proof.Machine.execAmaxD m s
  | .aminW m => Sys2Proof.Machine.execAminW m s
  | .aminD m => Sys2Proof.Machine.execAminD m s
  | .radd m => Sys2Proof.Machine.execRadd m s
  | .rwait m => Sys2Proof.Machine.execRwait m s
  | .rrd m => Sys2Proof.Machine.execRrd m s
  | .fence mask scope => Sys2Proof.Machine.execFence mask scope s
  | .gopen g => Sys2Proof.Machine.execGopen g s
  | .gcommit g => Sys2Proof.Machine.execGcommit g s
  | .gabort g => Sys2Proof.Machine.execGabort g s
  | .cpy m => Sys2Proof.Machine.execCpy m s
  | .cpy2d m => Sys2Proof.Machine.execCpy2d m s
  | .cpyg m => Sys2Proof.Machine.execCpyg m s
  | .cwait land tk => Sys2Proof.Machine.execCwait land tk s
  | .wpwait land a ch => Sys2Proof.Machine.execWpwait land a ch s
  | .red m => Sys2Proof.Machine.execRed m s
  | .coll m => Sys2Proof.Machine.execColl m s
  | .lqput m => Sys2Proof.Machine.execLqput m s
  | .tlbiva m => Sys2Proof.Machine.execTlbiva m s
  | .l2wb m => Sys2Proof.Machine.execL2wb m s
  | .l2inv m => Sys2Proof.Machine.execL2inv m s
  | .l2wbinv m => Sys2Proof.Machine.execL2wbinv m s
  | .launchKill id => Sys2Proof.Machine.execLaunchKill id s
  | .bundleIssue => Sys2Proof.Machine.execBundleIssue s
  | .operationLands => Sys2Proof.Machine.execOperationLands s
  | .ringWaitSatisfied => Sys2Proof.Machine.execRingWaitSatisfied s
  | .ringWaitRecheck => Sys2Proof.Machine.execRingWaitRecheck s
  | .translationWalkDone => Sys2Proof.Machine.execTranslationWalkDone s
  | .requestEntryFreed => Sys2Proof.Machine.execRequestEntryFreed s
  | .copyWaitSatisfied => Sys2Proof.Machine.execCopyWaitSatisfied s
  | .copyCommandStart => Sys2Proof.Machine.execCopyCommandStart s
  | .copyFaultPause => Sys2Proof.Machine.execCopyFaultPause s
  | .bulkChunkStart => Sys2Proof.Machine.execBulkChunkStart s
  | .budgetRefill => Sys2Proof.Machine.execBudgetRefill s
  | .reductionAccept => Sys2Proof.Machine.execReductionAccept s
  | .reductionPause => Sys2Proof.Machine.execReductionPause s
  | .collectivePause => Sys2Proof.Machine.execCollectivePause s
  | .collectiveAbandon => Sys2Proof.Machine.execCollectiveAbandon s
  | .handoverPassEnd => Sys2Proof.Machine.execHandoverPassEnd s
  | .wayScrubEnd => Sys2Proof.Machine.execWayScrubEnd s
  | .blockScrubEnd => Sys2Proof.Machine.execBlockScrubEnd s
  | .hotEpochEnd => Sys2Proof.Machine.execHotEpochEnd s
  | .timingEscalation => Sys2Proof.Machine.execTimingEscalation s
  | .replayWindow => Sys2Proof.Machine.execReplayWindow s
  | .marginSettled => Sys2Proof.Machine.execMarginSettled s
  | .watchdog => Sys2Proof.Machine.execWatchdog s
  | .heartbeat => Sys2Proof.Machine.execHeartbeat s
  | .cancelTimeout => Sys2Proof.Machine.execCancelTimeout s
  | .waymarkStop => Sys2Proof.Machine.execWaymarkStop s
  | .contextSaveDone => Sys2Proof.Machine.execContextSaveDone s
  | .descriptorTake => Sys2Proof.Machine.execDescriptorTake s
  | .launchReady => Sys2Proof.Machine.execLaunchReady s
  | .launchDispatch => Sys2Proof.Machine.execLaunchDispatch s
  | .sliceEnd => Sys2Proof.Machine.execSliceEnd s
  | .launchDone => Sys2Proof.Machine.execLaunchDone s
  | .pageHash => Sys2Proof.Machine.execPageHash s
  | .gsVerdict => Sys2Proof.Machine.execGsVerdict s
  | .poolTurnEnd => Sys2Proof.Machine.execPoolTurnEnd s
  | .traceSample => Sys2Proof.Machine.execTraceSample s
  | .powerMeasurement => Sys2Proof.Machine.execPowerMeasurement s
  | .pwrMeasTimeout => Sys2Proof.Machine.execPwrMeasTimeout s
  | .powerInputOutOfRange => Sys2Proof.Machine.execPowerInputOutOfRange s
  | .pwrgdFall => Sys2Proof.Machine.execPwrgdFall s
  | .perst => Sys2Proof.Machine.execPerst s
  | .ppsEdge => Sys2Proof.Machine.execPpsEdge s
  | .holdover => Sys2Proof.Machine.execHoldover s
  | .hostAtomicopReceived => Sys2Proof.Machine.execHostAtomicopReceived s
  | .functionLevelReset => Sys2Proof.Machine.execFunctionLevelReset s
  | .portFailure => Sys2Proof.Machine.execPortFailure s
  | .getVersion => Sys2Proof.Machine.execGetVersion s
  | .getCapabilities => Sys2Proof.Machine.execGetCapabilities s
  | .negotiateAlgorithms => Sys2Proof.Machine.execNegotiateAlgorithms s
  | .getDigests => Sys2Proof.Machine.execGetDigests s
  | .getCertificate => Sys2Proof.Machine.execGetCertificate s
  | .getMeasurements => Sys2Proof.Machine.execGetMeasurements s
  | .agentRegisterRead => Sys2Proof.Machine.execAgentRegisterRead s
  | .mgmtStop => Sys2Proof.Machine.execMgmtStop s
  | .mgmtSave => Sys2Proof.Machine.execMgmtSave s
  | .mgmtReset => Sys2Proof.Machine.execMgmtReset s
  | .mgmtQuarantineSet => Sys2Proof.Machine.execMgmtQuarantineSet s
  | .mgmtQuarantineClear => Sys2Proof.Machine.execMgmtQuarantineClear s
  | .saveRetryWrite => Sys2Proof.Machine.execSaveRetryWrite s
  | .hbKickWrite => Sys2Proof.Machine.execHbKickWrite s
  | .cntrdLoRead => Sys2Proof.Machine.execCntrdLoRead s
  | .done => Sys2Proof.Machine.execDone s
  | .resume => Sys2Proof.Machine.execResume s
  | .gsend => Sys2Proof.Machine.execGsend s
  | .dchk => Sys2Proof.Machine.execDchk s
  | .clear => Sys2Proof.Machine.execClear s
  | .mpass => Sys2Proof.Machine.execMpass s
  | .mretry => Sys2Proof.Machine.execMretry s
  | .mclaim => Sys2Proof.Machine.execMclaim s
  | .mrelease => Sys2Proof.Machine.execMrelease s
  | .tlbiall => Sys2Proof.Machine.execTlbiall s
  | .portTrained => Sys2Proof.Machine.execPortTrained s
  | .rangerAuthentication => Sys2Proof.Machine.execRangerAuthentication s
  | .rangerSupplyLost => Sys2Proof.Machine.execRangerSupplyLost s

end Sys2Proof.Machine
end

