-- ==== Sys2Proof/Machine/Step.lean ====
section
/-! DEFINITION. The step: the next happening that the outside brings, or the next planned one of the wall cycle, or the start of a new
wall cycle. And the placing of one bundle where the next step fetches. -/
namespace Sys2Proof.Machine

open Sys2Proof

/-- One step of the part (R3, R4): a happening of the outside that is due comes first, then the turn's next, then a new wall cycle. -/
def step (s : State) : Out :=
  match nextInput s with
  | some (h, s) => exec h.act (s.at_ h.cur)
  | none =>
    match s.turn with
    | h :: r => exec h.act ({ s with turn := r }.at_ h.cur)
    | [] => .next s.newCycle

/-- The state with one instruction placed where the step fetches next: core 0 runs at bundle address 0 in partition 0 at root level and
looks at its bundle in this step. -/
def State.withFetchWord (s : State) (nbits w : Nat) : State := s.placeBundle (tableBytes nbits w)

end Sys2Proof.Machine
end

