-- ==== Sys2Proof/Laws/Decode.lean ====
section
/-! SUPPORT. The decoder reads back the fields that the encoder laid out: one lemma per format of R48 to R62. -/
namespace Sys2Proof

/-- A field of a number, by its value. -/
theorem fld_eq {n : Nat} (w lo : Nat) (b : BitVec n) (h : w / 2 ^ lo % 2 ^ n = b.toNat) : fld w lo n = b := by
  apply BitVec.eq_of_toNat_eq; simp only [fld, BitVec.toNat_ofNat]; exact h

/-- What breaks no limit is the instruction. -/
theorem checked_ok (i : Instr) (h : i.wf = true) : checked [] i = .ok i := by
  have : i.faults = [] := by simpa [Instr.wf] using h
  simp [checked, this, BadForm.worst]

theorem zero_zero : zero 0 = [] := rfl

/-! ## Scalar slots -/

theorem scalar_ok (w : Nat) (i : Instr) (h : scalarBody w = .ok ([], i)) (hw : i.wf = true) : decodeScalar false w = .ok i := by
  simp [decodeScalar, h, WellFormed.need, checked_ok i hw]

theorem body_R (w : Nat) (g : BitVec 6 → BitVec 6 → BitVec 6 → Instr) (ho : fldN w 24 8 = 1) (hg : rrrOf (fldN w 0 6) = some g) :
    scalarBody w = .ok ([], g (fld w 18 6) (fld w 12 6) (fld w 6 6)) := by
  unfold scalarBody
  dsimp only
  rw [ho, hg]; rfl

theorem body_RR (w : Nat) (g : BitVec 6 → BitVec 6 → Instr) (ho : fldN w 24 8 = 1) (hn : rrrOf (fldN w 0 6) = none)
    (hg : rrOf (fldN w 0 6) = some g) : scalarBody w = .ok (zero (fldN w 6 6), g (fld w 18 6) (fld w 12 6)) := by
  unfold scalarBody
  dsimp only
  rw [ho, hn, hg]; rfl

theorem body_B (w op : Nat) (g : BitVec 6 → BitVec 6 → BitVec 12 → Instr) (ho : fldN w 24 8 = op) (hg : branchOf op = some g) :
    scalarBody w = .ok ([], g (fld w 18 6) (fld w 12 6) (fld w 0 12)) := by
  unfold scalarBody
  generalize rrrOf (fldN w 0 6) = p, rrOf (fldN w 0 6) = q
  dsimp only
  rw [ho, hg]; cases p <;> cases q <;> rfl

theorem body_I (w op : Nat) (g : BitVec 6 → BitVec 6 → BitVec 12 → Instr) (ho : fldN w 24 8 = op) (hb : branchOf op = none)
    (hg : immOf op = some g) : scalarBody w = .ok ([], g (fld w 18 6) (fld w 12 6) (fld w 0 12)) := by
  unfold scalarBody
  generalize rrrOf (fldN w 0 6) = p, rrOf (fldN w 0 6) = q
  dsimp only
  rw [ho, hb, hg]; cases p <;> cases q <;> rfl

theorem body_Sh (w op : Nat) (g : BitVec 6 → BitVec 6 → BitVec 6 → Instr) (ho : fldN w 24 8 = op) (hb : branchOf op = none)
    (hi : immOf op = none) (hg : shiftOf op = some g) :
    scalarBody w = .ok (zero (fldN w 6 6), g (fld w 18 6) (fld w 12 6) (fld w 0 6)) := by
  unfold scalarBody
  generalize rrrOf (fldN w 0 6) = p, rrOf (fldN w 0 6) = q
  dsimp only
  rw [ho, hb, hi, hg]; cases p <;> cases q <;> rfl

theorem body_rest (w op : Nat) (ho : fldN w 24 8 = op) (h1 : op ≠ 1) (hb : branchOf op = none) (hi : immOf op = none)
    (hs : shiftOf op = none) : scalarBody w = scalarBody.rest w op := by
  unfold scalarBody
  generalize rrrOf (fldN w 0 6) = p, rrOf (fldN w 0 6) = q
  dsimp only
  rw [ho, hb, hi, hs]; clear ho hb hi hs; cases p <;> cases q <;> simp [h1]

theorem scalar_R (f : Nat) (d a b : BitVec 6) (g : BitVec 6 → BitVec 6 → BitVec 6 → Instr) (hf : f < 64) (hg : rrrOf f = some g)
    (hw : (g d a b).wf = true) : decodeScalar false (encR f d a b) = .ok (g d a b) := by
  apply scalar_ok _ _ _ hw
  have hd := d.isLt; have ha := a.isLt; have hb := b.isLt
  have e1 : fldN (encR f d a b) 24 8 = 1 := by simp only [fldN, encR, encSR]; omega
  have e2 : fldN (encR f d a b) 0 6 = f := by simp only [fldN, encR, encSR]; omega
  have e3 : fld (encR f d a b) 18 6 = d := fld_eq _ _ _ (by simp only [encR, encSR]; omega)
  have e4 : fld (encR f d a b) 12 6 = a := fld_eq _ _ _ (by simp only [encR, encSR]; omega)
  have e5 : fld (encR f d a b) 6 6 = b := fld_eq _ _ _ (by simp only [encR, encSR]; omega)
  rw [body_R _ g e1 (by rw [e2, hg]), e3, e4, e5]

theorem scalar_RR (f : Nat) (d a : BitVec 6) (g : BitVec 6 → BitVec 6 → Instr) (hf : f < 64) (hn : rrrOf f = none) (hg : rrOf f = some g)
    (hw : (g d a).wf = true) : decodeScalar false (encR f d a 0) = .ok (g d a) := by
  apply scalar_ok _ _ _ hw
  have hd := d.isLt; have ha := a.isLt
  generalize hW : encR f d a 0 = w
  simp only [encR, encSR, BitVec.ofNat_eq_ofNat, BitVec.toNat_ofNat] at hW
  have e1 : fldN w 24 8 = 1 := by simp only [fldN]; omega
  have e2 : fldN w 0 6 = f := by simp only [fldN]; omega
  have e3 : fld w 18 6 = d := fld_eq _ _ _ (by omega)
  have e4 : fld w 12 6 = a := fld_eq _ _ _ (by omega)
  have e5 : fldN w 6 6 = 0 := by simp only [fldN]; omega
  rw [body_RR _ g e1 (by rw [e2, hn]) (by rw [e2, hg]), e3, e4, e5, zero_zero]

/-- The fields of a word of the immediate formats. -/
theorem fields_I (op : Nat) (d a : BitVec 6) (imm : BitVec 12) (ho : op < 256) :
    fldN (encI op d a imm) 24 8 = op ∧ fld (encI op d a imm) 18 6 = d ∧ fld (encI op d a imm) 12 6 = a ∧
    fld (encI op d a imm) 0 12 = imm := by
  have hd := d.isLt; have ha := a.isLt; have hi := imm.isLt
  refine ⟨?_, fld_eq _ _ _ ?_, fld_eq _ _ _ ?_, fld_eq _ _ _ ?_⟩ <;> simp only [fldN, encI, encSI] <;> omega

theorem scalar_B (op : Nat) (a b : BitVec 6) (o : BitVec 12) (g : BitVec 6 → BitVec 6 → BitVec 12 → Instr) (ho : op < 256)
    (hg : branchOf op = some g) (hw : (g a b o).wf = true) :
    decodeScalar false (encI op a b o) = .ok (g a b o) := by
  apply scalar_ok _ _ _ hw
  obtain ⟨e1, e2, e3, e4⟩ := fields_I op a b o ho
  rw [body_B _ op g e1 hg, e2, e3, e4]

theorem scalar_I (op : Nat) (d a : BitVec 6) (o : BitVec 12) (g : BitVec 6 → BitVec 6 → BitVec 12 → Instr) (ho : op < 256)
    (hb : branchOf op = none) (hg : immOf op = some g) (hw : (g d a o).wf = true) :
    decodeScalar false (encI op d a o) = .ok (g d a o) := by
  apply scalar_ok _ _ _ hw
  obtain ⟨e1, e2, e3, e4⟩ := fields_I op d a o ho
  rw [body_I _ op g e1 hb hg, e2, e3, e4]

theorem scalar_Sh (op : Nat) (d a sh : BitVec 6) (g : BitVec 6 → BitVec 6 → BitVec 6 → Instr) (ho : op < 256)
    (hb : branchOf op = none) (hi : immOf op = none) (hg : shiftOf op = some g) (hw : (g d a sh).wf = true) :
    decodeScalar false (encSh op d a sh) = .ok (g d a sh) := by
  apply scalar_ok _ _ _ hw
  have hd := d.isLt; have ha := a.isLt; have hs := sh.isLt
  have e1 : fldN (encSh op d a sh) 24 8 = op := by simp only [fldN, encSh, encSI]; omega
  have e2 : fld (encSh op d a sh) 18 6 = d := fld_eq _ _ _ (by simp only [encSh, encSI]; omega)
  have e3 : fld (encSh op d a sh) 12 6 = a := fld_eq _ _ _ (by simp only [encSh, encSI]; omega)
  have e4 : fld (encSh op d a sh) 0 6 = sh := fld_eq _ _ _ (by simp only [encSh, encSI]; omega)
  have e5 : fldN (encSh op d a sh) 6 6 = 0 := by simp only [fldN, encSh, encSI]; omega
  rw [body_Sh _ op g e1 hb hi hg, e2, e3, e4, e5, zero_zero]

/-- An opcode outside the tables of R48 goes to the other opcodes. -/
theorem scalar_rest (w op : Nat) (i : Instr) (ho : fldN w 24 8 = op) (h1 : op ≠ 1) (hb : branchOf op = none) (hi : immOf op = none)
    (hs : shiftOf op = none) (hr : scalarBody.rest w op = .ok ([], i)) (hw : i.wf = true) : decodeScalar false w = .ok i := by
  apply scalar_ok _ _ _ hw
  rw [body_rest w op ho h1 hb hi hs, hr]

/-! ## Matrix and scale slots -/

theorem arrFmt_code (f : ArrFmt) : ArrFmt.ofCode f.code = some f := by cases f <;> rfl
theorem arrFmt_lt (f : ArrFmt) : f.code < 16 := by cases f <;> decide
theorem space_code (p : Space) : Space.ofCode p.code = some p := by cases p <;> rfl
theorem space_lt (p : Space) : p.code < 8 := by cases p <;> decide
theorem scope_code (c : Scope) : Scope.ofCode c.code = some c := by cases c <;> rfl
theorem scope_lt (c : Scope) : c.code < 8 := by cases c <;> decide
theorem b2n_lt (b : Bool) : b2n b < 2 := by cases b <;> decide
theorem bitN_b2n (w i : Nat) (b : Bool) (h : w / 2 ^ i % 2 = b2n b) : bitN w i = b := by
  simp only [bitN, h]; cases b <;> rfl

theorem mx_ok (w : Nat) (i : Instr) (h : mxBody w = .ok ([], i)) (hw : i.wf = true) : decodeMx w = .ok i := by
  simp [decodeMx, h, checked_ok i hw]

/-- push, acc and accp by their fields. -/
theorem of_push (w : Nat) (s ga gb : BitVec 2) (fa fb : ArrFmt) (p : BitVec 3) (sp : Bool) (e0 : fldN w 28 4 = 0x1)
    (e1 : fldN w 18 4 = fa.code) (e2 : fldN w 14 4 = fb.code) (e3 : bitN w 10 = sp) (f0 : fld w 26 2 = s) (f1 : fld w 24 2 = ga)
    (f2 : fld w 22 2 = gb) (f3 : fld w 11 3 = p) (z0 : fldN w 0 10 = 0) : mxBody w = .ok ([], .push s ga gb fa fb p sp) := by
  simp only [mxBody, beatOf, e0, e1, e2, e3, f0, f1, f2, f3, z0, arrFmt_code, zero_zero]
theorem of_acc (w : Nat) (s : BitVec 2) (fa fb : ArrFmt) (p : BitVec 3) (sp : Bool) (e0 : fldN w 28 4 = 0x2)
    (e1 : fldN w 18 4 = fa.code) (e2 : fldN w 14 4 = fb.code) (e3 : bitN w 10 = sp) (f0 : fld w 26 2 = s) (f1 : fld w 11 3 = p)
    (z0 : fldN w 22 4 = 0) (z1 : fldN w 0 10 = 0) : mxBody w = .ok ([], .acc s fa fb p sp) := by
  simp only [mxBody, beatOf, e0, e1, e2, e3, f0, f1, z0, z1, arrFmt_code, zero_zero, List.append_nil]
theorem of_accp (w : Nat) (s ga gb : BitVec 2) (fa fb : ArrFmt) (p : BitVec 3) (sp : Bool) (t : BitVec 2) (e0 : fldN w 28 4 = 0x3)
    (e1 : fldN w 18 4 = fa.code) (e2 : fldN w 14 4 = fb.code) (e3 : bitN w 10 = sp) (f0 : fld w 26 2 = s) (f1 : fld w 24 2 = ga)
    (f2 : fld w 22 2 = gb) (f3 : fld w 11 3 = p) (f4 : fld w 8 2 = t) (z0 : fldN w 0 8 = 0) :
    mxBody w = .ok ([], .accp s ga gb fa fb p sp t) := by
  simp only [mxBody, beatOf, e0, e1, e2, e3, f0, f1, f2, f3, f4, z0, arrFmt_code, zero_zero]

/-! ## Memory slots -/

/-- A memory slot of each format, by its opcode, its space and its fields. -/
theorem of_M (w op : Nat) (sp : Space) (m : MArgs) (g : MArgs → Instr) (hc : memCOf op = none) (hg : memMOf op = some g)
    (e1 : fldN w 56 8 = op) (e2 : fldN w 53 3 = sp.code) (e3 : memMargs w sp = m) (hw : (g m).wf = true) :
    decodeMem w = .ok (g m) := by
  simp [decodeMem, e1, e2, e3, hc, hg, space_code, checked_ok _ hw]
theorem of_MS (w op : Nat) (sp : Space) (m : MSArgs) (g : MSArgs → Instr) (hc : memCOf op = none) (hm : memMOf op = none)
    (hg : memMSOf op = some g) (e1 : fldN w 56 8 = op) (e2 : fldN w 53 3 = sp.code) (e3 : memMSargs w sp = m)
    (hw : (g m).wf = true) : decodeMem w = .ok (g m) := by
  simp [decodeMem, e1, e2, e3, hc, hm, hg, space_code, checked_ok _ hw]
theorem of_G (w op : Nat) (sp : Space) (m : GArgs) (g : GArgs → Instr) (hc : memCOf op = none) (hm : memMOf op = none)
    (hs : memMSOf op = none) (hg : memGOf op = some g) (e1 : fldN w 56 8 = op) (e2 : fldN w 53 3 = sp.code)
    (e3 : memGargs w sp = m) (e4 : fldN w 3 12 = 0) (hw : (g m).wf = true) : decodeMem w = .ok (g m) := by
  simp [decodeMem, e1, e2, e3, e4, hc, hm, hs, hg, space_code, zero_zero, checked_ok _ hw]
theorem of_A (w op : Nat) (sp : Space) (m : AArgs) (g : AArgs → Instr) (hc : memCOf op = none) (hm : memMOf op = none)
    (hs : memMSOf op = none) (hn : memGOf op = none) (hg : memAOf op = some g) (e1 : fldN w 56 8 = op)
    (e2 : fldN w 53 3 = sp.code) (e3 : memAargs w sp = m) (e4 : fldN w 0 13 = 0) (hw : (g m).wf = true) :
    decodeMem w = .ok (g m) := by
  simp [decodeMem, e1, e2, e3, e4, hc, hm, hs, hn, hg, space_code, zero_zero, checked_ok _ hw]
theorem of_C (w op : Nat) (dsp ssp : Space) (m : CArgs) (g : CArgs → Instr) (hg : memCOf op = some g) (e1 : fldN w 56 8 = op)
    (e2 : fldN w 5 3 = dsp.code) (e3 : fldN w 2 3 = ssp.code) (e4 : fldN w 0 2 = 0) (e5 : memCargs w dsp ssp = m)
    (hw : (g m).wf = true) : decodeMem w = .ok (g m) := by
  simp [decodeMem, e1, e2, e3, e4, e5, hg, space_code, zero_zero, checked_ok _ hw]

theorem mem_M (op : Nat) (m : MArgs) (g : MArgs → Instr) (ho : op < 256) (hc : memCOf op = none) (hg : memMOf op = some g)
    (hw : (g m).wf = true) : decodeMem (encM op m) = .ok (g m) := by
  obtain ⟨sp, cls, land, a, tg, off, grp⟩ := m
  have h1 := space_lt sp; have h2 := cls.isLt; have h3 := land.isLt; have h4 := a.isLt; have h5 := tg.isLt
  have h6 := off.isLt; have h7 := grp.isLt
  generalize hV : encM op ⟨sp, cls, land, a, tg, off, grp⟩ = w
  have hW : op * 2 ^ 56 + sp.code * 2 ^ 53 + cls.toNat * 2 ^ 49 + land.toNat * 2 ^ 37 + a.toNat * 2 ^ 31 + tg.toNat * 2 ^ 23
      + off.toNat * 2 ^ 3 + grp.toNat = w := hV
  clear hV
  have e1 : fldN w 56 8 = op := by simp only [fldN]; omega
  have e2 : fldN w 53 3 = sp.code := by simp only [fldN]; omega
  have e3 : memMargs w sp = ⟨sp, cls, land, a, tg, off, grp⟩ := by
    simp only [memMargs, MArgs.mk.injEq, true_and]
    refine ⟨fld_eq _ _ _ ?_, fld_eq _ _ _ ?_, fld_eq _ _ _ ?_, fld_eq _ _ _ ?_, fld_eq _ _ _ ?_, fld_eq _ _ _ ?_⟩ <;> omega
  exact of_M w op sp _ g hc hg e1 e2 e3 hw

theorem mem_MS (op : Nat) (m : MSArgs) (g : MSArgs → Instr) (ho : op < 256) (hc : memCOf op = none) (hm : memMOf op = none)
    (hg : memMSOf op = some g) (hw : (g m).wf = true) : decodeMem (encMS op m) = .ok (g m) := by
  obtain ⟨sp, cls, land, a, tg, seg, off, grp⟩ := m
  have h1 := space_lt sp; have h2 := cls.isLt; have h3 := land.isLt; have h4 := a.isLt; have h5 := tg.isLt
  have h6 := off.isLt; have h7 := grp.isLt; have h8 := seg.isLt
  generalize hV : encMS op ⟨sp, cls, land, a, tg, seg, off, grp⟩ = w
  have hW : op * 2 ^ 56 + sp.code * 2 ^ 53 + cls.toNat * 2 ^ 49 + land.toNat * 2 ^ 37 + a.toNat * 2 ^ 31 + tg.toNat * 2 ^ 23
      + seg.toNat * 2 ^ 15 + off.toNat * 2 ^ 3 + grp.toNat = w := hV
  clear hV
  have e1 : fldN w 56 8 = op := by simp only [fldN]; omega
  have e2 : fldN w 53 3 = sp.code := by simp only [fldN]; omega
  have e3 : memMSargs w sp = ⟨sp, cls, land, a, tg, seg, off, grp⟩ := by
    simp only [memMSargs, MSArgs.mk.injEq, true_and]
    refine ⟨fld_eq _ _ _ ?_, fld_eq _ _ _ ?_, fld_eq _ _ _ ?_, fld_eq _ _ _ ?_, fld_eq _ _ _ ?_, fld_eq _ _ _ ?_, fld_eq _ _ _ ?_⟩ <;> omega
  exact of_MS w op sp _ g hc hm hg e1 e2 e3 hw

theorem mem_G (op : Nat) (m : GArgs) (g : GArgs → Instr) (ho : op < 256) (hc : memCOf op = none) (hm : memMOf op = none)
    (hs : memMSOf op = none) (hg : memGOf op = some g) (hw : (g m).wf = true) : decodeMem (encG op m) = .ok (g m) := by
  obtain ⟨sp, cls, land, a, vd, vi, grp⟩ := m
  have h1 := space_lt sp; have h2 := cls.isLt; have h3 := land.isLt; have h4 := a.isLt; have h5 := vd.isLt
  have h6 := vi.isLt; have h7 := grp.isLt
  generalize hV : encG op ⟨sp, cls, land, a, vd, vi, grp⟩ = w
  have hW : op * 2 ^ 56 + sp.code * 2 ^ 53 + cls.toNat * 2 ^ 49 + land.toNat * 2 ^ 37 + a.toNat * 2 ^ 31 + vd.toNat * 2 ^ 23
      + vi.toNat * 2 ^ 15 + grp.toNat = w := hV
  clear hV
  have e1 : fldN w 56 8 = op := by simp only [fldN]; omega
  have e2 : fldN w 53 3 = sp.code := by simp only [fldN]; omega
  have e3 : memGargs w sp = ⟨sp, cls, land, a, vd, vi, grp⟩ := by
    simp only [memGargs, GArgs.mk.injEq, true_and]
    refine ⟨fld_eq _ _ _ ?_, fld_eq _ _ _ ?_, fld_eq _ _ _ ?_, fld_eq _ _ _ ?_, fld_eq _ _ _ ?_, fld_eq _ _ _ ?_⟩ <;> omega
  have e4 : fldN w 3 12 = 0 := by simp only [fldN]; omega
  exact of_G w op sp _ g hc hm hs hg e1 e2 e3 e4 hw

theorem mem_A (op : Nat) (m : AArgs) (g : AArgs → Instr) (ho : op < 256) (hc : memCOf op = none) (hm : memMOf op = none)
    (hs : memMSOf op = none) (hn : memGOf op = none) (hg : memAOf op = some g) (hw : (g m).wf = true) :
    decodeMem (encA op m) = .ok (g m) := by
  obtain ⟨sp, cls, land, a, d, v, b⟩ := m
  have h1 := space_lt sp; have h2 := cls.isLt; have h3 := land.isLt; have h4 := a.isLt; have h5 := d.isLt
  have h6 := v.isLt; have h7 := b.isLt
  generalize hV : encA op ⟨sp, cls, land, a, d, v, b⟩ = w
  have hW : op * 2 ^ 56 + sp.code * 2 ^ 53 + cls.toNat * 2 ^ 49 + land.toNat * 2 ^ 37 + a.toNat * 2 ^ 31 + d.toNat * 2 ^ 25
      + v.toNat * 2 ^ 19 + b.toNat * 2 ^ 13 = w := hV
  clear hV
  have e1 : fldN w 56 8 = op := by simp only [fldN]; omega
  have e2 : fldN w 53 3 = sp.code := by simp only [fldN]; omega
  have e3 : memAargs w sp = ⟨sp, cls, land, a, d, v, b⟩ := by
    simp only [memAargs, AArgs.mk.injEq, true_and]
    refine ⟨fld_eq _ _ _ ?_, fld_eq _ _ _ ?_, fld_eq _ _ _ ?_, fld_eq _ _ _ ?_, fld_eq _ _ _ ?_, fld_eq _ _ _ ?_⟩ <;> omega
  have e4 : fldN w 0 13 = 0 := by simp only [fldN]; omega
  exact of_A w op sp _ g hc hm hs hn hg e1 e2 e3 e4 hw

theorem mem_C (op : Nat) (m : CArgs) (g : CArgs → Instr) (ho : op < 256) (hg : memCOf op = some g) (hw : (g m).wf = true) :
    decodeMem (encC op m) = .ok (g m) := by
  obtain ⟨ch, tko, tk0, tk1, tk2, nin, d, s, n, dsp, ssp⟩ := m
  have h1 := ch.isLt; have h2 := tko.isLt; have h3 := tk0.isLt; have h4 := tk1.isLt; have h5 := tk2.isLt
  have h6 := nin.isLt; have h7 := d.isLt; have h8 := s.isLt; have h9 := n.isLt; have h10 := space_lt dsp; have h11 := space_lt ssp
  generalize hV : encC op ⟨ch, tko, tk0, tk1, tk2, nin, d, s, n, dsp, ssp⟩ = w
  have hW : op * 2 ^ 56 + ch.toNat * 2 ^ 52 + tko.toNat * 2 ^ 46 + tk0.toNat * 2 ^ 40 + tk1.toNat * 2 ^ 34 + tk2.toNat * 2 ^ 28
      + nin.toNat * 2 ^ 26 + d.toNat * 2 ^ 20 + s.toNat * 2 ^ 14 + n.toNat * 2 ^ 8 + dsp.code * 2 ^ 5 + ssp.code * 2 ^ 2 = w := hV
  clear hV
  have e1 : fldN w 56 8 = op := by simp only [fldN]; omega
  have e2 : fldN w 5 3 = dsp.code := by simp only [fldN]; omega
  have e3 : fldN w 2 3 = ssp.code := by simp only [fldN]; omega
  have e4 : fldN w 0 2 = 0 := by simp only [fldN]; omega
  have e5 : memCargs w dsp ssp = ⟨ch, tko, tk0, tk1, tk2, nin, d, s, n, dsp, ssp⟩ := by
    simp only [memCargs, CArgs.mk.injEq, and_true]
    refine ⟨fld_eq _ _ _ ?_, fld_eq _ _ _ ?_, fld_eq _ _ _ ?_, fld_eq _ _ _ ?_, fld_eq _ _ _ ?_, fld_eq _ _ _ ?_, fld_eq _ _ _ ?_,
      fld_eq _ _ _ ?_, fld_eq _ _ _ ?_⟩ <;> omega
  exact of_C w op dsp ssp _ g hg e1 e2 e3 e4 e5 hw

/-- A memory slot of the other formats. -/
theorem mem_other (w op : Nat) (i : Instr) (ho : fldN w 56 8 = op) (hc : memCOf op = none) (hm : memMOf op = none)
    (hs : memMSOf op = none) (hn : memGOf op = none) (ha : memAOf op = none) (h : memOther w = .ok i) : decodeMem w = .ok i := by
  simp [decodeMem, ho, hc, hm, hs, hn, ha, h]

/-! ## Move slots -/

theorem vunit_code (u : VUnit) : VUnit.ofCode u.code = some u := by cases u <;> rfl
theorem vunit_lt (u : VUnit) : u.code < 7 := by cases u <;> decide

theorem src_lt (s : Src) : s.code < 512 := by
  cases s with
  | y u => have := vunit_lt u; simp only [Src.code]; omega
  | _ n => have := n.isLt; simp only [Src.code]; omega

theorem src_code (s : Src) : Src.ofCode s.code = some s := by
  cases s with
  | v n => have := n.isLt; simp [Src.code, Src.ofCode, this]
  | x n =>
    have := n.isLt
    have h1 : ¬ (0x100 + n.toNat < 0x100) := by omega
    have h2 : 0x100 + n.toNat < 0x140 := by omega
    simp [Src.code, Src.ofCode, h1, h2]
  | y u => cases u <;> rfl
  | pop n =>
    have := n.isLt
    have h1 : ¬ (0x148 + n.toNat < 0x100) := by omega
    have h2 : ¬ (0x148 + n.toNat < 0x140) := by omega
    have h3 : ¬ (0x148 + n.toNat < 0x147) := by omega
    have h4 : ¬ (0x148 + n.toNat < 0x148) := by omega
    have h5 : 0x148 + n.toNat < 0x14C := by omega
    simp [Src.code, Src.ofCode, h1, h2, h3, h4, h5]
  | peek n =>
    have := n.isLt
    have h1 : ¬ (0x14C + n.toNat < 0x100) := by omega
    have h2 : ¬ (0x14C + n.toNat < 0x140) := by omega
    have h3 : ¬ (0x14C + n.toNat < 0x147) := by omega
    have h4 : ¬ (0x14C + n.toNat < 0x148) := by omega
    have h5 : ¬ (0x14C + n.toNat < 0x14C) := by omega
    have h6 : 0x14C + n.toNat < 0x150 := by omega
    simp [Src.code, Src.ofCode, h1, h2, h3, h4, h5, h6]
  | k n =>
    have := n.isLt
    have h1 : ¬ (0x150 + n.toNat < 0x100) := by omega
    have h2 : ¬ (0x150 + n.toNat < 0x140) := by omega
    have h3 : ¬ (0x150 + n.toNat < 0x147) := by omega
    have h4 : ¬ (0x150 + n.toNat < 0x148) := by omega
    have h5 : ¬ (0x150 + n.toNat < 0x14C) := by omega
    have h6 : ¬ (0x150 + n.toNat < 0x150) := by omega
    have h7 : 0x150 + n.toNat < 0x160 := by omega
    simp [Src.code, Src.ofCode, h1, h2, h3, h4, h5, h6, h7]
  | cst n =>
    have := n.isLt
    have h1 : ¬ (0x180 + n.toNat < 0x100) := by omega
    have h2 : ¬ (0x180 + n.toNat < 0x140) := by omega
    have h3 : ¬ (0x180 + n.toNat < 0x147) := by omega
    have h4 : ¬ (0x180 + n.toNat < 0x148) := by omega
    have h5 : ¬ (0x180 + n.toNat < 0x14C) := by omega
    have h6 : ¬ (0x180 + n.toNat < 0x150) := by omega
    have h7 : ¬ (0x180 + n.toNat < 0x160) := by omega
    have h8 : ¬ (0x180 + n.toNat < 0x180) := by omega
    have h9 : 0x180 + n.toNat < 0x200 := by omega
    simp [Src.code, Src.ofCode, h1, h2, h3, h4, h5, h6, h7, h8, h9]

theorem dst_lt (d : Dst) : d.code < 512 := by
  cases d with
  | latch l => cases l <;> decide
  | _ n => have := n.isLt; simp only [Dst.code]; omega

theorem dst_code (d : Dst) : Dst.ofCode d.code = some d := by
  cases d with
  | v n => have := n.isLt; simp [Dst.code, Dst.ofCode, this]
  | x n =>
    have := n.isLt
    have h1 : ¬ (0x100 + n.toNat < 0x100) := by omega
    have h2 : 0x100 + n.toNat < 0x140 := by omega
    simp [Dst.code, Dst.ofCode, h1, h2]
  | latch l => cases l <;> rfl
  | k n =>
    have := n.isLt
    have h1 : ¬ (0x1F0 + n.toNat < 0x100) := by omega
    have h2 : ¬ (0x1F0 + n.toNat < 0x140) := by omega
    have h3 : ¬ (0x1F0 + n.toNat < 0x151) := by omega
    have h4 : 0x1F0 ≤ 0x1F0 + n.toNat ∧ 0x1F0 + n.toNat < 0x200 := by omega
    simp [Dst.code, Dst.ofCode, h1, h2, h3, h4]

/-- The fields of a move. -/
theorem fields_Mv (s : Src) (d op : Nat) (hd : d < 512) (ho : op < 64) :
    fldN (encMv s d op) 15 9 = s.code ∧ fldN (encMv s d op) 6 9 = d ∧ fldN (encMv s d op) 0 6 = op := by
  have h := src_lt s
  refine ⟨?_, ?_, ?_⟩ <;> simp only [fldN, encMv] <;> omega

/-- A plain move. -/
theorem mv_plain (s : Src) (d : Dst) (hw : (Instr.move s d).wf = true) : decodeMove (encMv s d.code 0) = .ok (.move s d) := by
  obtain ⟨e1, e2, e3⟩ := fields_Mv s d.code 0 (dst_lt d) (by decide)
  simp [decodeMove, e1, e2, e3, src_code, dst_code, zero_zero, checked_ok _ hw]

/-- A move to a trigger port. -/
theorem mv_trigger (s : Src) (d op : Nat) (p : Port) (i : Instr) (hd : d < 512) (ho : op < 64) (hn : Dst.ofCode d = none)
    (hp : Port.ofCode d = some p) (h : decodeTrigger s p op = .ok i) : decodeMove (encMv s d op) = .ok i := by
  obtain ⟨e1, e2, e3⟩ := fields_Mv s d op hd ho
  simp [decodeMove, e1, e2, e3, src_code, hn, hp, h]

/-- A trigger of an arithmetic unit, of vp and of sf. -/
theorem mv_va (op : Nat) (s : Src) (u : VaUnit) (f : Fmt) (g : Src → VaUnit → Fmt → Instr) (ho : op < 64) (hg : vaOf op = some g)
    (hf : f ≠ .b32) (hw : (g s u f).wf = true) : decodeMove (encVa op s u f) = .ok (g s u f) := by
  refine mv_trigger s _ op (.va u f) _ ?_ ho ?_ ?_ (by simp [decodeTrigger, hg, checked_ok _ hw]) <;>
    cases u <;> cases f <;> first | contradiction | decide
theorem mv_vp (op : Nat) (s : Src) (f : Fmt) (g : Src → Fmt → Instr) (ho : op < 64) (hg : vpOf op = some g)
    (hw : (g s f).wf = true) : decodeMove (encVp op s f) = .ok (g s f) := by
  refine mv_trigger s _ op (.vp f) _ ?_ ho ?_ ?_ (by simp [decodeTrigger, hg, checked_ok _ hw]) <;> cases f <;> decide
theorem mv_sf (op : Nat) (s : Src) (f : Fmt) (g : Src → Fmt → Instr) (ho : op < 64) (hg : sfOf op = some g)
    (hf : f = .f32 ∨ f = .bf16) (hw : (g s f).wf = true) : decodeMove (encSf op s f) = .ok (g s f) := by
  refine mv_trigger s _ op (.sf f) _ ?_ ho ?_ ?_ (by simp [decodeTrigger, hg, checked_ok _ hw]) <;>
    rcases hf with rfl | rfl <;> decide

theorem rnd_code (r : Rnd) : Rnd.ofCode r.code = some r := by cases r <;> rfl
theorem rnd_lt (r : Rnd) : r.code < 8 := by cases r <;> decide
theorem ov_code (o : OvPol) : OvPol.ofCode o.code = o := by cases o <;> rfl
theorem ov_lt (o : OvPol) : o.code < 4 := by cases o <;> decide

/-- A conversion down. -/
theorem mv_dn (s : Src) (t : CvFmt) (r : Rnd) (o : OvPol) (hw : (Instr.cvDn s t r o).wf = true) :
    decodeMove (encMv s (Port.cvDn t).code (r.code * 4 + o.code)) = .ok (.cvDn s t r o) := by
  have h1 := rnd_lt r; have h2 := ov_lt o
  refine mv_trigger s _ _ (.cvDn t) _ (by cases t <;> decide) (by omega) (by cases t <;> decide) (by cases t <;> decide) ?_
  have e1 : fldN (r.code * 4 + o.code) 2 3 = r.code := by simp only [fldN]; omega
  have e2 : fldN (r.code * 4 + o.code) 5 1 = 0 := by simp only [fldN]; omega
  have e3 : fldN (r.code * 4 + o.code) 0 2 = o.code := by simp only [fldN]; omega
  simp [decodeTrigger, e1, e2, e3, rnd_code, ov_code, zero_zero, checked_ok _ hw]

/-- A conversion up, exact or rounding. -/
theorem mv_up (s : Src) (t : CvFmt) (ht : t ≠ .i32 ∧ t ≠ .n32) (hw : (Instr.cvUp s t).wf = true) :
    decodeMove (encMv s (Port.cvUp t).code 0) = .ok (.cvUp s t) := by
  refine mv_trigger s _ _ (.cvUp t) _ (by cases t <;> decide) (by decide) (by cases t <;> decide) (by cases t <;> decide) ?_
  simp [decodeTrigger, ht.1, ht.2, zero_zero, checked_ok _ hw]
theorem mv_upRounding (s : Src) (t : CvFmt) (r : Rnd) (ht : t = .i32 ∨ t = .n32) (hw : (Instr.cvUpRounding s t r).wf = true) :
    decodeMove (encMv s (Port.cvUp t).code (r.code * 4)) = .ok (.cvUpRounding s t r) := by
  have h1 := rnd_lt r
  refine mv_trigger s _ _ (.cvUp t) _ (by cases t <;> decide) (by omega) (by cases t <;> decide) (by cases t <;> decide) ?_
  have e1 : fldN (r.code * 4) 2 3 = r.code := by simp only [fldN]; omega
  have e2 : fldN (r.code * 4) 5 1 = 0 := by simp only [fldN]; omega
  have e3 : fldN (r.code * 4) 0 2 = 0 := by simp only [fldN]; omega
  simp [decodeTrigger, e1, e2, e3, ht, rnd_code, zero_zero, checked_ok _ hw]

end Sys2Proof
end

