-- ==== Sys2Proof/Laws/PerInstr.lean ====
section
/-! SUPPORT. The round trip of every instruction: what the encoder lays out for a well-formed instruction, the decoder of its slot
reads back. One lemma per constructor; an event has no slot. -/
namespace Sys2Proof.Laws.RoundTrip

open Sys2Proof

/-- The slot that holds the instruction decodes its word to it (R48 to R62). -/
def Statement (i : Instr) : Prop := ∀ k, i.kind = some k → i.wf = true → decodeSlot k (encode i) = .ok i

theorem elasticDataArrives : ∀ g u, Statement (.elasticDataArrives g u) := fun _ _ k hk => by cases hk
theorem storePerforms : ∀ u, Statement (.storePerforms u) := fun _ k hk => by cases hk
theorem atomicPerforms : ∀ u, Statement (.atomicPerforms u) := fun _ k hk => by cases hk
theorem qldFill : ∀ u, Statement (.qldFill u) := fun _ k hk => by cases hk
theorem lineFill : ∀ line u, Statement (.lineFill line u) := fun _ _ k hk => by cases hk
theorem copyCommandComplete : ∀ n u, Statement (.copyCommandComplete n u) := fun _ _ k hk => by cases hk
theorem bulkChunkDone : ∀ u, Statement (.bulkChunkDone u) := fun _ k hk => by cases hk
theorem reductionComplete : ∀ u, Statement (.reductionComplete u) := fun _ k hk => by cases hk
theorem collectiveMatch : ∀ nb, Statement (.collectiveMatch nb) := fun _ k hk => by cases hk
theorem collectiveComplete : ∀ xs, Statement (.collectiveComplete xs) := fun _ k hk => by cases hk
theorem lateTransition : ∀ units, Statement (.lateTransition units) := fun _ k hk => by cases hk
theorem throtN : ∀ low, Statement (.throtN low) := fun _ k hk => by cases hk
theorem powerInputRestored : ∀ mv ok, Statement (.powerInputRestored mv ok) := fun _ _ k hk => by cases hk
theorem resetN : ∀ ok, Statement (.resetN ok) := fun _ k hk => by cases hk
theorem ptmDialogue : ∀ j offset, Statement (.ptmDialogue j offset) := fun _ _ k hk => by cases hk
theorem hostRead : ∀ h len, Statement (.hostRead h len) := fun _ _ k hk => by cases hk
theorem hostWrite : ∀ h data poison, Statement (.hostWrite h data poison) := fun _ _ _ k hk => by cases hk
theorem atsInvalidate : ∀ j fn va len tag, Statement (.atsInvalidate j fn va len tag) := fun _ _ _ _ _ k hk => by cases hk
theorem prgResponse : ∀ j fn va ok, Statement (.prgResponse j fn va ok) := fun _ _ _ _ k hk => by cases hk
theorem flitReceived : ∀ l crcOk, Statement (.flitReceived l crcOk) := fun _ _ k hk => by cases hk
theorem fabricRequest : ∀ f u, Statement (.fabricRequest f u) := fun _ _ k hk => by cases hk
theorem getId : ∀ r, Statement (.getId r) := fun _ k hk => by cases hk
theorem read : ∀ r, Statement (.read r) := fun _ k hk => by cases hk
theorem subscribe : ∀ r, Statement (.subscribe r) := fun _ k hk => by cases hk
theorem stop : ∀ r, Statement (.stop r) := fun _ k hk => by cases hk
theorem save : ∀ r, Statement (.save r) := fun _ k hk => by cases hk
theorem reset : ∀ r, Statement (.reset r) := fun _ k hk => by cases hk
theorem quarantine : ∀ r, Statement (.quarantine r) := fun _ k hk => by cases hk
theorem challenge : ∀ slot nonce, Statement (.challenge slot nonce) := fun _ _ k hk => by cases hk
theorem agentRegisterWrite : ∀ die off v, Statement (.agentRegisterWrite die off v) := fun _ _ _ k hk => by cases hk
theorem pwrMeasWrite : ∀ v, Statement (.pwrMeasWrite v) := fun _ k hk => by cases hk
theorem wuCtlWrite : ∀ n v, Statement (.wuCtlWrite n v) := fun _ _ k hk => by cases hk
theorem blkCtlWrite : ∀ b v, Statement (.blkCtlWrite b v) := fun _ _ k hk => by cases hk
theorem partCtlWrite : ∀ p v, Statement (.partCtlWrite p v) := fun _ _ k hk => by cases hk
theorem partCoresWrite : ∀ p m v, Statement (.partCoresWrite p m v) := fun _ _ _ k hk => by cases hk
theorem poolCoresWrite : ∀ m v, Statement (.poolCoresWrite m v) := fun _ _ k hk => by cases hk
theorem coreQuarantineWrite : ∀ m v, Statement (.coreQuarantineWrite m v) := fun _ _ k hk => by cases hk
theorem cpyFresResume : ∀ p v, Statement (.cpyFresResume p v) := fun _ _ k hk => by cases hk
theorem cpyFresAbandon : ∀ p v, Statement (.cpyFresAbandon p v) := fun _ _ k hk => by cases hk
theorem ctxRestoreWrite : ∀ p v, Statement (.ctxRestoreWrite p v) := fun _ _ k hk => by cases hk
theorem lqTailWrite : ∀ p q v, Statement (.lqTailWrite p q v) := fun _ _ _ k hk => by cases hk
theorem lqCancelWrite : ∀ p v, Statement (.lqCancelWrite p v) := fun _ _ k hk => by cases hk
theorem pmqPostWrite : ∀ p v, Statement (.pmqPostWrite p v) := fun _ _ k hk => by cases hk
theorem pmqSendWrite : ∀ p v, Statement (.pmqSendWrite p v) := fun _ _ k hk => by cases hk
theorem memHotCtlWrite : ∀ p v, Statement (.memHotCtlWrite p v) := fun _ _ k hk => by cases hk
theorem replayCtlWrite : ∀ n v, Statement (.replayCtlWrite n v) := fun _ _ k hk => by cases hk
theorem marginOfsWrite : ∀ n v, Statement (.marginOfsWrite n v) := fun _ _ k hk => by cases hk
theorem timeSetWrite : ∀ v, Statement (.timeSetWrite v) := fun _ k hk => by cases hk
theorem rootlinkRegWrite : ∀ off v, Statement (.rootlinkRegWrite off v) := fun _ _ k hk => by cases hk
theorem registerWrite : ∀ off lvl v, Statement (.registerWrite off lvl v) := fun _ _ _ k hk => by cases hk
theorem add : ∀ d a b, Statement (.add d a b) := by
  intro d a b k hk hw; cases hk; exact scalar_R 0x00 d a b .add (by decide) rfl hw
theorem sub : ∀ d a b, Statement (.sub d a b) := by
  intro d a b k hk hw; cases hk; exact scalar_R 0x01 d a b .sub (by decide) rfl hw
theorem and : ∀ d a b, Statement (.and d a b) := by
  intro d a b k hk hw; cases hk; exact scalar_R 0x02 d a b .and (by decide) rfl hw
theorem or : ∀ d a b, Statement (.or d a b) := by
  intro d a b k hk hw; cases hk; exact scalar_R 0x03 d a b .or (by decide) rfl hw
theorem xor : ∀ d a b, Statement (.xor d a b) := by
  intro d a b k hk hw; cases hk; exact scalar_R 0x04 d a b .xor (by decide) rfl hw
theorem andn : ∀ d a b, Statement (.andn d a b) := by
  intro d a b k hk hw; cases hk; exact scalar_R 0x05 d a b .andn (by decide) rfl hw
theorem sll : ∀ d a b, Statement (.sll d a b) := by
  intro d a b k hk hw; cases hk; exact scalar_R 0x06 d a b .sll (by decide) rfl hw
theorem srl : ∀ d a b, Statement (.srl d a b) := by
  intro d a b k hk hw; cases hk; exact scalar_R 0x07 d a b .srl (by decide) rfl hw
theorem sra : ∀ d a b, Statement (.sra d a b) := by
  intro d a b k hk hw; cases hk; exact scalar_R 0x08 d a b .sra (by decide) rfl hw
theorem slt : ∀ d a b, Statement (.slt d a b) := by
  intro d a b k hk hw; cases hk; exact scalar_R 0x09 d a b .slt (by decide) rfl hw
theorem sltu : ∀ d a b, Statement (.sltu d a b) := by
  intro d a b k hk hw; cases hk; exact scalar_R 0x0A d a b .sltu (by decide) rfl hw
theorem seq : ∀ d a b, Statement (.seq d a b) := by
  intro d a b k hk hw; cases hk; exact scalar_R 0x0B d a b .seq (by decide) rfl hw
theorem min : ∀ d a b, Statement (.min d a b) := by
  intro d a b k hk hw; cases hk; exact scalar_R 0x0C d a b .min (by decide) rfl hw
theorem max : ∀ d a b, Statement (.max d a b) := by
  intro d a b k hk hw; cases hk; exact scalar_R 0x0D d a b .max (by decide) rfl hw
theorem minu : ∀ d a b, Statement (.minu d a b) := by
  intro d a b k hk hw; cases hk; exact scalar_R 0x0E d a b .minu (by decide) rfl hw
theorem maxu : ∀ d a b, Statement (.maxu d a b) := by
  intro d a b k hk hw; cases hk; exact scalar_R 0x0F d a b .maxu (by decide) rfl hw
theorem mul : ∀ d a b, Statement (.mul d a b) := by
  intro d a b k hk hw; cases hk; exact scalar_R 0x10 d a b .mul (by decide) rfl hw
theorem mulh : ∀ d a b, Statement (.mulh d a b) := by
  intro d a b k hk hw; cases hk; exact scalar_R 0x11 d a b .mulh (by decide) rfl hw
theorem mulhu : ∀ d a b, Statement (.mulhu d a b) := by
  intro d a b k hk hw; cases hk; exact scalar_R 0x12 d a b .mulhu (by decide) rfl hw
theorem div : ∀ d a b, Statement (.div d a b) := by
  intro d a b k hk hw; cases hk; exact scalar_R 0x13 d a b .div (by decide) rfl hw
theorem divu : ∀ d a b, Statement (.divu d a b) := by
  intro d a b k hk hw; cases hk; exact scalar_R 0x14 d a b .divu (by decide) rfl hw
theorem rem : ∀ d a b, Statement (.rem d a b) := by
  intro d a b k hk hw; cases hk; exact scalar_R 0x15 d a b .rem (by decide) rfl hw
theorem remu : ∀ d a b, Statement (.remu d a b) := by
  intro d a b k hk hw; cases hk; exact scalar_R 0x16 d a b .remu (by decide) rfl hw
theorem clz : ∀ d a, Statement (.clz d a) := by
  intro d a k hk hw; cases hk; exact scalar_RR 0x17 d a .clz (by decide) rfl rfl hw
theorem ctz : ∀ d a, Statement (.ctz d a) := by
  intro d a k hk hw; cases hk; exact scalar_RR 0x18 d a .ctz (by decide) rfl rfl hw
theorem popc : ∀ d a, Statement (.popc d a) := by
  intro d a k hk hw; cases hk; exact scalar_RR 0x19 d a .popc (by decide) rfl rfl hw
theorem addi : ∀ d a i, Statement (.addi d a i) := by
  intro d a i k hk hw; cases hk; exact scalar_I 0x02 d a i .addi (by decide) rfl rfl hw
theorem andi : ∀ d a i, Statement (.andi d a i) := by
  intro d a i k hk hw; cases hk; exact scalar_I 0x03 d a i .andi (by decide) rfl rfl hw
theorem ori : ∀ d a i, Statement (.ori d a i) := by
  intro d a i k hk hw; cases hk; exact scalar_I 0x04 d a i .ori (by decide) rfl rfl hw
theorem xori : ∀ d a i, Statement (.xori d a i) := by
  intro d a i k hk hw; cases hk; exact scalar_I 0x05 d a i .xori (by decide) rfl rfl hw
theorem slli : ∀ d a i, Statement (.slli d a i) := by
  intro d a i k hk hw; cases hk; exact scalar_Sh 0x06 d a i .slli (by decide) rfl rfl rfl hw
theorem srli : ∀ d a i, Statement (.srli d a i) := by
  intro d a i k hk hw; cases hk; exact scalar_Sh 0x07 d a i .srli (by decide) rfl rfl rfl hw
theorem srai : ∀ d a i, Statement (.srai d a i) := by
  intro d a i k hk hw; cases hk; exact scalar_Sh 0x08 d a i .srai (by decide) rfl rfl rfl hw
theorem slti : ∀ d a i, Statement (.slti d a i) := by
  intro d a i k hk hw; cases hk; exact scalar_I 0x09 d a i .slti (by decide) rfl rfl hw
theorem sltiu : ∀ d a i, Statement (.sltiu d a i) := by
  intro d a i k hk hw; cases hk; exact scalar_I 0x0A d a i .sltiu (by decide) rfl rfl hw
theorem li : ∀ d i, Statement (.li d i) := by
  intro d i k hk hw; cases hk
  have h0 := d.isLt; have h1 := i.isLt
  generalize hV : encode (.li d i) = w
  have hW : 0x0B * 2 ^ 24 + d.toNat * 2 ^ 18 + i.toNat = w := hV
  clear hV
  have e0 : fldN w 24 8 = 0x0B := by simp only [fldN]; omega
  have f0 : fld w 18 6 = d := fld_eq _ _ _ (by omega)
  have f1 : fld w 0 18 = i := fld_eq _ _ _ (by omega)
  exact scalar_rest w _ _ e0 (by decide) rfl rfl rfl (by simp only [scalarBody.rest, f0, f1]) hw
theorem lui : ∀ d i, Statement (.lui d i) := by
  intro d i k hk hw; cases hk
  have h0 := d.isLt; have h1 := i.isLt
  generalize hV : encode (.lui d i) = w
  have hW : 0x0C * 2 ^ 24 + d.toNat * 2 ^ 18 + i.toNat = w := hV
  clear hV
  have e0 : fldN w 24 8 = 0x0C := by simp only [fldN]; omega
  have f0 : fld w 18 6 = d := fld_eq _ _ _ (by omega)
  have f1 : fld w 0 18 = i := fld_eq _ _ _ (by omega)
  exact scalar_rest w _ _ e0 (by decide) rfl rfl rfl (by simp only [scalarBody.rest, f0, f1]) hw
theorem lsh : ∀ d i, Statement (.lsh d i) := by
  intro d i k hk hw; cases hk
  have h0 := d.isLt; have h1 := i.isLt
  generalize hV : encode (.lsh d i) = w
  have hW : 0x0D * 2 ^ 24 + d.toNat * 2 ^ 18 + i.toNat = w := hV
  clear hV
  have e0 : fldN w 24 8 = 0x0D := by simp only [fldN]; omega
  have f0 : fld w 18 6 = d := fld_eq _ _ _ (by omega)
  have f1 : fld w 0 18 = i := fld_eq _ _ _ (by omega)
  exact scalar_rest w _ _ e0 (by decide) rfl rfl rfl (by simp only [scalarBody.rest, f0, f1]) hw
theorem beq : ∀ a b o, Statement (.beq a b o) := by
  intro a b o k hk hw; cases hk; exact scalar_B 0x10 a b o .beq (by decide) rfl hw
theorem bne : ∀ a b o, Statement (.bne a b o) := by
  intro a b o k hk hw; cases hk; exact scalar_B 0x11 a b o .bne (by decide) rfl hw
theorem blt : ∀ a b o, Statement (.blt a b o) := by
  intro a b o k hk hw; cases hk; exact scalar_B 0x12 a b o .blt (by decide) rfl hw
theorem bge : ∀ a b o, Statement (.bge a b o) := by
  intro a b o k hk hw; cases hk; exact scalar_B 0x13 a b o .bge (by decide) rfl hw
theorem bltu : ∀ a b o, Statement (.bltu a b o) := by
  intro a b o k hk hw; cases hk; exact scalar_B 0x14 a b o .bltu (by decide) rfl hw
theorem bgeu : ∀ a b o, Statement (.bgeu a b o) := by
  intro a b o k hk hw; cases hk; exact scalar_B 0x15 a b o .bgeu (by decide) rfl hw
theorem j : ∀ o, Statement (.j o) := by
  intro o k hk hw; cases hk
  have h0 := o.isLt
  generalize hV : encode (.j o) = w
  have hW : 0x16 * 2 ^ 24 + o.toNat = w := hV
  clear hV
  have e0 : fldN w 24 8 = 0x16 := by simp only [fldN]; omega
  have f0 : fld w 0 24 = o := fld_eq _ _ _ (by omega)
  exact scalar_rest w _ _ e0 (by decide) rfl rfl rfl (by simp only [scalarBody.rest, f0]) hw
theorem jl : ∀ d o, Statement (.jl d o) := by
  intro d o k hk hw; cases hk
  have h0 := d.isLt; have h1 := o.isLt
  generalize hV : encode (.jl d o) = w
  have hW : 0x17 * 2 ^ 24 + d.toNat * 2 ^ 18 + o.toNat = w := hV
  clear hV
  have e0 : fldN w 24 8 = 0x17 := by simp only [fldN]; omega
  have f0 : fld w 18 6 = d := fld_eq _ _ _ (by omega)
  have f1 : fld w 0 18 = o := fld_eq _ _ _ (by omega)
  exact scalar_rest w _ _ e0 (by decide) rfl rfl rfl (by simp only [scalarBody.rest, f0, f1]) hw
theorem jr : ∀ a, Statement (.jr a) := by
  intro a k hk hw; cases hk
  have h0 := a.isLt
  generalize hV : encode (.jr a) = w
  have hW : 0x18 * 2 ^ 24 + 0 * 2 ^ 18 + a.toNat * 2 ^ 12 + 0 = w := hV
  clear hV
  have e0 : fldN w 24 8 = 0x18 := by simp only [fldN]; omega
  have f0 : fld w 12 6 = a := fld_eq _ _ _ (by omega)
  have z0 : fldN w 18 6 = 0 := by simp only [fldN]; omega
  have z1 : fldN w 0 12 = 0 := by simp only [fldN]; omega
  exact scalar_rest w _ _ e0 (by decide) rfl rfl rfl (by simp only [scalarBody.rest, zero_zero, f0, z0, z1, List.append_nil]) hw
theorem jlr : ∀ d a, Statement (.jlr d a) := by
  intro d a k hk hw; cases hk
  have h0 := d.isLt; have h1 := a.isLt
  generalize hV : encode (.jlr d a) = w
  have hW : 0x19 * 2 ^ 24 + d.toNat * 2 ^ 18 + a.toNat * 2 ^ 12 + 0 = w := hV
  clear hV
  have e0 : fldN w 24 8 = 0x19 := by simp only [fldN]; omega
  have f0 : fld w 18 6 = d := fld_eq _ _ _ (by omega)
  have f1 : fld w 12 6 = a := fld_eq _ _ _ (by omega)
  have z0 : fldN w 0 12 = 0 := by simp only [fldN]; omega
  exact scalar_rest w _ _ e0 (by decide) rfl rfl rfl (by simp only [scalarBody.rest, zero_zero, f0, f1, z0]) hw
theorem loop : ∀ n a o, Statement (.loop n a o) := by
  intro n a o k hk hw; cases hk
  have h0 := n.isLt; have h1 := a.isLt; have h2 := o.isLt
  generalize hV : encode (.loop n a o) = w
  have hW : 0x20 * 2 ^ 24 + n.toNat * 2 ^ 22 + a.toNat * 2 ^ 12 + o.toNat = w := hV
  clear hV
  have e0 : fldN w 24 8 = 0x20 := by simp only [fldN]; omega
  have f0 : fld w 22 2 = n := fld_eq _ _ _ (by omega)
  have f1 : fld w 12 6 = a := fld_eq _ _ _ (by omega)
  have f2 : fld w 0 12 = o := fld_eq _ _ _ (by omega)
  have z0 : fldN w 18 4 = 0 := by simp only [fldN]; omega
  exact scalar_rest w _ _ e0 (by decide) rfl rfl rfl (by simp only [scalarBody.rest, zero_zero, f0, f1, f2, z0]) hw
theorem loopi : ∀ n c o, Statement (.loopi n c o) := by
  intro n c o k hk hw; cases hk
  have h0 := n.isLt; have h1 := c.isLt; have h2 := o.isLt
  generalize hV : encode (.loopi n c o) = w
  have hW : 0x21 * 2 ^ 24 + n.toNat * 2 ^ 22 + c.toNat * 2 ^ 12 + o.toNat = w := hV
  clear hV
  have e0 : fldN w 24 8 = 0x21 := by simp only [fldN]; omega
  have f0 : fld w 22 2 = n := fld_eq _ _ _ (by omega)
  have f1 : fld w 12 10 = c := fld_eq _ _ _ (by omega)
  have f2 : fld w 0 12 = o := fld_eq _ _ _ (by omega)
  exact scalar_rest w _ _ e0 (by decide) rfl rfl rfl (by simp only [scalarBody.rest, f0, f1, f2]) hw
theorem lcrd : ∀ d n, Statement (.lcrd d n) := by
  intro d n k hk hw; cases hk
  have h0 := d.isLt; have h1 := n.isLt
  generalize hV : encode (.lcrd d n) = w
  have hW : 0x22 * 2 ^ 24 + d.toNat * 2 ^ 18 + n.toNat * 2 ^ 12 + 0 = w := hV
  clear hV
  have e0 : fldN w 24 8 = 0x22 := by simp only [fldN]; omega
  have f0 : fld w 18 6 = d := fld_eq _ _ _ (by omega)
  have f1 : fld w 12 2 = n := fld_eq _ _ _ (by omega)
  have z0 : fldN w 14 4 = 0 := by simp only [fldN]; omega
  have z1 : fldN w 0 12 = 0 := by simp only [fldN]; omega
  exact scalar_rest w _ _ e0 (by decide) rfl rfl rfl (by simp only [scalarBody.rest, zero_zero, f0, f1, z0, z1, List.append_nil]) hw
theorem agbase : ∀ n a, Statement (.agbase n a) := by
  intro n a k hk hw; cases hk
  have h0 := n.isLt; have h1 := a.isLt
  generalize hV : encode (.agbase n a) = w
  have hW : 0x28 * 2 ^ 24 + n.toNat * 2 ^ 18 + a.toNat * 2 ^ 12 + 0 = w := hV
  clear hV
  have e0 : fldN w 24 8 = 0x28 := by simp only [fldN]; omega
  have f0 : fld w 18 2 = n := fld_eq _ _ _ (by omega)
  have f1 : fld w 12 6 = a := fld_eq _ _ _ (by omega)
  have z0 : fldN w 20 4 = 0 := by simp only [fldN]; omega
  have z1 : fldN w 0 12 = 0 := by simp only [fldN]; omega
  exact scalar_rest w _ _ e0 (by decide) rfl rfl rfl (by simp only [scalarBody.rest, zero_zero, f0, f1, z0, z1, List.append_nil]) hw
theorem agstep : ∀ n a, Statement (.agstep n a) := by
  intro n a k hk hw; cases hk
  have h0 := n.isLt; have h1 := a.isLt
  generalize hV : encode (.agstep n a) = w
  have hW : 0x29 * 2 ^ 24 + n.toNat * 2 ^ 18 + a.toNat * 2 ^ 12 + 0 = w := hV
  clear hV
  have e0 : fldN w 24 8 = 0x29 := by simp only [fldN]; omega
  have f0 : fld w 18 2 = n := fld_eq _ _ _ (by omega)
  have f1 : fld w 12 6 = a := fld_eq _ _ _ (by omega)
  have z0 : fldN w 20 4 = 0 := by simp only [fldN]; omega
  have z1 : fldN w 0 12 = 0 := by simp only [fldN]; omega
  exact scalar_rest w _ _ e0 (by decide) rfl rfl rfl (by simp only [scalarBody.rest, zero_zero, f0, f1, z0, z1, List.append_nil]) hw
theorem agwrap : ∀ n a, Statement (.agwrap n a) := by
  intro n a k hk hw; cases hk
  have h0 := n.isLt; have h1 := a.isLt
  generalize hV : encode (.agwrap n a) = w
  have hW : 0x2A * 2 ^ 24 + n.toNat * 2 ^ 18 + a.toNat * 2 ^ 12 + 0 = w := hV
  clear hV
  have e0 : fldN w 24 8 = 0x2A := by simp only [fldN]; omega
  have f0 : fld w 18 2 = n := fld_eq _ _ _ (by omega)
  have f1 : fld w 12 6 = a := fld_eq _ _ _ (by omega)
  have z0 : fldN w 20 4 = 0 := by simp only [fldN]; omega
  have z1 : fldN w 0 12 = 0 := by simp only [fldN]; omega
  exact scalar_rest w _ _ e0 (by decide) rfl rfl rfl (by simp only [scalarBody.rest, zero_zero, f0, f1, z0, z1, List.append_nil]) hw
theorem agrd : ∀ d n, Statement (.agrd d n) := by
  intro d n k hk hw; cases hk
  have h0 := d.isLt; have h1 := n.isLt
  generalize hV : encode (.agrd d n) = w
  have hW : 0x2B * 2 ^ 24 + d.toNat * 2 ^ 18 + n.toNat * 2 ^ 12 + 0 = w := hV
  clear hV
  have e0 : fldN w 24 8 = 0x2B := by simp only [fldN]; omega
  have f0 : fld w 18 6 = d := fld_eq _ _ _ (by omega)
  have f1 : fld w 12 2 = n := fld_eq _ _ _ (by omega)
  have z0 : fldN w 14 4 = 0 := by simp only [fldN]; omega
  have z1 : fldN w 0 12 = 0 := by simp only [fldN]; omega
  exact scalar_rest w _ _ e0 (by decide) rfl rfl rfl (by simp only [scalarBody.rest, zero_zero, f0, f1, z0, z1, List.append_nil]) hw
theorem srrd : ∀ d s, Statement (.srrd d s) := by
  intro d s k hk hw; cases hk
  have h0 := d.isLt; have h1 := s.isLt
  generalize hV : encode (.srrd d s) = w
  have hW : 0x30 * 2 ^ 24 + d.toNat * 2 ^ 18 + 0 * 2 ^ 12 + s.toNat = w := hV
  clear hV
  have e0 : fldN w 24 8 = 0x30 := by simp only [fldN]; omega
  have f0 : fld w 18 6 = d := fld_eq _ _ _ (by omega)
  have f1 : fld w 0 12 = s := fld_eq _ _ _ (by omega)
  have z0 : fldN w 12 6 = 0 := by simp only [fldN]; omega
  exact scalar_rest w _ _ e0 (by decide) rfl rfl rfl (by simp only [scalarBody.rest, zero_zero, f0, f1, z0]) hw
theorem srwr : ∀ s a, Statement (.srwr s a) := by
  intro s a k hk hw; cases hk
  have h0 := s.isLt; have h1 := a.isLt
  generalize hV : encode (.srwr s a) = w
  have hW : 0x31 * 2 ^ 24 + 0 * 2 ^ 18 + a.toNat * 2 ^ 12 + s.toNat = w := hV
  clear hV
  have e0 : fldN w 24 8 = 0x31 := by simp only [fldN]; omega
  have f0 : fld w 0 12 = s := fld_eq _ _ _ (by omega)
  have f1 : fld w 12 6 = a := fld_eq _ _ _ (by omega)
  have z0 : fldN w 18 6 = 0 := by simp only [fldN]; omega
  exact scalar_rest w _ _ e0 (by decide) rfl rfl rfl (by simp only [scalarBody.rest, zero_zero, f0, f1, z0]) hw
theorem srset : ∀ s a, Statement (.srset s a) := by
  intro s a k hk hw; cases hk
  have h0 := s.isLt; have h1 := a.isLt
  generalize hV : encode (.srset s a) = w
  have hW : 0x32 * 2 ^ 24 + 0 * 2 ^ 18 + a.toNat * 2 ^ 12 + s.toNat = w := hV
  clear hV
  have e0 : fldN w 24 8 = 0x32 := by simp only [fldN]; omega
  have f0 : fld w 0 12 = s := fld_eq _ _ _ (by omega)
  have f1 : fld w 12 6 = a := fld_eq _ _ _ (by omega)
  have z0 : fldN w 18 6 = 0 := by simp only [fldN]; omega
  exact scalar_rest w _ _ e0 (by decide) rfl rfl rfl (by simp only [scalarBody.rest, zero_zero, f0, f1, z0]) hw
theorem srclr : ∀ s a, Statement (.srclr s a) := by
  intro s a k hk hw; cases hk
  have h0 := s.isLt; have h1 := a.isLt
  generalize hV : encode (.srclr s a) = w
  have hW : 0x33 * 2 ^ 24 + 0 * 2 ^ 18 + a.toNat * 2 ^ 12 + s.toNat = w := hV
  clear hV
  have e0 : fldN w 24 8 = 0x33 := by simp only [fldN]; omega
  have f0 : fld w 0 12 = s := fld_eq _ _ _ (by omega)
  have f1 : fld w 12 6 = a := fld_eq _ _ _ (by omega)
  have z0 : fldN w 18 6 = 0 := by simp only [fldN]; omega
  exact scalar_rest w _ _ e0 (by decide) rfl rfl rfl (by simp only [scalarBody.rest, zero_zero, f0, f1, z0]) hw
theorem trap : ∀ i, Statement (.trap i) := by
  intro i k hk hw; cases hk
  have h0 := i.isLt
  generalize hV : encode (.trap i) = w
  have hW : 0x38 * 2 ^ 24 + 0 * 2 ^ 18 + 0 * 2 ^ 12 + i.toNat = w := hV
  clear hV
  have e0 : fldN w 24 8 = 0x38 := by simp only [fldN]; omega
  have f0 : fld w 0 12 = i := fld_eq _ _ _ (by omega)
  have z0 : fldN w 12 12 = 0 := by simp only [fldN]; omega
  exact scalar_rest w _ _ e0 (by decide) rfl rfl rfl (by simp only [scalarBody.rest, zero_zero, f0, z0]) hw
theorem brk : ∀ i, Statement (.brk i) := by
  intro i k hk hw; cases hk
  have h0 := i.isLt
  generalize hV : encode (.brk i) = w
  have hW : 0x3A * 2 ^ 24 + 0 * 2 ^ 18 + 0 * 2 ^ 12 + i.toNat = w := hV
  clear hV
  have e0 : fldN w 24 8 = 0x3A := by simp only [fldN]; omega
  have f0 : fld w 0 12 = i := fld_eq _ _ _ (by omega)
  have z0 : fldN w 12 12 = 0 := by simp only [fldN]; omega
  exact scalar_rest w _ _ e0 (by decide) rfl rfl rfl (by simp only [scalarBody.rest, zero_zero, f0, z0]) hw
theorem gsres : ∀ a, Statement (.gsres a) := by
  intro a k hk hw; cases hk
  have h0 := a.isLt
  generalize hV : encode (.gsres a) = w
  have hW : 0x3C * 2 ^ 24 + 0 * 2 ^ 18 + a.toNat * 2 ^ 12 + 0 = w := hV
  clear hV
  have e0 : fldN w 24 8 = 0x3C := by simp only [fldN]; omega
  have f0 : fld w 12 6 = a := fld_eq _ _ _ (by omega)
  have z0 : fldN w 18 6 = 0 := by simp only [fldN]; omega
  have z1 : fldN w 0 12 = 0 := by simp only [fldN]; omega
  exact scalar_rest w _ _ e0 (by decide) rfl rfl rfl (by simp only [scalarBody.rest, zero_zero, f0, z0, z1, List.append_nil]) hw
theorem push : ∀ s ga gb fa fb p sp, Statement (.push s ga gb fa fb p sp) := by
  intro s ga gb fa fb p sp k hk hw; cases hk
  have h0 := s.isLt; have h1 := ga.isLt; have h2 := gb.isLt; have h3 := p.isLt; have h4 := arrFmt_lt fa; have h5 := arrFmt_lt fb; have h6 := b2n_lt sp
  generalize hV : encode (.push s ga gb fa fb p sp) = w
  have hW : 0x1 * 2 ^ 28 + s.toNat * 2 ^ 26 + ga.toNat * 2 ^ 24 + gb.toNat * 2 ^ 22 + fa.code * 2 ^ 18 + fb.code * 2 ^ 14 + p.toNat * 2 ^ 11
      + b2n sp * 2 ^ 10 + 0 * 2 ^ 8 = w := hV
  clear hV
  have e0 : fldN w 28 4 = 0x1 := by simp only [fldN]; omega
  have e1 : fldN w 18 4 = fa.code := by simp only [fldN]; omega
  have e2 : fldN w 14 4 = fb.code := by simp only [fldN]; omega
  have e3 : bitN w 10 = sp := bitN_b2n _ _ _ (by omega)
  have f0 : fld w 26 2 = s := fld_eq _ _ _ (by omega)
  have f1 : fld w 24 2 = ga := fld_eq _ _ _ (by omega)
  have f2 : fld w 22 2 = gb := fld_eq _ _ _ (by omega)
  have f3 : fld w 11 3 = p := fld_eq _ _ _ (by omega)
  have z0 : fldN w 0 10 = 0 := by simp only [fldN]; omega
  exact mx_ok w _ (of_push w s ga gb fa fb p sp e0 e1 e2 e3 f0 f1 f2 f3 z0) hw
theorem acc : ∀ s fa fb p sp, Statement (.acc s fa fb p sp) := by
  intro s fa fb p sp k hk hw; cases hk
  have h0 := s.isLt; have h1 := p.isLt; have h2 := arrFmt_lt fa; have h3 := arrFmt_lt fb; have h4 := b2n_lt sp
  generalize hV : encode (.acc s fa fb p sp) = w
  have hW : 0x2 * 2 ^ 28 + s.toNat * 2 ^ 26 + 0 * 2 ^ 24 + 0 * 2 ^ 22 + fa.code * 2 ^ 18 + fb.code * 2 ^ 14 + p.toNat * 2 ^ 11
      + b2n sp * 2 ^ 10 + 0 * 2 ^ 8 = w := hV
  clear hV
  have e0 : fldN w 28 4 = 0x2 := by simp only [fldN]; omega
  have e1 : fldN w 18 4 = fa.code := by simp only [fldN]; omega
  have e2 : fldN w 14 4 = fb.code := by simp only [fldN]; omega
  have e3 : bitN w 10 = sp := bitN_b2n _ _ _ (by omega)
  have f0 : fld w 26 2 = s := fld_eq _ _ _ (by omega)
  have f1 : fld w 11 3 = p := fld_eq _ _ _ (by omega)
  have z0 : fldN w 22 4 = 0 := by simp only [fldN]; omega
  have z1 : fldN w 0 10 = 0 := by simp only [fldN]; omega
  exact mx_ok w _ (of_acc w s fa fb p sp e0 e1 e2 e3 f0 f1 z0 z1) hw
theorem accp : ∀ s ga gb fa fb p sp t, Statement (.accp s ga gb fa fb p sp t) := by
  intro s ga gb fa fb p sp t k hk hw; cases hk
  have h0 := s.isLt; have h1 := ga.isLt; have h2 := gb.isLt; have h3 := p.isLt; have h4 := t.isLt; have h5 := arrFmt_lt fa; have h6 := arrFmt_lt fb; have h7 := b2n_lt sp
  generalize hV : encode (.accp s ga gb fa fb p sp t) = w
  have hW : 0x3 * 2 ^ 28 + s.toNat * 2 ^ 26 + ga.toNat * 2 ^ 24 + gb.toNat * 2 ^ 22 + fa.code * 2 ^ 18 + fb.code * 2 ^ 14 + p.toNat * 2 ^ 11
      + b2n sp * 2 ^ 10 + t.toNat * 2 ^ 8 = w := hV
  clear hV
  have e0 : fldN w 28 4 = 0x3 := by simp only [fldN]; omega
  have e1 : fldN w 18 4 = fa.code := by simp only [fldN]; omega
  have e2 : fldN w 14 4 = fb.code := by simp only [fldN]; omega
  have e3 : bitN w 10 = sp := bitN_b2n _ _ _ (by omega)
  have f0 : fld w 26 2 = s := fld_eq _ _ _ (by omega)
  have f1 : fld w 24 2 = ga := fld_eq _ _ _ (by omega)
  have f2 : fld w 22 2 = gb := fld_eq _ _ _ (by omega)
  have f3 : fld w 11 3 = p := fld_eq _ _ _ (by omega)
  have f4 : fld w 8 2 = t := fld_eq _ _ _ (by omega)
  have z0 : fldN w 0 8 = 0 := by simp only [fldN]; omega
  exact mx_ok w _ (of_accp w s ga gb fa fb p sp t e0 e1 e2 e3 f0 f1 f2 f3 f4 z0) hw
theorem shift : ∀ s n, Statement (.shift s n) := by
  intro s n k hk hw; cases hk
  have h0 := s.isLt; have h1 := n.isLt
  generalize hV : encode (.shift s n) = w
  have hW : 0x4 * 2 ^ 28 + s.toNat * 2 ^ 26 + n.toNat * 2 ^ 23 = w := hV
  clear hV
  have e0 : fldN w 28 4 = 0x4 := by simp only [fldN]; omega
  have f0 : fld w 26 2 = s := fld_eq _ _ _ (by omega)
  have f1 : fld w 23 3 = n := fld_eq _ _ _ (by omega)
  have z0 : fldN w 0 23 = 0 := by simp only [fldN]; omega
  exact mx_ok w _ (by simp only [mxBody, e0, zero_zero, f0, f1, z0]) hw
theorem drain : ∀ t g a f, Statement (.drain t g a f) := by
  intro t g a f k hk hw; cases hk
  have h0 := t.isLt; have h1 := g.isLt; have h2 := b2n_lt a; have h3 := b2n_lt f
  generalize hV : encode (.drain t g a f) = w
  have hW : 0x6 * 2 ^ 28 + t.toNat * 2 ^ 23 + g.toNat * 2 ^ 19 + b2n a * 2 ^ 18 + b2n f * 2 ^ 17 = w := hV
  clear hV
  have e0 : fldN w 28 4 = 0x6 := by simp only [fldN]; omega
  have f0 : fld w 23 5 = t := fld_eq _ _ _ (by omega)
  have f1 : fld w 19 4 = g := fld_eq _ _ _ (by omega)
  have f2 : bitN w 18 = a := bitN_b2n _ _ _ (by omega)
  have f3 : bitN w 17 = f := bitN_b2n _ _ _ (by omega)
  have z0 : fldN w 0 17 = 0 := by simp only [fldN]; omega
  exact mx_ok w _ (by simp only [mxBody, e0, zero_zero, f0, f1, f2, f3, z0]) hw
theorem mloc : ∀ vd, Statement (.mloc vd) := by
  intro vd k hk hw; cases hk
  have h0 := vd.isLt
  generalize hV : encode (.mloc vd) = w
  have hW : 0x8 * 2 ^ 28 + vd.toNat * 2 ^ 20 = w := hV
  clear hV
  have e0 : fldN w 28 4 = 0x8 := by simp only [fldN]; omega
  have f0 : fld w 20 8 = vd := fld_eq _ _ _ (by omega)
  have z0 : fldN w 0 20 = 0 := by simp only [fldN]; omega
  exact mx_ok w _ (by simp only [mxBody, e0, zero_zero, f0, z0]) hw
theorem mfix : ∀ i j, Statement (.mfix i j) := by
  intro i j k hk hw; cases hk
  have h0 := i.isLt; have h1 := j.isLt
  generalize hV : encode (.mfix i j) = w
  have hW : 0x9 * 2 ^ 28 + i.toNat * 2 ^ 21 + j.toNat * 2 ^ 14 = w := hV
  clear hV
  have e0 : fldN w 28 4 = 0x9 := by simp only [fldN]; omega
  have f0 : fld w 21 7 = i := fld_eq _ _ _ (by omega)
  have f1 : fld w 14 7 = j := fld_eq _ _ _ (by omega)
  have z0 : fldN w 0 14 = 0 := by simp only [fldN]; omega
  exact mx_ok w _ (by simp only [mxBody, e0, zero_zero, f0, f1, z0]) hw
theorem scla : ∀ s g, Statement (.scla s g) := by
  intro s g k hk hw; cases hk
  have h0 := s.isLt; have h1 := g.isLt
  generalize hV : encode (.scla s g) = w
  have hW : 0x1 * 2 ^ 28 + s.toNat * 2 ^ 26 + g.toNat * 2 ^ 24 = w := hV
  clear hV
  have e0 : fldN w 28 4 = 0x1 := by simp only [fldN]; omega
  have f0 : fld w 26 2 = s := fld_eq _ _ _ (by omega)
  have f1 : fld w 24 2 = g := fld_eq _ _ _ (by omega)
  have z0 : fldN w 0 22 = 0 := by simp only [fldN]; omega
  have z1 : fldN w 22 2 = 0 := by simp only [fldN]; omega
  show decodeSc w = _
  simp only [decodeSc, e0, zero_zero, f0, f1, z0, z1, List.append_nil, checked_ok _ hw]
theorem sclb : ∀ s g, Statement (.sclb s g) := by
  intro s g k hk hw; cases hk
  have h0 := s.isLt; have h1 := g.isLt
  generalize hV : encode (.sclb s g) = w
  have hW : 0x2 * 2 ^ 28 + s.toNat * 2 ^ 26 + g.toNat * 2 ^ 24 = w := hV
  clear hV
  have e0 : fldN w 28 4 = 0x2 := by simp only [fldN]; omega
  have f0 : fld w 26 2 = s := fld_eq _ _ _ (by omega)
  have f1 : fld w 24 2 = g := fld_eq _ _ _ (by omega)
  have z0 : fldN w 0 22 = 0 := by simp only [fldN]; omega
  have z1 : fldN w 22 2 = 0 := by simp only [fldN]; omega
  show decodeSc w = _
  simp only [decodeSc, e0, zero_zero, f0, f1, z0, z1, List.append_nil, checked_ok _ hw]
theorem smap : ∀ g, Statement (.smap g) := by
  intro g k hk hw; cases hk
  have h0 := g.isLt
  generalize hV : encode (.smap g) = w
  have hW : 0x3 * 2 ^ 28 + g.toNat * 2 ^ 24 = w := hV
  clear hV
  have e0 : fldN w 28 4 = 0x3 := by simp only [fldN]; omega
  have f0 : fld w 24 2 = g := fld_eq _ _ _ (by omega)
  have z0 : fldN w 0 22 = 0 := by simp only [fldN]; omega
  have z1 : fldN w 22 2 = 0 := by simp only [fldN]; omega
  have z2 : fldN w 26 2 = 0 := by simp only [fldN]; omega
  show decodeSc w = _
  simp only [decodeSc, e0, zero_zero, f0, z0, z1, z2, List.append_nil, checked_ok _ hw]
theorem sidx : ∀ s g kw, Statement (.sidx s g kw) := by
  intro s g kw k hk hw; cases hk
  have h0 := s.isLt; have h1 := g.isLt; have h2 := kw.isLt
  generalize hV : encode (.sidx s g kw) = w
  have hW : 0x4 * 2 ^ 28 + s.toNat * 2 ^ 26 + g.toNat * 2 ^ 24 + kw.toNat * 2 ^ 22 = w := hV
  clear hV
  have e0 : fldN w 28 4 = 0x4 := by simp only [fldN]; omega
  have f0 : fld w 26 2 = s := fld_eq _ _ _ (by omega)
  have f1 : fld w 24 2 = g := fld_eq _ _ _ (by omega)
  have f2 : fld w 22 2 = kw := fld_eq _ _ _ (by omega)
  have z0 : fldN w 0 22 = 0 := by simp only [fldN]; omega
  show decodeSc w = _
  simp only [decodeSc, e0, zero_zero, f0, f1, f2, z0, checked_ok _ hw]
theorem move : ∀ s d, Statement (.move s d) := by
  intro s d k hk hw; cases hk; exact mv_plain s d hw
theorem vaMov : ∀ s u f, Statement (.vaMov s u f) := by
  intro s u f k hk hw; cases hk; exact mv_va 0x00 s u f .vaMov (by decide) rfl (by rintro rfl; cases hw) hw
theorem vaAdd : ∀ s u f, Statement (.vaAdd s u f) := by
  intro s u f k hk hw; cases hk; exact mv_va 0x01 s u f .vaAdd (by decide) rfl (by rintro rfl; cases hw) hw
theorem vaSub : ∀ s u f, Statement (.vaSub s u f) := by
  intro s u f k hk hw; cases hk; exact mv_va 0x02 s u f .vaSub (by decide) rfl (by rintro rfl; cases hw) hw
theorem vaMul : ∀ s u f, Statement (.vaMul s u f) := by
  intro s u f k hk hw; cases hk; exact mv_va 0x03 s u f .vaMul (by decide) rfl (by rintro rfl; cases hw) hw
theorem vaFma : ∀ s u f, Statement (.vaFma s u f) := by
  intro s u f k hk hw; cases hk; exact mv_va 0x04 s u f .vaFma (by decide) rfl (by rintro rfl; cases hw) hw
theorem vaFms : ∀ s u f, Statement (.vaFms s u f) := by
  intro s u f k hk hw; cases hk; exact mv_va 0x05 s u f .vaFms (by decide) rfl (by rintro rfl; cases hw) hw
theorem vaFnma : ∀ s u f, Statement (.vaFnma s u f) := by
  intro s u f k hk hw; cases hk; exact mv_va 0x06 s u f .vaFnma (by decide) rfl (by rintro rfl; cases hw) hw
theorem vaMin : ∀ s u f, Statement (.vaMin s u f) := by
  intro s u f k hk hw; cases hk; exact mv_va 0x07 s u f .vaMin (by decide) rfl (by rintro rfl; cases hw) hw
theorem vaMax : ∀ s u f, Statement (.vaMax s u f) := by
  intro s u f k hk hw; cases hk; exact mv_va 0x08 s u f .vaMax (by decide) rfl (by rintro rfl; cases hw) hw
theorem vaAbs : ∀ s u f, Statement (.vaAbs s u f) := by
  intro s u f k hk hw; cases hk; exact mv_va 0x09 s u f .vaAbs (by decide) rfl (by rintro rfl; cases hw) hw
theorem vaNeg : ∀ s u f, Statement (.vaNeg s u f) := by
  intro s u f k hk hw; cases hk; exact mv_va 0x0A s u f .vaNeg (by decide) rfl (by rintro rfl; cases hw) hw
theorem vaAnd : ∀ s u f, Statement (.vaAnd s u f) := by
  intro s u f k hk hw; cases hk; exact mv_va 0x0B s u f .vaAnd (by decide) rfl (by rintro rfl; cases hw) hw
theorem vaOr : ∀ s u f, Statement (.vaOr s u f) := by
  intro s u f k hk hw; cases hk; exact mv_va 0x0C s u f .vaOr (by decide) rfl (by rintro rfl; cases hw) hw
theorem vaXor : ∀ s u f, Statement (.vaXor s u f) := by
  intro s u f k hk hw; cases hk; exact mv_va 0x0D s u f .vaXor (by decide) rfl (by rintro rfl; cases hw) hw
theorem vaAndn : ∀ s u f, Statement (.vaAndn s u f) := by
  intro s u f k hk hw; cases hk; exact mv_va 0x0E s u f .vaAndn (by decide) rfl (by rintro rfl; cases hw) hw
theorem vaNot : ∀ s u f, Statement (.vaNot s u f) := by
  intro s u f k hk hw; cases hk; exact mv_va 0x0F s u f .vaNot (by decide) rfl (by rintro rfl; cases hw) hw
theorem vaSll : ∀ s u f, Statement (.vaSll s u f) := by
  intro s u f k hk hw; cases hk; exact mv_va 0x10 s u f .vaSll (by decide) rfl (by rintro rfl; cases hw) hw
theorem vaSrl : ∀ s u f, Statement (.vaSrl s u f) := by
  intro s u f k hk hw; cases hk; exact mv_va 0x11 s u f .vaSrl (by decide) rfl (by rintro rfl; cases hw) hw
theorem vaSra : ∀ s u f, Statement (.vaSra s u f) := by
  intro s u f k hk hw; cases hk; exact mv_va 0x12 s u f .vaSra (by decide) rfl (by rintro rfl; cases hw) hw
theorem vaMulhi : ∀ s u f, Statement (.vaMulhi s u f) := by
  intro s u f k hk hw; cases hk; exact mv_va 0x13 s u f .vaMulhi (by decide) rfl (by rintro rfl; cases hw) hw
theorem vaSel : ∀ s u f, Statement (.vaSel s u f) := by
  intro s u f k hk hw; cases hk; exact mv_va 0x14 s u f .vaSel (by decide) rfl (by rintro rfl; cases hw) hw
theorem vaCeq : ∀ s u f, Statement (.vaCeq s u f) := by
  intro s u f k hk hw; cases hk; exact mv_va 0x15 s u f .vaCeq (by decide) rfl (by rintro rfl; cases hw) hw
theorem vaCne : ∀ s u f, Statement (.vaCne s u f) := by
  intro s u f k hk hw; cases hk; exact mv_va 0x16 s u f .vaCne (by decide) rfl (by rintro rfl; cases hw) hw
theorem vaClt : ∀ s u f, Statement (.vaClt s u f) := by
  intro s u f k hk hw; cases hk; exact mv_va 0x17 s u f .vaClt (by decide) rfl (by rintro rfl; cases hw) hw
theorem vaCle : ∀ s u f, Statement (.vaCle s u f) := by
  intro s u f k hk hw; cases hk; exact mv_va 0x18 s u f .vaCle (by decide) rfl (by rintro rfl; cases hw) hw
theorem vaCun : ∀ s u f, Statement (.vaCun s u f) := by
  intro s u f k hk hw; cases hk; exact mv_va 0x19 s u f .vaCun (by decide) rfl (by rintro rfl; cases hw) hw
theorem vaKand : ∀ s u f, Statement (.vaKand s u f) := by
  intro s u f k hk hw; cases hk; exact mv_va 0x1A s u f .vaKand (by decide) rfl (by rintro rfl; cases hw) hw
theorem vaKor : ∀ s u f, Statement (.vaKor s u f) := by
  intro s u f k hk hw; cases hk; exact mv_va 0x1B s u f .vaKor (by decide) rfl (by rintro rfl; cases hw) hw
theorem vaKxor : ∀ s u f, Statement (.vaKxor s u f) := by
  intro s u f k hk hw; cases hk; exact mv_va 0x1C s u f .vaKxor (by decide) rfl (by rintro rfl; cases hw) hw
theorem vaKandn : ∀ s u f, Statement (.vaKandn s u f) := by
  intro s u f k hk hw; cases hk; exact mv_va 0x1D s u f .vaKandn (by decide) rfl (by rintro rfl; cases hw) hw
theorem vaKnot : ∀ s u f, Statement (.vaKnot s u f) := by
  intro s u f k hk hw; cases hk; exact mv_va 0x1E s u f .vaKnot (by decide) rfl (by rintro rfl; cases hw) hw
theorem vaKcnt : ∀ s u f, Statement (.vaKcnt s u f) := by
  intro s u f k hk hw; cases hk; exact mv_va 0x1F s u f .vaKcnt (by decide) rfl (by rintro rfl; cases hw) hw
theorem vpRotr : ∀ s f, Statement (.vpRotr s f) := by
  intro s f k hk hw; cases hk; exact mv_vp 0x00 s f .vpRotr (by decide) rfl hw
theorem vpBcr : ∀ s f, Statement (.vpBcr s f) := by
  intro s f k hk hw; cases hk; exact mv_vp 0x01 s f .vpBcr (by decide) rfl hw
theorem vpSumr : ∀ s f, Statement (.vpSumr s f) := by
  intro s f k hk hw; cases hk; exact mv_vp 0x02 s f .vpSumr (by decide) rfl hw
theorem vpMaxr : ∀ s f, Statement (.vpMaxr s f) := by
  intro s f k hk hw; cases hk; exact mv_vp 0x03 s f .vpMaxr (by decide) rfl hw
theorem vpMinr : ∀ s f, Statement (.vpMinr s f) := by
  intro s f k hk hw; cases hk; exact mv_vp 0x04 s f .vpMinr (by decide) rfl hw
theorem vpRotc : ∀ s f, Statement (.vpRotc s f) := by
  intro s f k hk hw; cases hk; exact mv_vp 0x08 s f .vpRotc (by decide) rfl hw
theorem vpBcc : ∀ s f, Statement (.vpBcc s f) := by
  intro s f k hk hw; cases hk; exact mv_vp 0x09 s f .vpBcc (by decide) rfl hw
theorem vpSumc : ∀ s f, Statement (.vpSumc s f) := by
  intro s f k hk hw; cases hk; exact mv_vp 0x0A s f .vpSumc (by decide) rfl hw
theorem vpMaxc : ∀ s f, Statement (.vpMaxc s f) := by
  intro s f k hk hw; cases hk; exact mv_vp 0x0B s f .vpMaxc (by decide) rfl hw
theorem vpMinc : ∀ s f, Statement (.vpMinc s f) := by
  intro s f k hk hw; cases hk; exact mv_vp 0x0C s f .vpMinc (by decide) rfl hw
theorem vpTrn16 : ∀ s f, Statement (.vpTrn16 s f) := by
  intro s f k hk hw; cases hk; exact mv_vp 0x10 s f .vpTrn16 (by decide) rfl hw
theorem vpShuf : ∀ s f, Statement (.vpShuf s f) := by
  intro s f k hk hw; cases hk; exact mv_vp 0x11 s f .vpShuf (by decide) rfl hw
theorem sfExp2 : ∀ s f, Statement (.sfExp2 s f) := by
  intro s f k hk hw; cases hk; exact mv_sf 0x00 s f .sfExp2 (by decide) rfl (by cases f <;> first | exact .inl rfl | exact .inr rfl | cases hw) hw
theorem sfLog2 : ∀ s f, Statement (.sfLog2 s f) := by
  intro s f k hk hw; cases hk; exact mv_sf 0x01 s f .sfLog2 (by decide) rfl (by cases f <;> first | exact .inl rfl | exact .inr rfl | cases hw) hw
theorem sfRcp : ∀ s f, Statement (.sfRcp s f) := by
  intro s f k hk hw; cases hk; exact mv_sf 0x02 s f .sfRcp (by decide) rfl (by cases f <;> first | exact .inl rfl | exact .inr rfl | cases hw) hw
theorem sfRsqrt : ∀ s f, Statement (.sfRsqrt s f) := by
  intro s f k hk hw; cases hk; exact mv_sf 0x03 s f .sfRsqrt (by decide) rfl (by cases f <;> first | exact .inl rfl | exact .inr rfl | cases hw) hw
theorem sfSqrt : ∀ s f, Statement (.sfSqrt s f) := by
  intro s f k hk hw; cases hk; exact mv_sf 0x04 s f .sfSqrt (by decide) rfl (by cases f <;> first | exact .inl rfl | exact .inr rfl | cases hw) hw
theorem sfTanh : ∀ s f, Statement (.sfTanh s f) := by
  intro s f k hk hw; cases hk; exact mv_sf 0x05 s f .sfTanh (by decide) rfl (by cases f <;> first | exact .inl rfl | exact .inr rfl | cases hw) hw
theorem sfSin : ∀ s f, Statement (.sfSin s f) := by
  intro s f k hk hw; cases hk; exact mv_sf 0x06 s f .sfSin (by decide) rfl (by cases f <;> first | exact .inl rfl | exact .inr rfl | cases hw) hw
theorem sfCos : ∀ s f, Statement (.sfCos s f) := by
  intro s f k hk hw; cases hk; exact mv_sf 0x07 s f .sfCos (by decide) rfl (by cases f <;> first | exact .inl rfl | exact .inr rfl | cases hw) hw
theorem sfErf : ∀ s f, Statement (.sfErf s f) := by
  intro s f k hk hw; cases hk; exact mv_sf 0x08 s f .sfErf (by decide) rfl (by cases f <;> first | exact .inl rfl | exact .inr rfl | cases hw) hw
theorem cvDn : ∀ s t r o, Statement (.cvDn s t r o) := by
  intro s t r o k hk hw; cases hk; exact mv_dn s t r o hw
theorem cvUp : ∀ s t, Statement (.cvUp s t) := by
  intro s t k hk hw; cases hk; exact mv_up s t (by constructor <;> (rintro rfl; cases hw)) hw
theorem cvUpRounding : ∀ s t r, Statement (.cvUpRounding s t r) := by
  intro s t r k hk hw; cases hk; exact mv_upRounding s t r (by cases t <;> first | exact .inl rfl | exact .inr rfl | cases hw) hw
theorem wcSig : ∀ s, Statement (.wcSig s) := by
  intro s k hk hw; cases hk; exact mv_trigger s 0x16E 0 .wc _ (by decide) (by decide) (by decide) (by decide) (checked_ok _ hw)
theorem wcSigclr : ∀ s, Statement (.wcSigclr s) := by
  intro s k hk hw; cases hk; exact mv_trigger s 0x16E 1 .wc _ (by decide) (by decide) (by decide) (by decide) (checked_ok _ hw)
theorem wcCmp : ∀ s, Statement (.wcCmp s) := by
  intro s k hk hw; cases hk; exact mv_trigger s 0x16E 2 .wc _ (by decide) (by decide) (by decide) (by decide) (checked_ok _ hw)
theorem apRd : ∀ s, Statement (.apRd s) := by
  intro s k hk hw; cases hk; exact mv_trigger s 0x16F 0 .ap _ (by decide) (by decide) (by decide) (by decide) (checked_ok _ hw)
theorem apWr : ∀ s, Statement (.apWr s) := by
  intro s k hk hw; cases hk; exact mv_trigger s 0x16F 1 .ap _ (by decide) (by decide) (by decide) (by decide) (checked_ok _ hw)
theorem apAcc : ∀ s, Statement (.apAcc s) := by
  intro s k hk hw; cases hk; exact mv_trigger s 0x16F 2 .ap _ (by decide) (by decide) (by decide) (by decide) (checked_ok _ hw)
theorem ldb : ∀ m, Statement (.ldb m) := by
  intro m k hk hw; cases hk; exact mem_M 0x01 m .ldb (by decide) rfl rfl hw
theorem ldh : ∀ m, Statement (.ldh m) := by
  intro m k hk hw; cases hk; exact mem_M 0x02 m .ldh (by decide) rfl rfl hw
theorem ldw : ∀ m, Statement (.ldw m) := by
  intro m k hk hw; cases hk; exact mem_M 0x03 m .ldw (by decide) rfl rfl hw
theorem ldd : ∀ m, Statement (.ldd m) := by
  intro m k hk hw; cases hk; exact mem_M 0x04 m .ldd (by decide) rfl rfl hw
theorem ldbs : ∀ m, Statement (.ldbs m) := by
  intro m k hk hw; cases hk; exact mem_M 0x05 m .ldbs (by decide) rfl rfl hw
theorem ldhs : ∀ m, Statement (.ldhs m) := by
  intro m k hk hw; cases hk; exact mem_M 0x06 m .ldhs (by decide) rfl rfl hw
theorem ldws : ∀ m, Statement (.ldws m) := by
  intro m k hk hw; cases hk; exact mem_M 0x07 m .ldws (by decide) rfl rfl hw
theorem stb : ∀ m, Statement (.stb m) := by
  intro m k hk hw; cases hk; exact mem_M 0x08 m .stb (by decide) rfl rfl hw
theorem sth : ∀ m, Statement (.sth m) := by
  intro m k hk hw; cases hk; exact mem_M 0x09 m .sth (by decide) rfl rfl hw
theorem stw : ∀ m, Statement (.stw m) := by
  intro m k hk hw; cases hk; exact mem_M 0x0A m .stw (by decide) rfl rfl hw
theorem std : ∀ m, Statement (.std m) := by
  intro m k hk hw; cases hk; exact mem_M 0x0B m .std (by decide) rfl rfl hw
theorem vld : ∀ m, Statement (.vld m) := by
  intro m k hk hw; cases hk; exact mem_M 0x10 m .vld (by decide) rfl rfl hw
theorem vst : ∀ m, Statement (.vst m) := by
  intro m k hk hw; cases hk; exact mem_M 0x11 m .vst (by decide) rfl rfl hw
theorem vld16 : ∀ m, Statement (.vld16 m) := by
  intro m k hk hw; cases hk; exact mem_MS 0x12 m .vld16 (by decide) rfl rfl rfl hw
theorem vld32 : ∀ m, Statement (.vld32 m) := by
  intro m k hk hw; cases hk; exact mem_MS 0x13 m .vld32 (by decide) rfl rfl rfl hw
theorem vst16 : ∀ m, Statement (.vst16 m) := by
  intro m k hk hw; cases hk; exact mem_MS 0x14 m .vst16 (by decide) rfl rfl rfl hw
theorem vst32 : ∀ m, Statement (.vst32 m) := by
  intro m k hk hw; cases hk; exact mem_MS 0x15 m .vst32 (by decide) rfl rfl rfl hw
theorem qld : ∀ m, Statement (.qld m) := by
  intro m k hk hw; cases hk; exact mem_M 0x16 m .qld (by decide) rfl rfl hw
theorem vgath : ∀ m, Statement (.vgath m) := by
  intro m k hk hw; cases hk; exact mem_G 0x18 m .vgath (by decide) rfl rfl rfl rfl hw
theorem vscat : ∀ m, Statement (.vscat m) := by
  intro m k hk hw; cases hk; exact mem_G 0x19 m .vscat (by decide) rfl rfl rfl rfl hw
theorem vlut : ∀ m, Statement (.vlut m) := by
  intro m k hk hw; cases hk; exact mem_G 0x1A m .vlut (by decide) rfl rfl rfl rfl hw
theorem vlst : ∀ m, Statement (.vlst m) := by
  intro m k hk hw; cases hk; exact mem_G 0x1B m .vlst (by decide) rfl rfl rfl rfl hw
theorem pref : ∀ m, Statement (.pref m) := by
  intro m k hk hw; cases hk; exact mem_M 0x1C m .pref (by decide) rfl rfl hw
theorem ipref : ∀ m, Statement (.ipref m) := by
  intro m k hk hw; cases hk; exact mem_M 0x1D m .ipref (by decide) rfl rfl hw
theorem aincW : ∀ m, Statement (.aincW m) := by
  intro m k hk hw; cases hk; exact mem_A 0x20 m .aincW (by decide) rfl rfl rfl rfl rfl hw
theorem aincD : ∀ m, Statement (.aincD m) := by
  intro m k hk hw; cases hk; exact mem_A 0x21 m .aincD (by decide) rfl rfl rfl rfl rfl hw
theorem afaddbW : ∀ m, Statement (.afaddbW m) := by
  intro m k hk hw; cases hk; exact mem_A 0x22 m .afaddbW (by decide) rfl rfl rfl rfl rfl hw
theorem afaddbD : ∀ m, Statement (.afaddbD m) := by
  intro m k hk hw; cases hk; exact mem_A 0x23 m .afaddbD (by decide) rfl rfl rfl rfl rfl hw
theorem aaddW : ∀ m, Statement (.aaddW m) := by
  intro m k hk hw; cases hk; exact mem_A 0x24 m .aaddW (by decide) rfl rfl rfl rfl rfl hw
theorem aaddD : ∀ m, Statement (.aaddD m) := by
  intro m k hk hw; cases hk; exact mem_A 0x25 m .aaddD (by decide) rfl rfl rfl rfl rfl hw
theorem aaddfW : ∀ m, Statement (.aaddfW m) := by
  intro m k hk hw; cases hk; exact mem_A 0x26 m .aaddfW (by decide) rfl rfl rfl rfl rfl hw
theorem acasW : ∀ m, Statement (.acasW m) := by
  intro m k hk hw; cases hk; exact mem_A 0x28 m .acasW (by decide) rfl rfl rfl rfl rfl hw
theorem acasD : ∀ m, Statement (.acasD m) := by
  intro m k hk hw; cases hk; exact mem_A 0x29 m .acasD (by decide) rfl rfl rfl rfl rfl hw
theorem axchgW : ∀ m, Statement (.axchgW m) := by
  intro m k hk hw; cases hk; exact mem_A 0x2A m .axchgW (by decide) rfl rfl rfl rfl rfl hw
theorem axchgD : ∀ m, Statement (.axchgD m) := by
  intro m k hk hw; cases hk; exact mem_A 0x2B m .axchgD (by decide) rfl rfl rfl rfl rfl hw
theorem amaxW : ∀ m, Statement (.amaxW m) := by
  intro m k hk hw; cases hk; exact mem_A 0x2C m .amaxW (by decide) rfl rfl rfl rfl rfl hw
theorem amaxD : ∀ m, Statement (.amaxD m) := by
  intro m k hk hw; cases hk; exact mem_A 0x2D m .amaxD (by decide) rfl rfl rfl rfl rfl hw
theorem aminW : ∀ m, Statement (.aminW m) := by
  intro m k hk hw; cases hk; exact mem_A 0x2E m .aminW (by decide) rfl rfl rfl rfl rfl hw
theorem aminD : ∀ m, Statement (.aminD m) := by
  intro m k hk hw; cases hk; exact mem_A 0x2F m .aminD (by decide) rfl rfl rfl rfl rfl hw
theorem radd : ∀ m, Statement (.radd m) := by
  intro m k hk hw; cases hk; exact mem_A 0x30 m .radd (by decide) rfl rfl rfl rfl rfl hw
theorem rwait : ∀ m, Statement (.rwait m) := by
  intro m k hk hw; cases hk; exact mem_A 0x31 m .rwait (by decide) rfl rfl rfl rfl rfl hw
theorem rrd : ∀ m, Statement (.rrd m) := by
  intro m k hk hw; cases hk; exact mem_A 0x32 m .rrd (by decide) rfl rfl rfl rfl rfl hw
theorem fence : ∀ mask sc, Statement (.fence mask sc) := by
  intro mask sc k hk hw; cases hk
  have h1 := mask.isLt; have h2 := scope_lt sc
  generalize hV : encode (.fence mask sc) = w
  have hW : 0x34 * 2 ^ 56 + sc.code * 2 ^ 16 + mask.toNat = w := hV
  clear hV
  have e1 : fldN w 56 8 = 0x34 := by simp only [fldN]; omega
  have e2 : fldN w 16 3 = sc.code := by simp only [fldN]; omega
  have e3 : fldN w 19 37 = 0 := by simp only [fldN]; omega
  have e4 : fld w 0 16 = mask := fld_eq _ _ _ (by omega)
  refine mem_other w _ _ e1 rfl rfl rfl rfl rfl ?_
  simp only [memOther, e1, e2, e3, e4, scope_code, zero_zero, checked_ok _ hw]
theorem gopen : ∀ g, Statement (.gopen g) := by
  intro g k hk hw; cases hk
  have h0 := g.isLt
  generalize hV : encode (.gopen g) = w
  have hW : 0x36 * 2 ^ 56 + g.toNat * 2 ^ 54 = w := hV
  clear hV
  have e0 : fldN w 56 8 = 0x36 := by simp only [fldN]; omega
  have f0 : fld w 54 2 = g := fld_eq _ _ _ (by omega)
  have z0 : fldN w 0 54 = 0 := by simp only [fldN]; omega
  exact mem_other w _ _ e0 rfl rfl rfl rfl rfl (by simp only [memOther, e0, zero_zero, f0, z0, checked_ok _ hw])
theorem gcommit : ∀ g, Statement (.gcommit g) := by
  intro g k hk hw; cases hk
  have h0 := g.isLt
  generalize hV : encode (.gcommit g) = w
  have hW : 0x37 * 2 ^ 56 + g.toNat * 2 ^ 54 = w := hV
  clear hV
  have e0 : fldN w 56 8 = 0x37 := by simp only [fldN]; omega
  have f0 : fld w 54 2 = g := fld_eq _ _ _ (by omega)
  have z0 : fldN w 0 54 = 0 := by simp only [fldN]; omega
  exact mem_other w _ _ e0 rfl rfl rfl rfl rfl (by simp only [memOther, e0, zero_zero, f0, z0, checked_ok _ hw])
theorem gabort : ∀ g, Statement (.gabort g) := by
  intro g k hk hw; cases hk
  have h0 := g.isLt
  generalize hV : encode (.gabort g) = w
  have hW : 0x38 * 2 ^ 56 + g.toNat * 2 ^ 54 = w := hV
  clear hV
  have e0 : fldN w 56 8 = 0x38 := by simp only [fldN]; omega
  have f0 : fld w 54 2 = g := fld_eq _ _ _ (by omega)
  have z0 : fldN w 0 54 = 0 := by simp only [fldN]; omega
  exact mem_other w _ _ e0 rfl rfl rfl rfl rfl (by simp only [memOther, e0, zero_zero, f0, z0, checked_ok _ hw])
theorem cpy : ∀ m, Statement (.cpy m) := by
  intro m k hk hw; cases hk; exact mem_C 0x40 m .cpy (by decide) rfl hw
theorem cpy2d : ∀ m, Statement (.cpy2d m) := by
  intro m k hk hw; cases hk; exact mem_C 0x41 m .cpy2d (by decide) rfl hw
theorem cpyg : ∀ m, Statement (.cpyg m) := by
  intro m k hk hw; cases hk; exact mem_C 0x42 m .cpyg (by decide) rfl hw
theorem cwait : ∀ l tk, Statement (.cwait l tk) := by
  intro l tk k hk hw; cases hk
  have h0 := l.isLt; have h1 := tk.isLt
  generalize hV : encode (.cwait l tk) = w
  have hW : 0x43 * 2 ^ 56 + l.toNat * 2 ^ 37 + tk.toNat * 2 ^ 23 = w := hV
  clear hV
  have e0 : fldN w 56 8 = 0x43 := by simp only [fldN]; omega
  have f0 : fld w 37 12 = l := fld_eq _ _ _ (by omega)
  have f1 : fld w 23 8 = tk := fld_eq _ _ _ (by omega)
  have z0 : fldN w 49 7 = 0 := by simp only [fldN]; omega
  have z1 : fldN w 31 6 = 0 := by simp only [fldN]; omega
  have z2 : fldN w 0 23 = 0 := by simp only [fldN]; omega
  exact mem_other w _ _ e0 rfl rfl rfl rfl rfl (by simp only [memOther, e0, zero_zero, f0, f1, z0, z1, z2, List.append_nil, checked_ok _ hw])
theorem wpwait : ∀ l a ch, Statement (.wpwait l a ch) := by
  intro l a ch k hk hw; cases hk
  have h0 := l.isLt; have h1 := a.isLt; have h2 := ch.isLt
  generalize hV : encode (.wpwait l a ch) = w
  have hW : 0x44 * 2 ^ 56 + l.toNat * 2 ^ 37 + a.toNat * 2 ^ 31 + ch.toNat * 2 ^ 23 = w := hV
  clear hV
  have e0 : fldN w 56 8 = 0x44 := by simp only [fldN]; omega
  have f0 : fld w 37 12 = l := fld_eq _ _ _ (by omega)
  have f1 : fld w 31 6 = a := fld_eq _ _ _ (by omega)
  have f2 : fld w 23 8 = ch := fld_eq _ _ _ (by omega)
  have z0 : fldN w 49 7 = 0 := by simp only [fldN]; omega
  have z1 : fldN w 0 23 = 0 := by simp only [fldN]; omega
  exact mem_other w _ _ e0 rfl rfl rfl rfl rfl (by simp only [memOther, e0, zero_zero, f0, f1, f2, z0, z1, List.append_nil, checked_ok _ hw])
theorem red : ∀ m, Statement (.red m) := by
  intro m k hk hw; cases hk; exact mem_M 0x45 m .red (by decide) rfl rfl hw
theorem coll : ∀ m, Statement (.coll m) := by
  intro m k hk hw; cases hk; exact mem_M 0x46 m .coll (by decide) rfl rfl hw
theorem lqput : ∀ m, Statement (.lqput m) := by
  intro m k hk hw; cases hk; exact mem_M 0x47 m .lqput (by decide) rfl rfl hw
theorem tlbiva : ∀ m, Statement (.tlbiva m) := by
  intro m k hk hw; cases hk; exact mem_M 0x50 m .tlbiva (by decide) rfl rfl hw
theorem l2wb : ∀ m, Statement (.l2wb m) := by
  intro m k hk hw; cases hk; exact mem_M 0x52 m .l2wb (by decide) rfl rfl hw
theorem l2inv : ∀ m, Statement (.l2inv m) := by
  intro m k hk hw; cases hk; exact mem_M 0x53 m .l2inv (by decide) rfl rfl hw
theorem l2wbinv : ∀ m, Statement (.l2wbinv m) := by
  intro m k hk hw; cases hk; exact mem_M 0x54 m .l2wbinv (by decide) rfl rfl hw
theorem launchKill : ∀ id, Statement (.launchKill id) := fun _ k hk => by cases hk
theorem bundleIssue : Statement .bundleIssue := fun k hk => by cases hk
theorem operationLands : Statement .operationLands := fun k hk => by cases hk
theorem ringWaitSatisfied : Statement .ringWaitSatisfied := fun k hk => by cases hk
theorem ringWaitRecheck : Statement .ringWaitRecheck := fun k hk => by cases hk
theorem translationWalkDone : Statement .translationWalkDone := fun k hk => by cases hk
theorem requestEntryFreed : Statement .requestEntryFreed := fun k hk => by cases hk
theorem copyWaitSatisfied : Statement .copyWaitSatisfied := fun k hk => by cases hk
theorem copyCommandStart : Statement .copyCommandStart := fun k hk => by cases hk
theorem copyFaultPause : Statement .copyFaultPause := fun k hk => by cases hk
theorem bulkChunkStart : Statement .bulkChunkStart := fun k hk => by cases hk
theorem budgetRefill : Statement .budgetRefill := fun k hk => by cases hk
theorem reductionAccept : Statement .reductionAccept := fun k hk => by cases hk
theorem reductionPause : Statement .reductionPause := fun k hk => by cases hk
theorem collectivePause : Statement .collectivePause := fun k hk => by cases hk
theorem collectiveAbandon : Statement .collectiveAbandon := fun k hk => by cases hk
theorem handoverPassEnd : Statement .handoverPassEnd := fun k hk => by cases hk
theorem wayScrubEnd : Statement .wayScrubEnd := fun k hk => by cases hk
theorem blockScrubEnd : Statement .blockScrubEnd := fun k hk => by cases hk
theorem hotEpochEnd : Statement .hotEpochEnd := fun k hk => by cases hk
theorem timingEscalation : Statement .timingEscalation := fun k hk => by cases hk
theorem replayWindow : Statement .replayWindow := fun k hk => by cases hk
theorem marginSettled : Statement .marginSettled := fun k hk => by cases hk
theorem watchdog : Statement .watchdog := fun k hk => by cases hk
theorem heartbeat : Statement .heartbeat := fun k hk => by cases hk
theorem cancelTimeout : Statement .cancelTimeout := fun k hk => by cases hk
theorem waymarkStop : Statement .waymarkStop := fun k hk => by cases hk
theorem contextSaveDone : Statement .contextSaveDone := fun k hk => by cases hk
theorem descriptorTake : Statement .descriptorTake := fun k hk => by cases hk
theorem launchReady : Statement .launchReady := fun k hk => by cases hk
theorem launchDispatch : Statement .launchDispatch := fun k hk => by cases hk
theorem sliceEnd : Statement .sliceEnd := fun k hk => by cases hk
theorem launchDone : Statement .launchDone := fun k hk => by cases hk
theorem pageHash : Statement .pageHash := fun k hk => by cases hk
theorem gsVerdict : Statement .gsVerdict := fun k hk => by cases hk
theorem poolTurnEnd : Statement .poolTurnEnd := fun k hk => by cases hk
theorem traceSample : Statement .traceSample := fun k hk => by cases hk
theorem powerMeasurement : Statement .powerMeasurement := fun k hk => by cases hk
theorem pwrMeasTimeout : Statement .pwrMeasTimeout := fun k hk => by cases hk
theorem powerInputOutOfRange : Statement .powerInputOutOfRange := fun k hk => by cases hk
theorem pwrgdFall : Statement .pwrgdFall := fun k hk => by cases hk
theorem perst : Statement .perst := fun k hk => by cases hk
theorem ppsEdge : Statement .ppsEdge := fun k hk => by cases hk
theorem holdover : Statement .holdover := fun k hk => by cases hk
theorem hostAtomicopReceived : Statement .hostAtomicopReceived := fun k hk => by cases hk
theorem functionLevelReset : Statement .functionLevelReset := fun k hk => by cases hk
theorem portFailure : Statement .portFailure := fun k hk => by cases hk
theorem getVersion : Statement .getVersion := fun k hk => by cases hk
theorem getCapabilities : Statement .getCapabilities := fun k hk => by cases hk
theorem negotiateAlgorithms : Statement .negotiateAlgorithms := fun k hk => by cases hk
theorem getDigests : Statement .getDigests := fun k hk => by cases hk
theorem getCertificate : Statement .getCertificate := fun k hk => by cases hk
theorem getMeasurements : Statement .getMeasurements := fun k hk => by cases hk
theorem agentRegisterRead : Statement .agentRegisterRead := fun k hk => by cases hk
theorem mgmtStop : Statement .mgmtStop := fun k hk => by cases hk
theorem mgmtSave : Statement .mgmtSave := fun k hk => by cases hk
theorem mgmtReset : Statement .mgmtReset := fun k hk => by cases hk
theorem mgmtQuarantineSet : Statement .mgmtQuarantineSet := fun k hk => by cases hk
theorem mgmtQuarantineClear : Statement .mgmtQuarantineClear := fun k hk => by cases hk
theorem saveRetryWrite : Statement .saveRetryWrite := fun k hk => by cases hk
theorem hbKickWrite : Statement .hbKickWrite := fun k hk => by cases hk
theorem cntrdLoRead : Statement .cntrdLoRead := fun k hk => by cases hk
theorem done : Statement .done := by
  intro k hk hw; cases hk; rfl
theorem resume : Statement .resume := by
  intro k hk hw; cases hk; rfl
theorem gsend : Statement .gsend := by
  intro k hk hw; cases hk; rfl
theorem dchk : Statement .dchk := by
  intro k hk hw; cases hk; rfl
theorem clear : Statement .clear := by
  intro k hk hw; cases hk; rfl
theorem mpass : Statement .mpass := by
  intro k hk hw; cases hk; rfl
theorem mretry : Statement .mretry := by
  intro k hk hw; cases hk; rfl
theorem mclaim : Statement .mclaim := by
  intro k hk hw; cases hk; rfl
theorem mrelease : Statement .mrelease := by
  intro k hk hw; cases hk; rfl
theorem tlbiall : Statement .tlbiall := by
  intro k hk hw; cases hk; rfl
theorem portTrained : Statement .portTrained := fun k hk => by cases hk
theorem rangerAuthentication : Statement .rangerAuthentication := fun k hk => by cases hk
theorem rangerSupplyLost : Statement .rangerSupplyLost := fun k hk => by cases hk

end Sys2Proof.Laws.RoundTrip
end

