-- ==== Sys2Proof/Safety.lean ====
section
/-! DEFINITION. What the claims call a safe run: memory in its canonical form, a happening that names agents the part has, and a
state whose step answers a next state. -/
namespace Sys2Proof.Machine

open Sys2Proof

/-- Memory is in its canonical form, addresses strictly rising and no entry that holds what an unlisted address reads as; and no line is in the
L2 twice. -/
abbrev State.memWf (s : State) : Prop := Sparse.wf 0 s.mem = true ∧ (s.l2.map (·.line)).Nodup

/-- The step of s answers a next state. -/
def State.goes (s : State) : Prop := ∃ t, step s = .next t

/-- The only way in which an outcome is not a next state is that it names an agent that the part does not have (R2). -/
def Out.onlyAgents (o : Out) : Prop := o = .fault .noSuchAgent ∨ ∃ t, o = .next t

end Sys2Proof.Machine
end

