-- ==== Sys2Proof/Certificates/Slice0/Obligations.lean ====
section
/-! DEFINITION. The statements about this part: encodings, the step, the slots family by family, stops, accesses, the engines and the
events; each docstring names the rules of the manual it formalises. The helpers say what an instruction changes and that all else stays. -/
namespace Sys2Proof.Claims

open Sys2Proof Sys2Proof.Machine

/-! ## What stays -/

/-- t is s but for core c: every other core, every byte of memory, the L2, the window and all that is outside the cores are as before
(the model's own counter of free values may have moved on). -/
structure OnlyCore (s t : State) (c : Nat) : Prop where
  rest : t = { s with cores := t.cores, freeCtr := t.freeCtr }
  others : ∀ k, k ≠ c → t.core k = s.core k
  mem : ∀ a, Sparse.get 0 t.mem a = Sparse.get 0 s.mem a

/-- The slot instruction i of the cursor has issued operation o, which lands n cycles later: s has become t, in which only the
cursor's core differs, and there all but the operation's place in the pipe is as in k. -/
structure Issued (s t : State) (i : Instr) (n : Nat) (k : Core) (o : Op) : Prop where
  only : OnlyCore s t s.cur.core
  me : t.core s.cur.core = { k with nextId := s.me.nextId + 1, pipe := s.me.pipe ++ [o] }
  act : o.act = some i
  id : o.id = s.me.nextId
  slot : o.slot = s.cur.slot
  addr : o.addr = s.cur.addr
  land : o.land = s.me.sched + n

/-- Operation o, landing in any state u of any core c, leaves the core as test says of the core before and after; it leaves the pipe, and
nothing outside the core changes. -/
def Lands (o : Op) (test : Core → Core → Prop) : Prop :=
  ∀ (u : State) (c : Nat), OnlyCore u (u.landOp c o) c ∧
    ((u.landOp c o).core c).pipe = (u.core c).pipe.filter (fun p => p.id != o.id) ∧ test (u.core c) ((u.landOp c o).core c)

/-- The core after has a new x register d: x0 stays zero and every other register keeps its value; the exception record r has taken
flags fl at bundle address a, and every other system register keeps its value; nothing else of the core but its pipe changed. -/
def WordWritten (d : BitVec 6) (v : Word) (r fl a : Nat) (k k' : Core) : Prop :=
  k' = { k with x := k'.x, sr := k'.sr, pipe := k'.pipe } ∧
  (∀ n, k'.rx n = if n = d.toNat ∧ n ≠ 0 then v else k.rx n) ∧
  (∀ m, k'.rsr m = if m = r then excAfter (k.rsr m) fl a else k.rsr m)

/-- Of the state only the register window changed, and there the registers at the offsets of vs hold its values; every other register of the window is as it was. -/
structure RegsSet (s t : State) (vs : List (Nat × Word)) : Prop where
  rest : t = { s with win := t.win }
  regs : ∀ o, t.rw o = match vs.find? (fun e => e.1 == o) with
    | some e => e.2
    | none => s.rw o

/-- EXC.SB for slot 2, EXC.SA else (R200). -/
def excOfSlot (slot : Nat) : Nat := if slot = 2 then 0x011 else 0x010

/-- A scalar slot instruction with a destination: it issues, lands n cycles later, and writes v to xd with flags fl. -/
def WordResult (s : State) (i : Instr) (n : Nat) (d : BitVec 6) (v : Word) (fl : Nat) : Prop :=
  ∃ t o, exec i s = .next t ∧ Issued s t i n s.me o ∧ Lands o (WordWritten d v (excOfSlot s.cur.slot) fl s.cur.addr)

/-- The same for a divide, which holds the divider of its slot for 18 cycles (R66, R229). -/
def DivResult (s : State) (i : Instr) (d : BitVec 6) (v : Word) (fl : Nat) : Prop :=
  ∃ t o, exec i s = .next t ∧
    Issued s t i 18 { s.me with unitEnd := Sparse.set 0 s.me.unitEnd (7 + s.cur.slot) (s.me.sched + 18) } o ∧
    Lands o (WordWritten d v (excOfSlot s.cur.slot) fl s.cur.addr)

/-- The instruction goes on to a state in which only the cursor's core differs, and is k there. -/
def Leaves (s : State) (i : Instr) (k : Core) : Prop :=
  ∃ t, exec i s = .next t ∧ OnlyCore s t s.cur.core ∧ t.core s.cur.core = k

/-- The cursor's core as a trigger of unit u with source a leaves it, but for the operation issued: latch .a holds the source, the unit is busy for four cycles,
a pop is noted (R60, R65, R66). -/
def Triggered (s : State) (a : Src) (u : VUnit) : Core :=
  { s.me with latch := Sparse.set [] s.me.latch u.latchA.code (s.me.src a)
              unitEnd := Sparse.set 0 s.me.unitEnd u.code (s.me.sched + 4)
              pops := match a with | .pop n => n.toNat :: s.me.pops | _ => s.me.pops }

/-- A trigger with a result: it captures its unit's latches as they stand in its cycle, and n cycles later the result y of them is in the unit's result latch and
its flags are in the unit's exception record, with the bundle's address; all else stays. -/
def VecResult (s : State) (i : Instr) (a : Src) (u : VUnit) (n : Nat) (y : List Vec → Vec × Nat) : Prop :=
  ∃ t o, exec i s = .next t ∧ Issued s t i n (Triggered s a u) o ∧ Lands o fun k k' =>
    k' = { k with pipe := k'.pipe, res := k'.res, sr := k'.sr } ∧
    (∀ r, k'.rRes r = if r = 0x140 + u.code then (y ((Triggered s a u).latches u)).1 else k.rRes r) ∧
    ∀ m, k'.rsr m = if excOf u = some m then excAfter (k.rsr m) (y ((Triggered s a u).latches u)).2 s.cur.addr else k.rsr m

/-- The virtual address of a memory-slot access of core c, and its index vector for a gather or scatter (R163, R173, R174, R300, R314). -/
def accessAt (c : Core) : Instr → Option (Word × Vec)
  | .ldb m | .ldh m | .ldw m | .ldd m | .ldbs m | .ldhs m | .ldws m | .stb m | .sth m | .stw m | .std m | .vld m | .vst m | .qld m
  | .tlbiva m | .l2wb m | .l2inv m | .l2wbinv m | .red m | .coll m | .lqput m => some (c.rx m.a.toNat + m.off.signExtend 64, [])
  | .vld16 m | .vld32 m | .vst16 m | .vst32 m => some (c.rx m.a.toNat + m.off.signExtend 64, [])
  | .vgath m | .vscat m | .vlut m | .vlst m => some (c.rx m.a.toNat, c.rv m.vi.toNat)
  | .aincW m | .aincD m | .afaddbW m | .afaddbD m | .aaddW m | .aaddD m | .aaddfW m | .acasW m | .acasD m | .axchgW m | .axchgD m
  | .amaxW m | .amaxD m | .aminW m | .aminD m | .radd m | .rwait m | .rrd m => some (c.rx m.a.toNat, [])
  | _ => none

/-- What an access of the cursor's core reads at its issue in the core's own spaces (R167, R79): whether its words are whole, and the state that the reading leaves. -/
def readAtIssue (s : State) (i : Instr) (f : Form) (a : Word) (vi : Vec) : Bool × State :=
  if f.sp.det = true ∧ f.acc ≠ .store ∧ s.accessCheck s.cur.core i f a vi = none then
    s.arrayRead s.cur.core (if f.sp = .lane then 1 else 0) (detPlaces i f a vi)
  else (true, s)

/-- Byte j of what a store writes, read at its issue (R170 to R175). -/
def storeByte (c : Core) (j : Nat) : Instr → Option Byte
  | .stb m | .sth m | .stw m | .std m => some (BitVec.ofNat 8 ((c.rx (m.tg.toNat % 64)).toNat / 2 ^ (8 * j)))
  | .vst m => some (Sparse.get 0 (c.rv m.tg.toNat).image j)
  | .vst16 m | .vst32 m => some ((c.rv m.tg.toNat).byte (16 * m.seg.toNat + j))
  | .vscat m | .vlst m => some (Sparse.get 0 (c.rv m.vd.toNat).image j)
  | _ => none

/-- The value v of n bytes taken lowest address first, with zeros or the sign above (R170). -/
def Loaded (n : Nat) (signed : Bool) (bs : Sparse Byte) (v : Word) : Prop :=
  (∀ j, j < n → v.toNat / 2 ^ (8 * j) % 256 = (Sparse.get 0 bs j).toNat) ∧ ∀ b, 8 * n ≤ b → b < 64 → v.getLsbD b = (signed && v.getLsbD (8 * n - 1))

/-- Operation o writes v to x register d at its landing, and nothing else. -/
def WritesX (o : Op) (d : Nat) (v : Word) : Prop :=
  Lands o fun k k' => k' = { k with pipe := k'.pipe, x := k'.x } ∧ ∀ n, k'.rx n = if n = d ∧ n ≠ 0 then v else k.rx n

end Sys2Proof.Claims

open Sys2Proof Sys2Proof.Machine Sys2Proof.Claims

/-! ## Encoding and the step -/

/-- R48 to R62: words written out bit by bit from the encodings: add x3, x1, x2; addi x5, x6, -1; beq x1, x2, -8, in slot sa alone; loopi lc1, 16; a push; a drain; sidx;
ldw from spm; std to glb in group 1; cpy; a move of v9 to x3; va1.mul.f32 with v7; cv.dn to bf16. -/
def Obligations.DecodedWords : Prop :=
  decodeSlot .sa 0b00000001_000011_000001_000010_000000 = .ok (.add 3 1 2) ∧
  decodeSlot .sb 0b00000010_000101_000110_111111111111 = .ok (.addi 5 6 0xFFF) ∧
  decodeSlot .sa 0b00010000_000001_000010_111111111110 = .ok (.beq 1 2 0xFFE) ∧
  decodeSlot .sb 0b00010000_000001_000010_111111111110 = .error .slotForm ∧
  decodeSlot .sa 0b00100001_01_0000001111_000000000010 = .ok (.loopi 1 15 2) ∧
  decodeSlot .mx 0b0001_10_01_10_0000_0001_000_0_0000000000 = .ok (.push 2 1 2 .e4m3 .e5m2 0 false) ∧
  decodeSlot .mx 0b0110_00101_0011_0_1_00000000000000000 = .ok (.drain 5 3 false true) ∧
  decodeSlot .sc 0b0100_11_01_10_0000000000000000000000 = .ok (.sidx 3 1 2) ∧
  decodeSlot .mem 0b00000011_001_0000_000000000000_000111_00000101_00000000000000000100_000 =
    .ok (.ldw { sp := .spm, cls := 0, land := 0, a := 7, tg := 5, off := 4, grp := 0 }) ∧
  decodeSlot .mem 0b00001011_000_0010_000000000000_000111_00000101_11111111111111111000_101 =
    .ok (.std { sp := .glb, cls := 2, land := 0, a := 7, tg := 5, off := 0xFFFF8, grp := 5 }) ∧
  decodeSlot .mem 0b01000000_0010_000011_000000_000000_000000_00_000101_000110_000111_000_001_00 =
    .ok (.cpy { ch := 2, tko := 3, tk0 := 0, tk1 := 0, tk2 := 0, nin := 0, d := 5, s := 6, n := 7, dsp := .glb, ssp := .spm }) ∧
  decodeSlot .mv 0b000001001_100000011_000000 = .ok (.move (.v 9) (.x 3)) ∧
  decodeSlot .mv 0b000000111_101100100_000011 = .ok (.vaMul (.v 7) .va1 .f32) ∧
  decodeSlot .mv 0b101000100_101110000_000001 = .ok (.cvDn (.y .cv) .bf16 .rne .inf) ∧
  decodeSlot .sa 0 = .error .rsvOpcode

/-- R42 to R69: every instruction of a slot comes back from its word, in its slot and, but for those of slot sa alone, in slot sb. -/
def Obligations.EncodedInstructionsDecode : Prop :=
  ∀ (i : Instr) (k : SlotKind), i.kind = some k → i.wf = true →
    decodeSlot k (encode i) = .ok i ∧ encode i < 2 ^ (8 * k.bytes) ∧
    (k = .sa → saOnly (fldN (encode i) 24 8) = false → decodeSlot .sb (encode i) = .ok i)

/-- R42 to R69: and a word that decodes is the word of its instruction, which is well formed: no word of a slot has two meanings, and no instruction two words. -/
def Obligations.DecodedWordsAreEncodings : Prop :=
  ∀ (k : SlotKind) (w : Nat) (i : Instr), w < 2 ^ (8 * k.bytes) → decodeSlot k w = .ok i → encode i = w ∧ i.wf = true ∧ i.kind.isSome = true

/-- R3, R4: a step takes the happening that the outside brings when it is due, then the turn's next, by what exec makes of it with its cursor; with none left a new wall
cycle begins. The turn, the inputs and their order are the model's choice (log entry 4). -/
def Obligations.AStepTakesTheNextHappening : Prop :=
  ∀ (s : State) (h : Happening) (r : List Happening) (i : Input) (q : List Input),
    (s.inputs = i :: q → i.wall ≤ s.wall → step s = exec i.hap.act { s with inputs := q, cur := i.hap.cur }) ∧
    (s.inputs = i :: q → s.wall < i.wall → s.turn = h :: r → step s = exec h.act { s with turn := r, cur := h.cur }) ∧
    (s.inputs = [] → s.turn = h :: r → step s = exec h.act { s with turn := r, cur := h.cur }) ∧
    (s.inputs = [] → s.turn = [] → step s = .next s.newCycle)

/-- R4, R68, R151, R178, R179, R180, R208, R231, R245, R423, R424: a running core that is due looks at its bundle. A comparator that matches stops it, then a step stop that is
due; then its bytes are decoded, and a bundle that the rules forbid stops it: as illegal (a code of the decoder; 5, a register written twice; 6, a busy unit; 7, a level that is
missing), for a port that is held, with the banks, or for a queue: overfull, empty, or with a head that a qld from spm has yet to fill. A head that an elastic qld has yet to
fill freezes it. Where nothing stops or holds it, the bundle issues, each of its slots by what exec makes of its instruction, the slots before the triggers; then the
sequencer chooses the next bundle. A word of the instruction cache with two upset bits is a FETCH_FAULT. The order of the other checks, and upsets, are the model's
reading (log entries 47 and 84). -/
def Obligations.BundlesAreDecodedAndIssued : Prop :=
  ∀ (s u : State) (b : Bundle), s.cur.core < nCores →
    let c := s.cur.core
    (∀ (t : State) (h w : Nat), let k := t.core c
      let stops (cause detail : Nat) : Prop := t.look c = .stop { cause := cause, detail := detail, addr := k.pc } none
      let past : Prop := k.skipBrk = true ∨ k.hits k.pc = 0
      let found : Prop := past ∧ k.stepFrom = false ∧ t.code c k.pc 4 = some h ∧ t.missing c k.pc (Header.len h) = none ∧
        (Header.way h = false ∨ k.wmStop = 0 ∨ k.handler = true) ∧ t.code c k.pc (Header.len h) = some w
      (k.skipBrk = false → k.hits k.pc ≠ 0 → t.look c = .stop { cause := 0x88, addr := k.pc } (some (k.hits k.pc))) ∧
      (past → k.stepFrom = true → stops 0x89 0) ∧
      (∀ r sl, found → decodeBundle w = .error (r, sl) → stops 0x81 (r + 16 * sl)) ∧
      (∀ r sl, found → decodeBundle w = .ok b → k.illegal b.slots = some (r, sl) → stops 0x81 (r + 16 * sl)) ∧
      (found → decodeBundle w = .ok b → k.illegal b.slots = none → hasLink b.slots = false →
        (∀ x, k.conflict b.slots = some x → t.look c = .stop { cause := 0x82, addr := k.pc, bank := some x } none) ∧
        (k.conflict b.slots = none →
          (∀ st, k.queueLook b.slots = some (.inl st) → t.look c = .stop st none) ∧
          (∀ ids, k.queueLook b.slots = some (.inr ids) → k.preFreeze b.slots = none → t.look c = .freeze 20 ids) ∧
          (k.queueLook b.slots = none → k.preFreeze b.slots = none → t.look c = .go b)))) ∧
    (∀ (k : Core) (a n : Nat), n < 8 → (bitN (k.hits a) n = true ↔ bitN (k.rsr (0x188 + n)).toNat 0 = true ∧ getF (k.rsr (0x188 + n)) 2 53 * 4 = a)) ∧
    (∀ (k : Core) (sl d : BitVec 6) (i : Instr), let l := [(sl.toNat, i)]
      k.illegal [(1, .li d 0), (2, .lui d 1)] = (if d = 0 then none else some (5, 2)) ∧
      (∀ a v, Instr.trigger i = some (a, v) → k.sched < Sparse.get 0 k.unitEnd v.code → k.illegal l = some (6, sl.toNat)) ∧
      (k.busySlot l = none → k.illegal l = if k.level.reaches i.needs = true then none else some (7, sl.toNat))) ∧
    (∀ (k : Core) (m : MArgs) (e holder : Nat), m.sp = .spm → k.sched < e →
      let g := (k.rx m.a.toNat + m.off.signExtend 64).toNat
      let slots := [(5, Instr.ldb m), (6, .ldb m)]
      (k.ports = [] → k.conflict [(5, .ldb m)] = none ∧ k.conflict slots = some (BitVec.ofNat 64 (g / 2 ^ 20 % 4 + 6 * 16 + 5 * 256 + 4096))) ∧
      (k.ports = [(2 * (g / 2 ^ 20 % 4), e, holder)] →
        k.conflict [(5, .ldb m)] = some (BitVec.ofNat 64 (g / 2 ^ 20 % 4 + 5 * 16 + 0xF * 256 + (e - k.sched) * 4096)))) ∧
    (∀ (k : Core) (n : BitVec 2) (sl : Nat) (i : Instr) (m : MArgs), m.tg.toNat = n.toNat →
      let at_ (cause x : Nat) : Option (Stop ⊕ List Nat) := some (.inl { cause := cause, detail := x * 16 + n.toNat * 256, addr := k.pc })
      k.queueLook [(sl, .qld m)] = (if 8 ≤ (k.queue n.toNat).length then at_ 0x83 sl else none) ∧
      (Instr.moveSrc i = some (.pop n) ∨ Instr.moveSrc i = some (.peek n) → fillsQueue i = none →
        k.queueLook [(sl, i)] = match k.queue n.toNat with
          | [] => at_ 0x84 sl
          | e :: _ => if e.filled = true then none else if e.spm = true then at_ 0x85 sl else if k.awaits e = true then some (.inr [e.op]) else none)) ∧
    (s.strikes = [] → s.codeRead c s.me.pc = (true, s)) ∧
    (s.me.freeze = 0 → (∀ o ∈ s.me.pipe, o.fault = false) → s.me.dueIssue = true →
      let l := (s.landAll c).look c
      (∀ st hit, l = .stop st hit → st.cause = 0x88 ∨ st.cause = 0x89 → exec .bundleIssue s =
        .next ((match hit with | some n => s.modCore c fun k => k.wsr 0x181 (BitVec.ofNat 64 n) | none => s).takeStop c st)) ∧
      (∀ st, l = .stop st none → st.cause ≠ 0x88 → st.cause ≠ 0x89 → s.codeRead c s.me.pc = (true, u) → exec .bundleIssue s = .next (u.takeStop c st)) ∧
      (l = .go b → s.codeRead c s.me.pc = (false, u) → exec .bundleIssue s = .next (u.takeStop c { cause := 0x86, detail := 0x100, addr := s.me.pc })) ∧
      (∀ n ids, l = .freeze n ids → s.codeRead c s.me.pc = (true, u) → exec .bundleIssue s = .next (u.modCore c fun k => k.lose n)) ∧
      (∀ n, l = .fetch n → exec .bundleIssue s = .next (s.modCore c fun k => { k with fetchWait := some n }.lose 18)) ∧
      (l = .go b → (s.codeRead c s.me.pc).1 = true → exec .bundleIssue s = .next (((s.landAll c).codeRead c s.me.pc).2.issueBundle c b))) ∧
    (∀ (t : State) (f : Nat → State), (∀ e ∈ b.slots, e.2.kind.isSome = true) → f 0 = (t.useLines c (t.core c).pc b.len).modCore c Core.beginIssue →
      (∀ k e, (actOrder b.slots)[k]? = some e →
        exec e.2 { f k with cur := { core := c, slot := e.1, addr := (t.core c).pc, wit := b.wit } } = .next (f (k + 1))) →
      t.issueBundle c b =
        { ((f b.slots.length).modCore c Core.inSlotOrder).endIssue c (t.core c).pc b (t.core c).activeLoops (t.core c).pend.length with cur := t.cur }) ∧
    (s.me.freeze ≠ 0 → exec .bundleIssue s = .next s)

/-- R4, R10, R70, R101, R158, R165, R245, R375, R377, R435: what a core does in a wall cycle before it issues: a cycle of a replay, a swallowed pulse, a freeze for a late
operation, in which only the accesses that it waits for travel on, or its landings; and then what its remote port took in the last cycle is written, after its own
stores. What is applied first, then an mpass and a dchk, then the rest land, each in the order of the pipe. A line that fills is held; one that fails is the fault that
the fetch meets. The order of a cycle is the model's reading (log entries 28, 29, 47, 48, 53, 87 and 88). -/
def Obligations.CoresLandAndFreeze : Prop :=
  ∀ (s u : State), s.cur.core < nCores → s.me.run = .running → s.settle s.cur.core = u →
    let c := s.cur.core
    let t := u.landAll c
    ((u.core c).replay ≠ 0 → exec .operationLands s = .next (u.modCore c fun k => ({ k with replay := k.replay - 1 }.lose 16).takeRemote)) ∧
    ((u.core c).replay = 0 → u.swallows c = true → (u.core c).mretry = none →
      exec .operationLands s = .next (u.modCore c fun k => k.lose (u.swallowedIndex c)) ∧
      ((u.core c).resuming = false → (t.core c).claiming = none → u.late c = [] → u.lookAhead c = none → u.swallowedIndex c = 23)) ∧
    (u.swallows c = false → (u.core c).replay = 0 → (u.core c).mretry = none → (u.core c).staged = false → (u.core c).resuming = false → u.urgent c = none →
      (u.core c).ext = [] → (t.core c).claiming = none → u.lookAhead c = none →
      (u.late c = [] → (∀ o ∈ (u.core c).pipe, u.takenNow c o = false) →
        exec .operationLands s = .next ((t.modCore c fun k => { k with freeze := 0 }).modCore c Core.takeRemote)) ∧
      (u.late c = [19] → exec .operationLands s =
        .next ((u.modCore c fun k => (k.travel (k.waitedFor c (u.lateOps c) [])).lose 19).modCore c Core.takeRemote))) ∧
    (∀ (k : Core) (o p : Op), k.pipe = [p, o] → o.id ≠ p.id → (∀ x, o.act ≠ some (.rwait x)) → (∀ l t, o.act ≠ some (.cwait l t)) →
      (∀ l a n, o.act ≠ some (.wpwait l a n)) → k.waitedFor c [o] [] = if o.needs c p = true then [p.id, o.id] else [o.id]) ∧
    (∀ k : Core, k.rwrite ≠ [] → k.takeRemote.rwrite = [] ∧ (∀ a, Sparse.get 0 k.takeRemote.spm a =
      match k.rwrite.reverse.find? fun e => e.1 == a with | some e => e.2 | none => Sparse.get 0 k.spm a)) ∧
    (∀ (k : Core) (ids : List Nat) (o : Op) (j : Nat), k.pipe[j]? = some o → ∃ o', (k.travel ids).pipe[j]? = some o' ∧
      o' = (if o.elastic = true ∧ o.id ∈ ids then { o with pieces := o.pieces.map fun q => { q with due := q.due - 1 } } else o)) ∧
    t = ((u.landThose c Op.landsFirst).landThose c Op.landsNext).landThose c (fun _ => true) ∧
    (∀ o, u.setCore c (u.core c) = u → (u.core c).pipe = [o] → o.accpDue (u.core c).sched = false →
      t = if o.due (u.core c).sched = true ∧ u.ready o = true then u.landOp c o else u) ∧
    (∀ line x pl d w, s.fetchLine c line x = (.ok (pl, d), w) → exec (.lineFill line x) s =
      .next (w.modCore c fun k => { (k.icFill (line % 256) pl d) with fetchWait := none, fetchFail := none })) ∧
    (∀ line x cause dat w, s.fetchLine c line x = (.error (cause, dat), w) → ∃ e, exec (.lineFill line x) s =
      .next (w.modCore c fun k => { k with fetchWait := none, fetchFail := some (line, e) }) ∧ (cause < 256 → e % 256 = cause)) ∧
    (s.me.freeze = 19 → s.me.requests < 1024 → exec .requestEntryFreed s = .next (s.setCore c { s.me with freeze := 0 }))

/-- R2: the step answers a next state, but for a happening that names an agent that the part does not have; no instruction is refused. -/
def Obligations.EveryInstructionIsCarriedOut : Prop :=
  ∀ (i : Instr) (s : State), Out.onlyAgents (exec i s) ∧ Out.onlyAgents (step s) ∧ (s.cur.core < nCores → i.kind.isSome = true → ∃ t, exec i s = .next t)

/-- R73, R80, R107: every step keeps the memory in its canonical form and no line in the L2 twice (the form is the model's own). -/
def Obligations.StepsKeepTheMemoryForm : Prop :=
  ∀ (s t : State), s.memWf → step s = .next t → t.memWf

/-- R110, R125, R176, R204, R227, R249, R391, R395, R434: the state after reset: memory reads zero, no line is cached, every core is bound to no launch with its registers
at their dispatch values, partition 0 alone is enabled, with root, every way unit and block is free, and the device is ready. Values for which the manual gives no reset
are the model's choice (log entries 1 to 3). -/
def Obligations.ResetLeavesTheFirstState : Prop :=
  let s := State.reset
  s.memWf ∧ (∀ ms a n, s.peek ms a n = List.replicate n 0) ∧ s.l2 = [] ∧ s.tlb = [] ∧ s.launches = [] ∧ s.scrubs = [] ∧ (∀ d, d ∈ s.domains) ∧ s.live = true ∧
  (∀ c, let k := s.core c
    k.run = .free ∧ (∀ n, k.rx n = 0) ∧ (∀ n, k.rv n = []) ∧ (∀ n, k.rk n = 0) ∧ k.queues = [[], [], [], []] ∧ k.pipe = [] ∧ (∀ n, (k.token n).pend = false) ∧
    (∀ n, k.chan n = []) ∧ (∀ g ∈ k.groups, g.st = 0) ∧ k.mx = {} ∧ (∀ n, k.rsr n = if 0x0C9 ≤ n ∧ n < 0x0CF then 16 else if n = 0x0C6 then 0x200 else 0)) ∧
  s.rw (rpage 0x8000) = 0x1C1 ∧ (∀ p, p < 16 → (s.partEN p = true ↔ p = 0)) ∧ s.partRoot 0 = true ∧ (∀ n, n < 1536 → s.wu n = 0) ∧
  (∀ b, b < 768 → s.rw (rpage (0x6000 + 8 * b)) = 0 ∧ s.ownerOf b = none) ∧ s.rw (rpage 0xC018) = 1 ∧
  (∀ p, p < 16 → s.rw (ppage p 0x1808) = 65536 * 2 ^ 32)

/-! ## Scalar slots -/

/-- R228: the operations that land one cycle later. R228, R72: the products, landing three cycles later. R228: counts of bits. clz is the number of bits above the highest
one bit, ctz that of bits below the lowest, 64 for zero; popc the number of one bits. R230: the immediate forms. -/
def Obligations.ScalarResults : Prop :=
  (∀ (s : State) (d a b : BitVec 6), s.cur.core < nCores →
     let A := s.me.rx a.toNat
     let B := s.me.rx b.toNat
     WordResult s (.add d a b) 1 d (A + B) 0 ∧ WordResult s (.sub d a b) 1 d (A - B) 0 ∧
     WordResult s (.and d a b) 1 d (A &&& B) 0 ∧ WordResult s (.or d a b) 1 d (A ||| B) 0 ∧
     WordResult s (.xor d a b) 1 d (A ^^^ B) 0 ∧ WordResult s (.andn d a b) 1 d (A &&& ~~~B) 0 ∧
     WordResult s (.sll d a b) 1 d (A <<< (B.toNat % 64)) 0 ∧ WordResult s (.srl d a b) 1 d (A >>> (B.toNat % 64)) 0 ∧
     WordResult s (.sra d a b) 1 d (A.sshiftRight (B.toNat % 64)) 0 ∧
     WordResult s (.slt d a b) 1 d (if A.toInt < B.toInt then 1 else 0) 0 ∧
     WordResult s (.sltu d a b) 1 d (if A.toNat < B.toNat then 1 else 0) 0 ∧
     WordResult s (.seq d a b) 1 d (if A = B then 1 else 0) 0 ∧
     WordResult s (.min d a b) 1 d (if A.toInt < B.toInt then A else B) 0 ∧
     WordResult s (.max d a b) 1 d (if A.toInt < B.toInt then B else A) 0 ∧
     WordResult s (.minu d a b) 1 d (if A.toNat < B.toNat then A else B) 0 ∧
     WordResult s (.maxu d a b) 1 d (if A.toNat < B.toNat then B else A) 0) ∧
  (∀ (s : State) (d a b : BitVec 6), s.cur.core < nCores →
     let A := s.me.rx a.toNat
     let B := s.me.rx b.toNat
     WordResult s (.mul d a b) 3 d (BitVec.ofNat 64 (A.toNat * B.toNat)) 0 ∧
     WordResult s (.mulh d a b) 3 d (BitVec.ofInt 64 (A.toInt * B.toInt / 2 ^ 64)) 0 ∧
     WordResult s (.mulhu d a b) 3 d (BitVec.ofNat 64 (A.toNat * B.toNat / 2 ^ 64)) 0) ∧
  (∀ (s : State) (d a : BitVec 6), s.cur.core < nCores →
     let A := s.me.rx a.toNat
     (∃ n : Nat, n ≤ 64 ∧ (∀ i, 64 - n ≤ i → A.getLsbD i = false) ∧ (n < 64 → A.getLsbD (63 - n) = true) ∧
       WordResult s (.clz d a) 1 d (BitVec.ofNat 64 n) 0) ∧
     (∃ n : Nat, n ≤ 64 ∧ (∀ i, i < n → A.getLsbD i = false) ∧ (n < 64 → A.getLsbD n = true) ∧
       WordResult s (.ctz d a) 1 d (BitVec.ofNat 64 n) 0) ∧
     WordResult s (.popc d a) 1 d (BitVec.ofNat 64 ((List.range 64).filter fun i => A.getLsbD i).length) 0) ∧
  (∀ (s : State) (d a sh : BitVec 6) (imm : BitVec 12) (big : BitVec 18), s.cur.core < nCores →
     let A := s.me.rx a.toNat
     let D := s.me.rx d.toNat
     WordResult s (.addi d a imm) 1 d (A + imm.signExtend 64) 0 ∧ WordResult s (.andi d a imm) 1 d (A &&& imm.setWidth 64) 0 ∧
     WordResult s (.ori d a imm) 1 d (A ||| imm.setWidth 64) 0 ∧ WordResult s (.xori d a imm) 1 d (A ^^^ imm.setWidth 64) 0 ∧
     WordResult s (.slli d a sh) 1 d (A <<< sh.toNat) 0 ∧ WordResult s (.srli d a sh) 1 d (A >>> sh.toNat) 0 ∧
     WordResult s (.srai d a sh) 1 d (A.sshiftRight sh.toNat) 0 ∧
     WordResult s (.slti d a imm) 1 d (if A.toInt < imm.toInt then 1 else 0) 0 ∧
     WordResult s (.sltiu d a imm) 1 d (if A.toNat < (imm.signExtend 64 : Word).toNat then 1 else 0) 0 ∧
     WordResult s (.li d big) 1 d (big.signExtend 64) 0 ∧
     WordResult s (.lui d big) 1 d ((big.signExtend 64) <<< 18) 0 ∧
     WordResult s (.lsh d big) 1 d ((D <<< 18) ||| big.setWidth 64) 0)

/-- R229: quotients and remainders with their corners, landing after 18 cycles of their slot's divider; DZ is flag 2 and IW flag 32 of the slot's exception record (R200),
and no other scalar instruction raises a flag. -/
def Obligations.ScalarDivision : Prop :=
  ∀ (s : State) (d a b : BitVec 6), s.cur.core < nCores →
    let A := s.me.rx a.toNat
    let B := s.me.rx b.toNat
    (B = 0 → DivResult s (.div d a b) d (BitVec.allOnes 64) 2 ∧ DivResult s (.divu d a b) d (BitVec.allOnes 64) 2 ∧
      DivResult s (.rem d a b) d A 2 ∧ DivResult s (.remu d a b) d A 2) ∧
    (A = BitVec.intMin 64 → B = BitVec.allOnes 64 →
      DivResult s (.div d a b) d (BitVec.intMin 64) 32 ∧ DivResult s (.rem d a b) d 0 32) ∧
    (B ≠ 0 → ¬ (A = BitVec.intMin 64 ∧ B = BitVec.allOnes 64) →
      (∃ q r : Word, q.toInt = A.toInt.tdiv B.toInt ∧ r.toInt = A.toInt - B.toInt * A.toInt.tdiv B.toInt ∧
        DivResult s (.div d a b) d q 0 ∧ DivResult s (.rem d a b) d r 0)) ∧
    (B ≠ 0 → (∃ q r : Word, q.toNat = A.toNat / B.toNat ∧ r.toNat = A.toNat % B.toNat ∧
        DivResult s (.divu d a b) d q 0 ∧ DivResult s (.remu d a b) d r 0)) ∧
    (∀ (i : Instr) (x y z v : Word) (fl : Nat), (∀ d a b, i ≠ .div d a b ∧ i ≠ .divu d a b ∧ i ≠ .rem d a b ∧ i ≠ .remu d a b) →
      scalarVal i x y z = some (v, fl) → fl = 0)

/-- R232: a branch whose condition holds takes its transfer, to the bundle's address plus four times its offset; one whose condition does not hold has no effect. R232:
jumps always transfer; jl and jlr deliver the link, which steps over the bundle itself and its two delay bundles by the lengths in their headers. jlr reads xa before
the link is written. -/
def Obligations.BranchesAndJumps : Prop :=
  (∀ (s : State) (a b : BitVec 6) (off : BitVec 12), s.cur.core < nCores →
     let A := s.me.rx a.toNat
     let B := s.me.rx b.toNat
     let whom (cond : Prop) [Decidable cond] : Core :=
       if cond then { s.me with pend := s.me.pend ++ [(relTarget s.cur.addr off, 3)] } else s.me
     Leaves s (.beq a b off) (whom (A = B)) ∧ Leaves s (.bne a b off) (whom (A ≠ B)) ∧
     Leaves s (.blt a b off) (whom (A.toInt < B.toInt)) ∧ Leaves s (.bge a b off) (whom (B.toInt ≤ A.toInt)) ∧
     Leaves s (.bltu a b off) (whom (A.toNat < B.toNat)) ∧ Leaves s (.bgeu a b off) (whom (B.toNat ≤ A.toNat))) ∧
  (∀ (s : State) (d a : BitVec 6) (off : BitVec 24) (lo : BitVec 18) (h₀ h₁ h₂ : Nat), s.cur.core < nCores →
     let a₁ := codeAddr (s.cur.addr + Header.len h₀)
     let a₂ := codeAddr (a₁ + Header.len h₁)
     let link : Word := BitVec.ofNat 64 (codeAddr (a₂ + Header.len h₂))
     let whom (t : Nat) : Core := { s.me with pend := s.me.pend ++ [(t, 3)] }
     Leaves s (.j off) (whom (relTarget s.cur.addr off)) ∧ Leaves s (.jr a) (whom ((s.me.rx a.toNat).toNat / 4 * 4)) ∧
     (s.header s.cur.addr = some h₀ → s.header a₁ = some h₁ → s.header a₂ = some h₂ →
       (∃ t o, exec (.jl d lo) s = .next t ∧ Issued s t (.jl d lo) 1 (whom (relTarget s.cur.addr lo)) o ∧
         Lands o (WordWritten d link (excOfSlot s.cur.slot) 0 s.cur.addr)) ∧
       (∃ t o, exec (.jlr d a) s = .next t ∧ Issued s t (.jlr d a) 1 (whom ((s.me.rx a.toNat).toNat / 4 * 4)) o ∧
         Lands o (WordWritten d link (excOfSlot s.cur.slot) 0 s.cur.addr))))

/-- R231: where no loop is active, the bundle that takes a transfer is followed by two more bundles in address order, and then by the transfer's target, whatever the
lengths of the bundles. R234: at the end of one active loop with no transfer due, a count of two or more goes down by one and the loop's first bundle issues next; a
count of one becomes zero and the next bundle in address order issues. -/
def Obligations.TheSequencerChoosesTheNextBundle : Prop :=
  (∀ (c : Core) (target a₀ n₀ n₁ n₂ : Nat), (∀ n, n < 4 → c.loopCnt n = 0) → c.pend = [] →
     let c₁ := (({ c with pend := [(target, 3)] } : Core).sequence a₀ n₀).1
     let c₂ := (c₁.sequence c₁.pc n₁).1
     let c₃ := (c₂.sequence c₂.pc n₂).1
     c₁.pc = codeAddr (a₀ + n₀) ∧ c₂.pc = codeAddr (c₁.pc + n₁) ∧ c₃ = { c with pc := target, pend := [] }) ∧
  (∀ (c : Core) (n a len : Nat), n < 4 → c.pend = [] → c.loopCnt n ≠ 0 → c.loopEnd n = a → (∀ m, m < 4 → m ≠ n → c.loopCnt m = 0) →
     let c' := (c.sequence a len).1
     (∀ r, c'.rsr r = if r = 0x20 + 4 * n then BitVec.ofNat 64 (c.loopCnt n - 1) else c.rsr r) ∧
     c'.pc = (if 2 ≤ c.loopCnt n then c.loopFirst n else codeAddr (a + len)) ∧
     c' = { c with pc := c'.pc, sr := c'.sr })

/-- R233, R236: loop and loopi arm a counter one cycle later: the count, the bundle that follows, and the end; a count of zero is one. lcrd reads a counter. R237: the
writes of a generator's values, landing one cycle later (a new base zeroes the offset), and the read of its address. R238: a use of a generator adds STEP to OFS, and
with a WRAP leaves the remainder r with 0 ≤ r < WRAP that differs from the signed sum by a multiple of WRAP. -/
def Obligations.LoopsAndGeneratorsAreSet : Prop :=
  (∀ (s : State) (n : BitVec 2) (a d : BitVec 6) (cnt : BitVec 10) (off : BitVec 12) (h : Nat), s.cur.core < nCores →
     let armed (v : Nat) (k k' : Core) : Prop :=
       k' = { k with sr := k'.sr, pipe := k'.pipe } ∧
       ∀ m, k'.rsr m = if m = 0x20 + 4 * n.toNat then BitVec.ofNat 64 v
         else if m = 0x21 + 4 * n.toNat then BitVec.ofNat 64 (codeAddr (s.cur.addr + Header.len h))
         else if m = 0x22 + 4 * n.toNat then BitVec.ofNat 64 (codeAddr (s.cur.addr + 4 * off.toNat))
         else k.rsr m
     (s.header s.cur.addr = some h →
       (∃ t o, exec (.loop n a off) s = .next t ∧ Issued s t (.loop n a off) 1 s.me o ∧
         Lands o (armed (if (s.me.rx a.toNat).toNat % 2 ^ 32 = 0 then 1 else (s.me.rx a.toNat).toNat % 2 ^ 32))) ∧
       (∃ t o, exec (.loopi n cnt off) s = .next t ∧ Issued s t (.loopi n cnt off) 1 s.me o ∧ Lands o (armed (cnt.toNat + 1)))) ∧
     WordResult s (.lcrd d n) 1 d (s.me.rsr (0x20 + 4 * n.toNat)) 0) ∧
  (∀ (s : State) (n : BitVec 2) (a d : BitVec 6), s.cur.core < nCores →
     let A := s.me.rx a.toNat
     let set (v : Nat → Option Word) (k k' : Core) : Prop :=
       k' = { k with sr := k'.sr, pipe := k'.pipe } ∧
       ∀ m, k'.rsr m = match (if 0x30 + 4 * n.toNat ≤ m ∧ m < 0x34 + 4 * n.toNat then v (m - (0x30 + 4 * n.toNat)) else none) with
         | some w => w
         | none => k.rsr m
     (∃ t o, exec (.agbase n a) s = .next t ∧ Issued s t (.agbase n a) 1 s.me o ∧
       Lands o (set fun i => if i = 0 then some A else if i = 3 then some 0 else none)) ∧
     (∃ t o, exec (.agstep n a) s = .next t ∧ Issued s t (.agstep n a) 1 s.me o ∧ Lands o (set fun i => if i = 1 then some A else none)) ∧
     (∃ t o, exec (.agwrap n a) s = .next t ∧ Issued s t (.agwrap n a) 1 s.me o ∧ Lands o (set fun i => if i = 2 then some A else none)) ∧
     WordResult s (.agrd d n) 1 d (s.me.rsr (0x30 + 4 * n.toNat) + s.me.rsr (0x33 + 4 * n.toNat)) 0) ∧
  (∀ (c : Core) (n : Nat), n < 4 →
     let sum := c.rsr (0x33 + 4 * n) + c.rsr (0x31 + 4 * n)
     let wrap := c.rsr (0x32 + 4 * n)
     let c' := c.agStep n
     (∀ m, m ≠ 0x33 + 4 * n → c'.rsr m = c.rsr m) ∧
     (wrap = 0 → c'.rsr (0x33 + 4 * n) = sum) ∧
     (wrap ≠ 0 → (c'.rsr (0x33 + 4 * n)).toNat < wrap.toNat ∧
       ∃ q : Int, sum.toInt - ((c'.rsr (0x33 + 4 * n)).toNat : Int) = q * wrap.toNat))

/-! ## System registers, stops and endings -/

/-- R239, R401: a read delivers the register's value as of its issue, two cycles later; a read of CNTRD.LO has its shadow write follow, which takes the high half of the
virtual counter. R239: the three write forms, seen two cycles later: the register takes xa, its bits or-ed with xa, or its bits without xa's. -/
def Obligations.SystemRegisterSlots : Prop :=
  (∀ (s : State) (d : BitVec 6) (n : BitVec 12), s.cur.core < nCores → s.me.level.reaches (Instr.srrd d n).needs = true →
     let v := s.sysRead s.cur.core n.toNat
     (n.toNat ≠ 0x002 → WordResult s (.srrd d n) 2 d v 0) ∧
     (n.toNat = 0x002 → ∃ t o,
       exec (.srrd d n) s = .next { t with turn := { cur := { core := s.cur.core }, act := .cntrdLoRead } :: s.turn } ∧
       Issued s t (.srrd d n) 2 s.me o ∧ Lands o (WordWritten d v (excOfSlot s.cur.slot) 0 s.cur.addr)) ∧
     Leaves s .cntrdLoRead { s.me with shadow := BitVec.ofNat 32 ((s.vc s.me.part).toNat / 2 ^ 32) }) ∧
  (∀ (s : State) (n : BitVec 12) (a : BitVec 6), s.cur.core < nCores →
     let A := s.me.rx a.toNat
     let writes (i : Instr) (v : Word → Word) : Prop :=
       s.me.level.reaches i.needs = true → ∃ t o, exec i s = .next t ∧ Issued s t i 2 s.me o ∧
         ∀ (u : State) (c : Nat), u.landOp c o = (u.dropOp c o.id).sysWrite c n.toNat (v ((u.dropOp c o.id).sysRead c n.toNat))
     writes (.srwr n a) (fun _ => A) ∧ writes (.srset n a) (fun old => old ||| A) ∧ writes (.srclr n a) (fun old => old &&& ~~~A))

/-- R241, R323, R401, R415, R422: the registers that are computed when they are read. R239, R222, R358: a write changes the fields that the register's map marks RW, of that
register alone; a register that a partition shares changes for all its cores; WC.SIG is also what the signature unit starts from, unless an
operation of it is under way. -/
def Obligations.SystemRegisterValues : Prop :=
  (∀ (s : State) (c : Nat), c < nCores → (s.core c).lpos < 128 → (s.core c).part < 16 →
     let k := s.core c
     getF (s.sysRead c 0x000) 0 7 = c ∧ getF (s.sysRead c 0x000) 8 7 = k.lpos ∧ getF (s.sysRead c 0x000) 16 4 = k.part ∧
     s.sysRead c 0x001 = s.time ∧ s.sysRead c 0x004 = s.time - s.rw (rpage (0x8030 + 64 * k.part)) ∧
     (s.sysRead c 0x002).toNat = (s.sysRead c 0x004).toNat % 2 ^ 32 ∧ (s.sysRead c 0x003).toNat = k.shadow.toNat ∧
     s.sysRead c 0x182 = BitVec.ofNat 64 k.sched ∧
     (∀ m, m < 0x1000 → sysShared m = true → s.sysRead c m = s.rp k.part m)) ∧
  (∀ (s : State) (c n : Nat) (v : Word), n < 0x1000 →
     (sysShared n = false → n ≠ 0x018 → n ≠ 0x191 → n ≠ 0x198 → ¬ (0x1A0 ≤ n ∧ n < 0x1B0) → n ≠ 0x086 →
       OnlyCore s (s.sysWrite c n v) c ∧
       let k' := (s.sysWrite c n v).core c
       k' = { s.core c with sr := k'.sr } ∧
       ∀ m, k'.rsr m = if m = n then ((s.core c).rsr n &&& ~~~sysMask n) ||| (v &&& sysMask n) else (s.core c).rsr m) ∧
     (sysShared n = true → n ≠ 0x086 →
       (s.sysWrite c n v).cores = s.cores ∧ (s.sysWrite c n v).mem = s.mem ∧
       ∀ p m, p < 16 → m < 0x1000 → (s.sysWrite c n v).rp p m =
         if p = (s.core c).part ∧ m = n then (s.rp p m &&& ~~~sysMask n) ||| (v &&& sysMask n) else s.rp p m) ∧
     (n = 0x018 → (s.sysWrite c n v).core c =
       { (s.core c).wsr 0x018 (((s.core c).rsr 0x018 &&& ~~~(0xFFFFFFFF : Word)) ||| (v &&& 0xFFFFFFFF)) with
         sig := if (s.core c).signing = true then (s.core c).sig else v.setWidth 32 }))

/-- R67, R68, R240: an instruction that needs a level above the core's own has no effect but the stop it asks for, with reason PRIVILEGE (7) and its slot in the detail.
R242, R243, R344, R364, R425: trap and brk ask for a stop that carries imm; done ends the core's issue, as gsend does in a guarded tile; resume ends the in-place
handler, is NO_CONTEXT where none runs and CLAIM_HELD where the handler still has the array's claim (R278, R281, R365). R344: outside a guarded tile gsres and gsend are recorded with status FAULT and cause GS_CONTEXT. R343: gsres takes the
magnitude of the f32 in xa into the residual of the core's tile, the greatest so far, a NaN staying one; nothing else changes. -/
def Obligations.StopsAndEndings : Prop :=
  (∀ (s : State) (i : Instr) (d a : BitVec 6) (n : BitVec 12) (m : MArgs), s.cur.core < nCores →
     i ∈ [.srrd d n, .srwr n a, .srset n a, .srclr n a, .resume, .mretry, .mclaim, .mrelease, .tlbiva m, .tlbiall, .l2inv m] →
     s.me.level.reaches i.needs = false →
     Leaves s i { s.me with trapped := some (0x81, 7 + 16 * s.cur.slot) }) ∧
  (∀ (s : State) (imm : BitVec 12), s.cur.core < nCores →
     Leaves s (.trap imm) { s.me with trapped := some (0x87, imm.toNat) } ∧
     Leaves s (.brk imm) { s.me.wsr 0x181 0 with trapped := some (0x88, imm.toNat) } ∧
     Leaves s .done { s.me with run := .ended } ∧
     (s.me.guarded = true → Leaves s .gsend { s.me with run := .ended }) ∧
     (s.me.level.reaches .partition = true → s.me.handler = true →
       (s.me.mx.claim = false → Leaves s .resume { s.me with resuming := true }) ∧
       (s.me.mx.claim = true → Leaves s .resume { s.me with trapped := some (0xA4, 0) })) ∧
     (s.me.level.reaches .partition = true → s.me.handler = false → Leaves s .resume { s.me with trapped := some (0xA6, 0) })) ∧
  (∀ (s : State) (a : BitVec 6), s.cur.core < nCores → s.me.guarded = false →
     (∃ t o, exec (.gsres a) s = .next t ∧ Issued s t (.gsres a) 1 s.me o ∧ o.fault = true ∧ o.cause = 0xA3) ∧
     (∃ t o, exec .gsend s = .next t ∧ Issued s t .gsend 1 s.me o ∧ o.fault = true ∧ o.cause = 0xA3)) ∧
  (∀ (s : State) (a : BitVec 6), s.cur.core < nCores → s.me.guarded = true →
     let v : Elem := (s.me.rx a.toNat).setWidth 32 &&& 0x7FFFFFFF
     let nan (e : Elem) : Prop := 0x7F800000 < (e &&& 0x7FFFFFFF).toNat
     ∃ t, exec (.gsres a) s = .next t ∧ t = { s with launches := t.launches } ∧
       t.launches.map (fun l => { l with tiles := [] }) = s.launches.map (fun l => { l with tiles := [] }) ∧
       ∀ (j k : Nat) (l l' : Launch) (x x' : Tile), s.launches[j]? = some l → t.launches[j]? = some l' → l.tiles[k]? = some x → l'.tiles[k]? = some x' →
         (¬ (s.me.launch = some l.key ∧ s.me.tile = some x.n) → x' = x) ∧
         (s.me.launch = some l.key → s.me.tile = some x.n → x' = { x with got := true, r := x'.r } ∧
           (nan v → x'.r = 0x7FC00000) ∧ (¬ nan v → x.got = false → x'.r = v) ∧
           (¬ nan v → x.got = true → nan x.r → x'.r = x.r) ∧
           (¬ nan v → x.got = true → ¬ nan x.r → x'.r = if x.r.toNat < v.toNat then v else x.r)))

/-- R349, R350: what stops a core before it looks at its bundle: a RANGER, TIMING_ESCALATION or WATCHDOG stop in that order, then a stop found at a landing, then what an
instruction asked for, then a recorded fault. An operation that stops the core at its landing has not landed and is a record with status FAULT. R350, R351: a stop (here one that is not taken in place, with stop records off) writes the cause with the handler bit, the
detail, the stop address and, for a port conflict, the banks; nothing remains in flight but the records; and the save engine takes the core as a full stop. What an in-
place stop does to units and replays is the model's reading (log entry 40). -/
def Obligations.UrgentStopsAreTaken : Prop :=
  (∀ (s : State) (c : Nat),
     let k := s.core c
     (∀ x, ([0x8C, 0x8E, 0x8A] : List Nat).find? k.ext.contains = some x → s.urgent c = some (s.takeStop c { cause := x })) ∧
     (([0x8C, 0x8E, 0x8A] : List Nat).find? k.ext.contains = none → k.landStops = [] →
       (∀ cause d, k.trapped = some (cause, d) → s.urgent c = some (s.takeStop c { cause := cause, detail := d, addr := k.lastAddr })) ∧
       (k.trapped = none → (∀ o, k.pipe.find? (·.fault) = some o → s.urgent c = some (s.takeStop c { cause := o.cause, addr := o.addr })) ∧
         (k.pipe.find? (·.fault) = none → s.urgent c = none))) ∧
     (∀ o cause r, ([0x8C, 0x8E, 0x8A] : List Nat).find? k.ext.contains = none → k.landStops = (o, cause) :: r → s.urgent c =
       some ((s.modCore c fun k => k.landStops.foldl (fun (k : Core) e => k.failLanding e.1 e.2) k).takeStop c { cause := cause, addr := o.addr })) ∧
     (∀ (w : Core) o, w.pipe = [o] → o.fault = false → w.landStops = (match w.landStop o with | some x => [(o, x)] | none => []) ∧
       ∀ x, (w.failLanding o x).pipe = [{ o with fault := true, cause := x }]) ∧
     (∀ (w : Core) o, o.due w.sched = false → w.landStop o = none)) ∧
  (∀ (s : State) (c : Nat) (st : Stop), c < nCores → bitN ((s.core c).rsr 0x198).toNat 2 = false →
     (s.core c).handler = true ∨ bitN (s.rp (s.core c).part 0x108).toNat 0 = false ∨ rootCause (st.cause % 256) (st.detail % 2 ^ 64) = true →
     let t := s.takeStop c st
     let k := t.core c
     OnlyCore s t c ∧ k.run = .saving 1 0 ∧ k.trapped = none ∧ k.ext = [] ∧ k.pc = (s.core c).pc ∧
     (∀ m, k.rsr m = if m = 0x100 then BitVec.ofNat 64 (st.cause % 256 + 256 * (if (s.core c).handler then 1 else 0))
       else if m = 0x101 then BitVec.ofNat 64 st.detail
       else if m = 0x103 then BitVec.ofNat 64 (codeAddr st.addr)
       else if m = 0x102 then st.bank.getD ((s.core c).rsr 0x102)
       else if m = 0x0C4 ∧ (s.core c).mretry.isSome = true then setF ((s.core c).rsr 0x0C4) 8 1 1
       else (s.core c).rsr m) ∧
     (∀ o ∈ k.pipe, o.phase = .det ∧ o.pieces = []))

/-- R356, R358, R360, R361: an in-place stop writes the COMMIT word with V 0, then the loops and generators, WC.SIG, x56 to x63, the pending transfers, the busy units, the
latch file, v248 to v255, the reserved part of the scratchpad, the header and the records, and the COMMIT word with V 1. Once the in-place area holds the context, the handler
starts: at the vector, at partition level, with its area in x56, no loop active, nothing in flight, and the handler bit set in the cause. What an in-place stop does to units
is the model's reading (log entry 40). -/
def Obligations.TheHandlerIsEntered : Prop :=
  (∀ (s : State) (c : Nat), let k := s.core c
    (let w := Area.virt (s.handlerCtx c)
     let a := s.inplaceArea c
     let h := s.areaHead c 2 k.recordBlob
     (∀ s₁ s₂ s₃ r, s.storeArea w (a + 8) (h.commit false) = (none, s₁) → s₁.readSaved c [(0, 0x2F0000, 0x10000)] = (true, s₂) →
       s₂.storeParts w a (s.inplaceParts c ++ [(0x10, s₂.headBlob c h), (0x78000, k.recordBlob), (8, h.commit true)]) = (r, s₃) →
       s.stopInPlace c = s₃.inPlaceDone c a r) ∧
     numAt (h.commit true).2 0 8 = 5 + k.stopCause * 256 ∧ numAt (h.commit false).2 0 8 = 4 + k.stopCause * 256 ∧
     let head := (s.headBlob c h).2
     numAt head 0 8 = codeAddr k.pc ∧ numAt head 8 8 = min 63 (k.nextIssue - k.sched) ∧ wordAt head 16 = k.rsr 0x101 ∧ wordAt head 24 = k.rsr 0x102 ∧
     wordAt head 32 = k.rsr 0x103 ∧ wordAt head 56 = k.stopAt) ∧
    ∃ loops sig xs third latches vs reserved : Sparse Byte,
      s.inplaceParts c = [(0x1100, (256, loops)), (0x10C0, (8, sig)), (0x31C0, (64, xs)), (0x3200, (64, third)), (0x10000, (0x18800, latches)),
        (0x30000, (0x8000, vs)), (0x38000, (0x10000, reserved))] ∧
      (∀ i, i < 32 → wordAt loops (8 * i) = s.sysRead c (0x20 + i)) ∧ wordAt sig 0 = k.rsr 0x018 ∧ (∀ i, i < 8 → wordAt xs (8 * i) = k.rx (56 + i)) ∧
      (∀ i, i < 2 → numAt third (8 * i) 8 = match k.pend[i]? with | some (t, n) => 1 + (if n ≤ 1 then 2 else 0) + codeAddr t | none => 0) ∧
      (∀ i, i < 7 → numAt third (16 + i) 1 = min 3 (Sparse.get 0 k.unitEnd i - k.sched)) ∧
      (∀ i, i < 2 → numAt third (24 + i) 1 = min 17 (Sparse.get 0 k.unitEnd (8 + i) - k.sched)) ∧
      (∀ i j, j < 4096 → (i < 17 → Sparse.get 0 latches (4096 * i + j) = Sparse.get 0 (k.rLatch (0x140 + i)).image j) ∧
        (i < 7 → Sparse.get 0 latches (0x11000 + 4096 * i + j) = Sparse.get 0 (k.rRes (0x140 + i)).image j) ∧
        (i < 8 → Sparse.get 0 vs (4096 * i + j) = Sparse.get 0 (k.rv (248 + i)).image j)) ∧
      (∀ n, n < 16 → numAt latches (0x18000 + 128 * n) 128 = (k.rk n).toNat) ∧
      (∀ j, j < 0x10000 → Sparse.get 0 reserved j = Sparse.get 0 k.spm (0x2F0000 + j))) ∧
  ∀ (s : State) (c area : Nat), c < nCores →
    let t := s.inPlaceDone c area none
    let k := t.core c
    OnlyCore s t c ∧ k.handler = true ∧ k.level = .partition ∧ k.hlevel = (s.core c).level ∧ k.run = .running ∧
    k.pc = codeAddr (s.rp (s.core c).part 0x109).toNat ∧ k.pipe = [] ∧ k.pend = [] ∧ k.unitEnd = [] ∧
    (∀ n, k.rx n = if n = 56 then BitVec.ofNat 64 area else (s.core c).rx n) ∧
    (∀ m, k.rsr m = if m = 0x20 ∨ m = 0x24 ∨ m = 0x28 ∨ m = 0x2C then 0
      else if m = 0x100 then BitVec.ofNat 64 ((s.core c).stopCause + 256) else (s.core c).rsr m) ∧
    (∀ r, k.rv r = (s.core c).rv r) ∧ k.spm = (s.core c).spm ∧ k.acc = (s.core c).acc

/-! ## The matrix array and the scale slot -/

/-- R79, R83, R254, R255: a push reads its two blocks from the scratchpad through its generators, which advance, takes its read ports, and four cycles later puts blocks, pair
and segment into its slot; the other slots and all else stay. A sparse push takes the segment and moves SEG on. Beyond this only what the reading of the
blocks leaves has changed, which is nothing where no upset has struck them; where a word cannot be corrected the push is DATA_ABORT (log entry 84). -/
def Obligations.PushesFillTheirSlot : Prop :=
  ∀ (s u : State) (n ga gb : BitVec 2) (fa fb : ArrFmt) (p : BitVec 3) (sp : Bool), s.cur.core < nCores → u.cur = s.cur → u.me = s.me →
    let i : Instr := .push n ga gb fa fb p sp
    let aa := (s.me.ag ga.toNat).toNat
    let bb := ((s.me.agStep ga.toNat).ag gb.toNat).toNat
    let blocks := [(aa, lenA fa p.toNat sp), (bb, lenB fa fb p.toNat sp)]
    let stepped := (s.me.agStep ga.toNat).agStep gb.toNat
    let ported : Core := { stepped with ports := s.me.ports ++
      [(2 * (aa / 2 ^ 20 % 4), s.me.sched + (lenA fa p.toNat sp + 511) / 512, 3), (2 * (bb / 2 ^ 20 % 4), s.me.sched + (lenB fa fb p.toNat sp + 511) / 512, 3)] }
    let lands (o : Op) (seg : Nat) : Prop := Lands o fun k k' =>
      k' = { k with pipe := k'.pipe, mx := { k.mx with slots := (List.range 4).map (fun j =>
        if j = n.toNat then { k.slot j with a := s.me.spmBytes aa (lenA fa p.toNat sp), b := s.me.spmBytes bb (lenB fa fb p.toNat sp)
                                            fa := fa, fb := fb, p := p.toNat, sp := sp, seg := seg }
        else k.slot j) } }
    (s.strikes = [] → s.arrayRead s.cur.core 0 blocks = (true, s)) ∧
    (s.arrayRead s.cur.core 0 blocks = (true, u) → s.me.arrayDenied = none → pushCheck aa bb fa fb p.toNat sp = none →
      (sp = false → ∃ t o, exec i s = .next t ∧ Issued u t i 4 ported o ∧ o.fault = false ∧ lands o 0) ∧
      (sp = true → ∀ d, ported.segPush (pairW fa p.toNat) = some d →
        ∃ t o, exec i s = .next t ∧ Issued u t i 4 d o ∧ o.fault = false ∧ lands o (getF (s.me.rsr 0x0C6) 0 6)) ∧
      (sp = true → ported.segPush (pairW fa p.toNat) = none →
        ∃ t o, exec i s = .next t ∧ Issued u t i 4 ported o ∧ o.fault = true ∧ o.cause = 0x9A)) ∧
    (∀ k whole, s.arrayRead s.cur.core 0 blocks = (whole, u) → firstCause [s.me.arrayDenied, pushCheck aa bb fa fb p.toNat sp] = some k →
      ∃ t o, exec i s = .next t ∧ Issued u t i 4 ported o ∧ o.fault = true ∧ o.cause = k) ∧
    (s.arrayRead s.cur.core 0 blocks = (false, u) → s.me.arrayDenied = none → pushCheck aa bb fa fb p.toNat sp = none →
      ∃ t o, exec i s = .next t ∧ Issued u t i 4 ported o ∧ o.fault = true ∧ o.cause = 0x91)

/-- R251, R256, R264: an accumulating beat on a slot whose pair is the instruction's, in the pass's class, lands two cycles later: every cell of P is one rounding of itself and
its terms, each checksum lane one rounding of itself and the terms of its row or column, or of their magnitudes, which an integer class does not keep; and one beat more is
counted. The first beat sets the class. R256: accp, dense or sparse, is a beat on the first slot, which lands two cycles later, and a push into slot t, which lands at four. Of
the rest of the part only what the reading of its blocks leaves has changed, which is nothing where no upset has struck. NaN cells are as log entry 32 reads them. -/
def Obligations.BeatsAccumulate : Prop :=
  (∀ (s : State) (n : BitVec 2) (fa fb : ArrFmt) (p : BitVec 3) (sp : Bool), s.cur.core < nCores →
     let i : Instr := .acc n fa fb p sp
     let q := s.me.slot n.toNat
     let cls : Core := if s.me.mx.cls = 0 then { s.me with mx := { s.me.mx with cls := pairClass fa } } else s.me
     (s.me.arrayDenied = none → s.me.accCheck q fa fb p.toNat sp = none →
       ∃ t o, exec i s = .next t ∧ Issued s t i 2 cls o ∧ o.fault = false ∧ Lands o fun k k' =>
         let int := intClass (pairClass fa)
         let row (x : Nat) : List (Machine.Num × Nat) := (List.range 128).flatMap fun y => q.terms x y
         let col (y : Nat) : List (Machine.Num × Nat) := (List.range 128).flatMap fun x => q.terms x y
         let adds (m m' : Sparse Elem) (x : Nat) (ts : List (Machine.Num × Nat)) : Prop := Sparse.get 0 m' x = (addTerms int (Sparse.get 0 m x) ts).1
         k' = { k with mx := k'.mx, sr := k'.sr, pipe := k'.pipe } ∧ k'.mx.cls = k.mx.cls ∧ k'.mx.beats = k.mx.beats + 1 ∧
         k'.mx.slots = k.mx.slots ∧
         (∀ x, x < 128 → adds k.mx.rc k'.mx.rc x (row x) ∧ adds k.mx.cc k'.mx.cc x (col x) ∧
           (int = false → adds k.mx.mr k'.mx.mr x ((row x).map absTerm) ∧ adds k.mx.mc k'.mx.mc x ((col x).map absTerm))) ∧
         (int = true → k'.mx.mr = k.mx.mr ∧ k'.mx.mc = k.mx.mc) ∧
         (bitN (k.rsr 0x0C7).toNat 63 = false →
           (∀ x y, x < 128 → y < 128 → adds k.mx.p k'.mx.p (128 * x + y) (q.terms x y)) ∧
           (∀ m, m ≠ 0x012 → k'.rsr m = k.rsr m))) ∧
     (∀ k, firstCause [s.me.arrayDenied, s.me.accCheck q fa fb p.toNat sp] = some k →
       ∃ t o, exec i s = .next t ∧ Issued s t i 2 s.me o ∧ o.fault = true ∧ o.cause = k)) ∧
  (∀ (s u : State) (n ga gb t' : BitVec 2) (fa fb : ArrFmt) (p : BitVec 3) (sp : Bool), s.cur.core < nCores → u.cur = s.cur → u.me = s.me →
     let i : Instr := .accp n ga gb fa fb p sp t'
     let aa := (s.me.ag ga.toNat).toNat
     let bb := ((s.me.agStep ga.toNat).ag gb.toNat).toNat
     let blocks := [(aa, lenA fa p.toNat sp), (bb, lenB fa fb p.toNat sp)]
     let ported : Core := { (s.me.agStep ga.toNat).agStep gb.toNat with
       ports := s.me.ports ++ [(2 * (aa / 2 ^ 20 % 4), s.me.sched + (lenA fa p.toNat sp + 511) / 512, 3),
         (2 * (bb / 2 ^ 20 % 4), s.me.sched + (lenB fa fb p.toNat sp + 511) / 512, 3)] }
     let lands (d : Core) (seg : Nat) : Prop :=
       ∃ t o, exec i s = .next t ∧ Issued u t i 4 { d with mx := if s.me.mx.cls = 0 then { s.me.mx with cls := pairClass fa } else s.me.mx } o ∧ o.fault = false ∧
         (∀ sched, o.accpDue sched = decide (s.me.sched + 2 ≤ sched)) ∧
         (∀ k : Core, k.landAccp o = k.landBeat (s.me.slot n.toNat) s.cur.addr) ∧
         Lands o fun k k' => k' = { k with pipe := k'.pipe, mx := { k.mx with slots := (List.range 4).map (fun j =>
           if j = t'.toNat then { k.slot j with a := s.me.spmBytes aa (lenA fa p.toNat sp), b := s.me.spmBytes bb (lenB fa fb p.toNat sp)
                                                fa := fa, fb := fb, p := p.toNat, sp := sp, seg := seg }
           else k.slot j) } }
     (s.strikes = [] → s.arrayRead s.cur.core 0 blocks = (true, s)) ∧
     (s.arrayRead s.cur.core 0 blocks = (true, u) →
       s.me.arrayDenied = none → pushCheck aa bb fa fb p.toNat sp = none → s.me.accCheck (s.me.slot n.toNat) fa fb p.toNat sp = none →
       (sp = false → lands ported 0) ∧
       (sp = true → ∀ d, ported.segPush (pairW fa p.toNat) = some d → lands d (getF (s.me.rsr 0x0C6) 0 6)) ∧
       (sp = true → ported.segPush (pairW fa p.toNat) = none →
         ∃ t o, exec i s = .next t ∧ Issued u t i 4 ported o ∧ o.fault = true ∧ o.cause = 0x9A)))

/-- R257: shift puts into its slot, two cycles later, the rows of A from row n on of the slot and then those of the next slot, each as its slot recorded it, plane by plane for
npi, and their scales likewise; slots that record
different pairs are FORMAT_MIX. R258, R273: clear takes the snapshots and ends the class at its issue; two cycles later P, the lanes, the syndrome, MSTAT and MX.RETRY
are zero and PSTART names its bundle. What counts as the same pair is the model's reading (log entry 31). -/
def Obligations.ShiftsAndClears : Prop :=
  (∀ (s : State) (n : BitVec 2) (m : BitVec 3), s.cur.core < nCores → s.me.arrayDenied = none →
     let i : Instr := .shift n m
     let x := s.me.slot n.toNat
     let y := s.me.slot ((n.toNat + 1) % 4)
     (samePair x y = false → ∃ t o, exec i s = .next t ∧ Issued s t i 2 s.me o ∧ o.fault = true ∧ o.cause = 0x99) ∧
     (samePair x y = true → ∃ t o, exec i s = .next t ∧ Issued s t i 2 s.me o ∧ o.fault = false ∧ Lands o fun k k' =>
       k' = { k with mx := { k.mx with slots := k'.mx.slots }, pipe := k'.pipe } ∧
       (∀ j, j < 4 → j ≠ n.toNat → k'.slot j = k.slot j) ∧
       let z := k'.slot n.toNat
       z = { k.slot n.toNat with a := z.a, sa := z.sa } ∧
       (∀ r, r < 128 → Sparse.get 0x7F z.sa r = if r + m.toNat < 128 then Sparse.get 0x7F x.sa (r + m.toNat) else Sparse.get 0x7F y.sa (r + m.toNat - 128)) ∧
       (x.fa ≠ .npi → ∀ r j,
         let bx := rowA (pairW x.fa x.p) x.sp * fmtBits x.fa / 8
         let by_ := rowA (pairW y.fa y.p) y.sp * fmtBits x.fa / 8
         r < 128 → j < bx → Sparse.get 0 z.a (bx * r + j) = if r + m.toNat < 128 then Sparse.get 0 x.a (bx * (r + m.toNat) + j)
           else if j < by_ then Sparse.get 0 y.a (by_ * (r + m.toNat - 128) + j) else 0) ∧
       (x.fa = .npi → ∀ pl r e,
         let rx := rowA (pairW x.fa x.p) x.sp
         let ry := rowA (pairW y.fa y.p) y.sp
         let bit (a : Sparse Byte) (rl r : Nat) : Bool := bitN (Sparse.get 0 a (pl * (16 * rl) + (rl * r + e) / 8)).toNat ((rl * r + e) % 8)
         pl ≤ x.p → r < 128 → e < rx → bit z.a rx r = if r + m.toNat < 128 then bit x.a rx (r + m.toNat)
           else decide (e < ry ∧ pl ≤ y.p) && bit y.a ry (r + m.toNat - 128)))) ∧
  (∀ (s : State), s.cur.core < nCores → s.me.arrayDenied = none →
     ∃ t o, exec .clear s = .next t ∧
       Issued s t .clear 2 { s.me with mx := { s.me.mx with
         cls := 0, snapAg := (List.range 16).map fun k => s.me.rsr (0x30 + k)
         snapLoop := (List.range 12).map fun k => s.me.rsr (0x20 + 4 * (k / 3) + k % 3) } } o ∧ o.fault = false ∧
       Lands o fun k k' =>
         k' = { k with pipe := k'.pipe, sr := k'.sr, mx := { k.mx with p := [], rc := [], cc := [], mr := [], mc := [], syn := [], beats := 0 } } ∧
         ∀ m, k'.rsr m = if m = 0x0C1 ∨ m = 0x0C4 then 0 else if m = 0x0C2 then BitVec.ofNat 64 (codeAddr s.cur.addr + 1) else k.rsr m)

/-- R266, R269, R270: dchk compares the lines of P with the checksum lanes at its issue; twelve cycles later the syndrome holds the outcome, MSTAT is DONE with the counts
of failing rows and columns, and a failure names the bundle and, where CKMODE was 0 at its issue, stops the core with CHECKSUM, the outcome in place. For an integer pass a line fails where its sum and its lane differ. R270, R271, R272: mloc copies the
syndrome to a v register; mfix subtracts the row's recorded difference from one cell of P and marks the pass as fixed; mpass accepts it. R275, R276: with a pass begun
and failed, mretry counts one more replay and starts it at PSTART with the snapshots of the generators and loops; in a handler the replay is left pending; otherwise
mretry has no effect. The sign of an exact difference and the count of a replay are the model's reading (log entries 32 and 38). -/
def Obligations.ChecksAndRecovery : Prop :=
  (∀ (s : State), s.cur.core < nCores → s.me.arrayDenied = none →
     let m := s.me.mx
     let rowFails (x : Nat) : Bool := (dchkLine m.cls (if m.cls = 0 then 0 else s.me.rsr (0x0C7 + m.cls))
       ((List.range 128).map fun y => Sparse.get 0 m.p (128 * x + y)) (Sparse.get 0 m.rc x) (Sparse.get 0 m.mr x)).1
     let colFails (y : Nat) : Bool := (dchkLine m.cls (if m.cls = 0 then 0 else s.me.rsr (0x0C7 + m.cls))
       ((List.range 128).map fun x => Sparse.get 0 m.p (128 * x + y)) (Sparse.get 0 m.cc y) (Sparse.get 0 m.mc y)).1
     let rows := ((List.range 128).map rowFails).countP (·)
     let cols := ((List.range 128).map colFails).countP (·)
     (∃ t o, exec .dchk s = .next t ∧ Issued s t .dchk 12 s.me o ∧ o.fault = false ∧
       (∀ k : Core, o.due k.sched = true → k.landStop o = if rows + cols ≠ 0 ∧ bitN (s.me.rsr 0x0C0).toNat 0 = false then some 0x8F else none) ∧
       (∀ (v : State) (c : Nat), let w := (v.core c).failLanding o 0x8F
         w = { (v.landOp c o).core c with pipe := w.pipe } ∧ w.pipe = (v.core c).pipe.map fun p => if p.id = o.id then { o with fault := true, cause := 0x8F } else p) ∧
       Lands o fun k k' =>
       k' = { k with pipe := k'.pipe, sr := k'.sr, mx := { k.mx with syn := k'.mx.syn } } ∧
       (∀ r, r ≠ 0x0C1 → r ≠ 0x0C3 → k'.rsr r = k.rsr r) ∧
       bitN (k'.rsr 0x0C1).toNat 0 = true ∧ (bitN (k'.rsr 0x0C1).toNat 1 = true ↔ rows + cols ≠ 0) ∧
       getF (k'.rsr 0x0C1) 8 8 = rows ∧ getF (k'.rsr 0x0C1) 16 8 = cols ∧
       getF (k'.rsr 0x0C1) 40 8 = getF (k.rsr 0x0C1) 40 8 ∧
       k'.rsr 0x0C3 = if rows + cols = 0 then k.rsr 0x0C3 else BitVec.ofNat 64 (codeAddr s.cur.addr)) ∧
     (m.cls = 1 → ∀ x, rowFails x = true ↔
       BitVec.ofInt 32 (((List.range 128).map fun y => Sparse.get 0 m.p (128 * x + y)).map BitVec.toInt).sum ≠ Sparse.get 0 m.rc x)) ∧
  (∀ (s : State) (vd : BitVec 8) (x y : BitVec 7), s.cur.core < nCores →
     (∃ t o, exec (.mloc vd) s = .next t ∧ Issued s t (.mloc vd) 4 s.me o ∧ Lands o fun k k' =>
       k' = { k with pipe := k'.pipe, v := k'.v } ∧
       ∀ r, k'.rv r = if r = vd.toNat then s.me.mx.syn.filter (fun e => decide (e.1 < 10 ∨ 12 < e.1)) else k.rv r) ∧
     (∃ t o, exec (.mfix x y) s = .next t ∧ Issued s t (.mfix x y) 2 s.me o ∧ Lands o fun k k' =>
       k' = { k with pipe := k'.pipe, sr := k'.sr, mx := { k.mx with p := k'.mx.p } } ∧
       (∀ e, e ≠ 128 * x.toNat + y.toNat → Sparse.get 0 k'.mx.p e = Sparse.get 0 k.mx.p e) ∧
       (intClass s.me.mx.cls = true → Sparse.get 0 k'.mx.p (128 * x.toNat + y.toNat) =
         Sparse.get 0 s.me.mx.p (128 * x.toNat + y.toNat) - Sparse.get 0 s.me.mx.syn (64 + x.toNat)) ∧
       k'.rsr 0x0C1 = setF (k.rsr 0x0C1) 4 1 1 ∧ ∀ r, r ≠ 0x0C1 → r ≠ 0x012 → k'.rsr r = k.rsr r) ∧
     (∃ t o, exec .mpass s = .next t ∧ Issued s t .mpass 2 s.me o ∧ Lands o fun k k' =>
       k' = { k with pipe := k'.pipe, sr := k'.sr } ∧
       ∀ r, k'.rsr r = if r = 0x0C1 then (k.rsr r &&& ~~~(2 : Word)) ||| 8 else k.rsr r)) ∧
  (∀ (s : State), s.cur.core < nCores → s.me.level.reaches .partition = true →
     let r := setF (s.me.rsr 0x0C4) 0 8 (min 255 (getF (s.me.rsr 0x0C4) 0 8 + 1))
     let can : Prop := bitN (s.me.rsr 0x0C1).toNat 1 = true ∧ bitN (s.me.rsr 0x0C2).toNat 0 = true
     (¬ can → Leaves s .mretry s.me) ∧
     (can → s.me.handler = true → Leaves s .mretry (s.me.wsr 0x0C4 (setF r 8 1 1))) ∧
     (can → s.me.handler = false → Leaves s .mretry { s.me.wsr 0x0C4 r with
       mretry := some { pc := codeAddr (s.me.rsr 0x0C2).toNat, cyc := 0, next := 0, ag := s.me.mx.snapAg, lp := s.me.mx.snapLoop, pipe := [], last := false } }))

/-- R225, R259, R268, R278: drain reads its eight rows and CLS at its issue and six cycles later puts the rows in the tile, or adds them; while MSTAT says FAIL it only
counts itself as suppressed; the last drain of a pass ends PSTART. A drain to a tile from 24 on, or in a handler to one that ACCMASK does not grant, stops the core at its
landing; one in a handler without the claim has failed at its issue. That such a tile's bundle is legal is the model's reading (log entry 21). -/
def Obligations.DrainsPutRowsInTheirTile : Prop :=
  ∀ (s : State) (tile : BitVec 5) (grp : BitVec 4) (add final : Bool), s.cur.core < nCores →
    let i : Instr := .drain tile grp add final
    let base := tile.toNat * 16384 + 1024 * grp.toNat
    ∃ t o, exec i s = .next t ∧ Issued s t i 6 s.me o ∧
      (s.me.handler = true ∧ s.me.mx.claim = false → o.fault = true ∧ o.cause = 0x98) ∧
      (s.me.handler = false ∨ s.me.mx.claim = true → o.fault = false) ∧
      (∀ k : Core, o.due k.sched = true → k.landStop o = if 24 ≤ tile.toNat then some 0x97
        else if k.handler = true ∧ bitN (k.rsr 0x104).toNat tile.toNat = false then some 0x98 else none) ∧
      (tile.toNat < 24 → Lands o fun k k' =>
      let failed := bitN (k.rsr 0x0C1).toNat 1
      k' = { k with pipe := k'.pipe, sr := k'.sr, acc := k'.acc } ∧
      (∀ e, Sparse.get 0 k'.acc e =
        if failed = false ∧ base ≤ e ∧ e < base + 1024 then
          (drainElem add s.me.mx.cls (Sparse.get 0 k.acc e) (Sparse.get 0 s.me.mx.p (1024 * grp.toNat + (e - base)))).1
        else Sparse.get 0 k.acc e) ∧
      (∀ r, r ≠ 0x0C1 → r ≠ 0x0C2 → r ≠ 0x012 → k'.rsr r = k.rsr r) ∧
      (failed = true → getF (k'.rsr 0x0C1) 40 8 = min 255 (getF (k.rsr 0x0C1) 40 8 + 1)) ∧
      (failed = false → k'.rsr 0x0C1 = k.rsr 0x0C1) ∧
      k'.rsr 0x0C2 = (if final then setF (k.rsr 0x0C2) 0 1 0 else k.rsr 0x0C2))

/-- R277, R278: a claim of an unclaimed array, and a release of a claimed one, join the core's operations and freeze it until they are made; the other two have no effect.
Made, a claim leaves the array at its dispatch state and claimed; an array put back is claimed no longer. -/
def Obligations.ClaimsAndReleases : Prop :=
  ∀ (s : State), s.cur.core < nCores → s.me.level.reaches .partition = true →
    (s.me.mx.claim = false → Leaves s .mrelease s.me ∧
      ∃ t o, exec .mclaim s = .next t ∧ Issued s t .mclaim 0 s.me o ∧ (t.core s.cur.core).claiming.isSome = true) ∧
    (s.me.mx.claim = true → Leaves s .mclaim s.me ∧
      ∃ t o, exec .mrelease s = .next t ∧ Issued s t .mrelease 0 s.me o ∧ (t.core s.cur.core).claiming.isSome = true) ∧
    (∀ (u : State) (c a : Nat) (o : Op), OnlyCore u (u.claimed c o a none) c ∧
      ((u.claimed c o a none).core c).mx = { claim := true } ∧
      (∀ r, ((u.claimed c o a none).core c).rsr r = if 0x0C1 ≤ r ∧ r < 0x0C7 then srReset r else (u.core c).rsr r)) ∧
    (∀ (u : State) (c a : Nat) (o : Op) (m : Sparse Byte), OnlyCore u (u.released c o a (.ok m)) c ∧
      ((u.released c o a (.ok m)).core c).mx.claim = false)

/-- R261, R262: the scale slot reads through its generator, which advances, and three cycles later fills the scales of A or B, the indices with their tag and width, or SMAP
with SEG at its lowest set bit. An address that is misaligned, out of range or across bank groups is a stop of its own, as is a word that cannot be corrected (R79, R83,
log entry 84); where no upset has struck, the reading changes nothing. The segment of a zero word is a free value (log entry 15). -/
def Obligations.ScalesAndIndicesAreRead : Prop :=
  ∀ (s u : State) (n g kw : BitVec 2), s.cur.core < nCores → s.me.arrayDenied = none → u.cur = s.cur → u.me = s.me →
    let a := (s.me.ag g.toNat).toNat
    let k₀ : Core := { s.me.agStep g.toNat with ports := s.me.ports ++ [(2 * (a / 2 ^ 20 % 4), s.me.sched + 1, 4)] }
    let byte (j : Nat) : Byte := Sparse.get 0 s.me.spm (a + j)
    let fills (i : Instr) (len al : Nat) (test : Core → Core → Prop) : Prop :=
      (s.strikes = [] → s.arrayRead s.cur.core 0 [(a, len)] = (true, s)) ∧
      (s.arrayRead s.cur.core 0 [(a, len)] = (true, u) → blockCheck al a len = none →
        ∃ t o, exec i s = .next t ∧ Issued u t i 3 k₀ o ∧ o.fault = false ∧ Lands o test) ∧
      (∀ k whole, s.arrayRead s.cur.core 0 [(a, len)] = (whole, u) → blockCheck al a len = some k →
        ∃ t o, exec i s = .next t ∧ Issued u t i 3 k₀ o ∧ o.fault = true ∧ o.cause = k) ∧
      (s.arrayRead s.cur.core 0 [(a, len)] = (false, u) → blockCheck al a len = none →
        ∃ t o, exec i s = .next t ∧ Issued u t i 3 k₀ o ∧ o.fault = true ∧ o.cause = 0x91)
    let only (k k' : Core) : Prop := k' = { k with pipe := k'.pipe, mx := { k.mx with slots := k'.mx.slots } } ∧ ∀ j, j < 4 → j ≠ n.toNat → k'.slot j = k.slot j
    fills (.scla n g) 128 128 (fun k k' => only k k' ∧ k'.slot n.toNat = { k.slot n.toNat with sa := (k'.slot n.toNat).sa } ∧
      ∀ j, j < 128 → Sparse.get 0x7F (k'.slot n.toNat).sa j = byte j) ∧
    fills (.sclb n g) 128 128 (fun k k' => only k k' ∧ k'.slot n.toNat = { k.slot n.toNat with sb := (k'.slot n.toNat).sb } ∧
      ∀ j, j < 128 → Sparse.get 0x7F (k'.slot n.toNat).sb j = byte j) ∧
    fills (.sidx n g kw) (64 * 2 ^ kw.toNat + 64) 128 (fun k k' => only k k' ∧
      let z := k'.slot n.toNat
      z = { k.slot n.toNat with idx := z.idx, tag := (byte (64 * 2 ^ kw.toNat)).toNat + 256 * (byte (64 * 2 ^ kw.toNat + 1)).toNat, width := 2 ^ kw.toNat } ∧
      ∀ j, j < 64 * 2 ^ kw.toNat → Sparse.get 0 z.idx j = byte j) ∧
    fills (.smap g) 8 8 (fun k k' => k' = { k with pipe := k'.pipe, sr := k'.sr } ∧
      (∀ r, r ≠ 0x0C5 → r ≠ 0x0C6 → k'.rsr r = k.rsr r) ∧
      (∀ j, j < 8 → (k'.rsr 0x0C5).toNat / 2 ^ (8 * j) % 256 = (byte j).toNat) ∧
      ∀ b, b < 64 → (k'.rsr 0x0C5).getLsbD b = true → (∀ b', b' < b → (k'.rsr 0x0C5).getLsbD b' = false) → k'.rsr 0x0C6 = BitVec.ofNat 64 b)

/-! ## Moves and the vector units -/

/-- R58, R203, R205, R207: a move's source as the 1024 elements that stand on the transport: a register, a result latch, the head of a queue, a scalar or a constant in
every element, a mask as all ones or zero. R59, R65, R203, R205: a move to a latch holds in its own cycle; one to a v, x or k register lands a cycle later: the vector,
its element (0, 0), or the mask of its nonzero elements. A pop is noted for the end of the bundle. -/
def Obligations.MovesCarryWholeVectors : Prop :=
  (∀ (c : Core) (p : Nat), p < 1024 →
     (∀ n, c.src (.v n) = c.rv n.toNat) ∧ (∀ u, c.src (.y u) = c.rRes (0x140 + u.code)) ∧
     (∀ n, Sparse.get 0 (c.src (.x n)) p = (c.rx n.toNat).setWidth 32) ∧
     (∀ n, Sparse.get 0 (c.src (.k n)) p = if (c.rk n.toNat).getLsbD p then BitVec.allOnes 32 else 0) ∧
     (∀ (n : BitVec 2) (e : QEntry) (r : List QEntry), c.queues.getD n.toNat [] = e :: r →
       c.src (.pop n) = Vec.ofImage e.data ∧ c.src (.peek n) = Vec.ofImage e.data) ∧
     (∀ n : BitVec 7, n.toNat < 32 → Sparse.get 0 (c.src (.cst n)) p = BitVec.ofNat 32 n.toNat) ∧
     Sparse.get 0 (c.src (.cst 65)) p = 0x3F800000 ∧ Sparse.get 0 (c.src (.cst 80)) p = BitVec.ofNat 32 (p / 64) ∧
     Sparse.get 0 (c.src (.cst 81)) p = BitVec.ofNat 32 (p % 64) ∧ Sparse.get 0 (c.src (.cst 82)) p = BitVec.ofNat 32 p) ∧
  (∀ (s : State) (a : Src), s.cur.core < nCores →
     let V := s.me.src a
     let popped : Core := { s.me with pops := match a with | .pop n => n.toNat :: s.me.pops | _ => s.me.pops }
     let lands (d : Dst) (test : Core → Core → Prop) : Prop :=
       ∃ t o, exec (.move a d) s = .next t ∧ Issued s t (.move a d) 1 popped o ∧ Lands o test
     (∀ l, Leaves s (.move a (.latch l)) { popped with latch := Sparse.set [] s.me.latch l.code V }) ∧
     (∀ n, lands (.v n) fun k k' => k' = { k with pipe := k'.pipe, v := k'.v } ∧ ∀ r, k'.rv r = if r = n.toNat then V else k.rv r) ∧
     (∀ n, lands (.x n) fun k k' => k' = { k with pipe := k'.pipe, x := k'.x } ∧
       ∀ r, k'.rx r = if r = n.toNat ∧ r ≠ 0 then (Sparse.get 0 V 0).setWidth 64 else k.rx r) ∧
     (∀ n, lands (.k n) fun k k' => k' = { k with pipe := k'.pipe, k := k'.k } ∧ (∀ r, r ≠ n.toNat → k'.rk r = k.rk r) ∧
       ∀ p, p < 1024 → ((k'.rk n.toNat).getLsbD p = true ↔ ∃ e ∈ V, e.1 = p ∧ e.2 ≠ 0)))

/-- R209, R210, R211, R212: every operation of an arithmetic unit, with its latency; the elements are those of the functions named. -/
def Obligations.ArithmeticUnitOperations : Prop :=
  ∀ (s : State) (a : Src) (u : VaUnit) (f : Fmt), s.cur.core < nCores →
    let n := if f = .i32 then 5 else 7
    let va (i : Instr) (n : Nat) (y : List Vec → Vec × Nat) : Prop := VecResult s i a u.unit n y
    va (.vaMov a u f) n (vecE (eMov f)) ∧ va (.vaAdd a u f) n (vecE (eAdd f)) ∧ va (.vaSub a u f) n (vecE (eSub f)) ∧
    va (.vaMul a u f) n (vecE (eMul f)) ∧ va (.vaFma a u f) n (vecE (eFma f)) ∧ va (.vaFms a u f) n (vecE (eFms f)) ∧
    va (.vaFnma a u f) n (vecE (eFnma f)) ∧ va (.vaMin a u f) n (vecE (eMin f)) ∧ va (.vaMax a u f) n (vecE (eMax f)) ∧
    va (.vaAbs a u f) n (vecE (eAbs f)) ∧ va (.vaNeg a u f) n (vecE (eNeg f)) ∧ va (.vaAnd a u f) n (vecE (eAnd f)) ∧
    va (.vaOr a u f) n (vecE (eOr f)) ∧ va (.vaXor a u f) n (vecE (eXor f)) ∧ va (.vaAndn a u f) n (vecE (eAndn f)) ∧
    va (.vaNot a u f) n (vecE (eNot f)) ∧ va (.vaSll a u f) n (vecE (eSll f)) ∧ va (.vaSrl a u f) n (vecE (eSrl f)) ∧
    va (.vaSra a u f) n (vecE (eSra f)) ∧ va (.vaMulhi a u f) n (vecE (eMulhi f)) ∧ va (.vaSel a u f) n (vecE (eSel f)) ∧
    va (.vaCeq a u f) 5 (vecE (eCeq f)) ∧ va (.vaCne a u f) 5 (vecE (eCne f)) ∧ va (.vaClt a u f) 5 (vecE (eClt f)) ∧
    va (.vaCle a u f) 5 (vecE (eCle f)) ∧ va (.vaCun a u f) 5 (vecE (eCun f)) ∧ va (.vaKand a u f) 5 (vecE (eKand f)) ∧
    va (.vaKor a u f) 5 (vecE (eKor f)) ∧ va (.vaKxor a u f) 5 (vecE (eKxor f)) ∧ va (.vaKandn a u f) 5 (vecE (eKandn f)) ∧
    va (.vaKnot a u f) 5 (vecE (eKnot f)) ∧ va (.vaKcnt a u f) 5 vecKcnt

/-- R209 to R212: an element function acts on each of the 1024 elements of the latches, and its flags are gathered; kcnt puts the number of nonzero elements in every
element. R209 to R212: what an operation makes of one element, as an i32 or as bits: wrapping sums and products with IW (32) where the exact result lies outside the
range, shifts by 32 or more, selection, and compares and mask operations as all ones or zero. R186, R198, R209, R211: f32 elements: an operand that is NaN gives the
canonical NaN, infinities of both signs added give it with IV (1), compares with a NaN are false but for not-equal and unordered, and a min or max with a NaN is a NaN. -/
def Obligations.ElementsOfTheArithmeticUnits : Prop :=
  ((∀ (e : Elem → Elem → Elem → Elem → ElemFl) (a b c m : Vec) (p : Nat), p < 1024 →
     let r (v : Vec) : Elem := v.list.getD p 0
     Sparse.get 0 (vecE e [a, b, c, m]).1 p = (e (r a) (r b) (r c) (r m)).1 ∧
     ∀ i, (e (r a) (r b) (r c) (r m)).2.testBit i = true → (vecE e [a, b, c, m]).2.testBit i = true) ∧
   (∀ v : Vec, Sparse.wf 0 v = true → (∀ x ∈ v, x.1 < 1024) → ∀ p, p < 1024 → v.list.getD p 0 = Sparse.get 0 v p) ∧
   (∀ (v : Vec) (p : Nat), Sparse.wf 0 v = true → p < 1024 → Sparse.get 0 (vecKcnt [v]).1 p = BitVec.ofNat 32 v.length)) ∧
  (∀ (a b c m : Elem),
     let fits (r : Int) : Nat := if r < -2147483648 ∨ 2147483647 < r then 32 else 0
     let ones (p : Prop) [Decidable p] : Elem := if p then BitVec.allOnes 32 else 0
     eAdd .i32 a b c m = (a + b, fits (a.toInt + b.toInt)) ∧ eSub .i32 a b c m = (a - b, fits (a.toInt - b.toInt)) ∧
     eMul .i32 a b c m = (a * b, fits (a.toInt * b.toInt)) ∧ eFma .i32 a b c m = (a * b + c, fits (a.toInt * b.toInt + c.toInt)) ∧
     eFms .i32 a b c m = (a * b - c, fits (a.toInt * b.toInt - c.toInt)) ∧ eFnma .i32 a b c m = (c - a * b, fits (c.toInt - a.toInt * b.toInt)) ∧
     (eMin .i32 a b c m).1.toInt = min a.toInt b.toInt ∧ (eMax .i32 a b c m).1.toInt = max a.toInt b.toInt ∧
     eNeg .i32 a b c m = (-a, fits (-a.toInt)) ∧ eAbs .i32 a b c m = (if a.toInt < 0 then -a else a, fits a.toInt.natAbs) ∧
     (∀ f, eMov f a b c m = (a, 0) ∧ eAnd f a b c m = (a &&& b, 0) ∧ eOr f a b c m = (a ||| b, 0) ∧ eXor f a b c m = (a ^^^ b, 0) ∧
       eAndn f a b c m = (a &&& ~~~b, 0) ∧ eNot f a b c m = (~~~a, 0) ∧ eSll f a b c m = (a <<< b.toNat, 0) ∧ eSrl f a b c m = (a >>> b.toNat, 0) ∧
       eSra f a b c m = (a.sshiftRight b.toNat, 0) ∧ eMulhi f a b c m = (BitVec.ofInt 32 (a.toInt * b.toInt / 2 ^ 32), 0) ∧
       eKand f a b c m = (ones (a ≠ 0 ∧ b ≠ 0), 0) ∧ eKor f a b c m = (ones (a ≠ 0 ∨ b ≠ 0), 0) ∧ eKxor f a b c m = (ones (a ≠ 0 ↔ b = 0), 0) ∧
       eKandn f a b c m = (ones (a ≠ 0 ∧ b = 0), 0) ∧ eKnot f a b c m = (ones (a = 0), 0)) ∧
     eSel .i32 a b c m = (if m ≠ 0 then a else b, 0) ∧ eCeq .i32 a b c m = (ones (a = b), 0) ∧ eCne .i32 a b c m = (ones (a ≠ b), 0) ∧
     eClt .i32 a b c m = (ones (a.toInt < b.toInt), 0) ∧ eCle .i32 a b c m = (ones (a.toInt ≤ b.toInt), 0)) ∧
  (∀ (a b c m : Elem),
     let nan (e : Elem) : Prop := 0x7F800000 < (e &&& 0x7FFFFFFF).toNat
     (nan a ∨ nan b → (eAdd .f32 a b c m).1 = 0x7FC00000 ∧ (eSub .f32 a b c m).1 = 0x7FC00000 ∧ (eMul .f32 a b c m).1 = 0x7FC00000 ∧
       (eMin .f32 a b c m).1 = 0x7FC00000 ∧ (eMax .f32 a b c m).1 = 0x7FC00000 ∧ (eCeq .f32 a b c m).1 = 0 ∧ (eClt .f32 a b c m).1 = 0 ∧
       (eCle .f32 a b c m).1 = 0 ∧ (eCne .f32 a b c m).1 = BitVec.allOnes 32 ∧ (eCun .f32 a b c m).1 = BitVec.allOnes 32) ∧
     (nan a ∨ nan b ∨ nan c → (eFma .f32 a b c m).1 = 0x7FC00000) ∧
     (¬ nan a → ¬ nan b → (eCun .f32 a b c m).1 = 0) ∧
     eAdd .f32 0x7F800000 0xFF800000 c m = (0x7FC00000, 1) ∧ eMul .f32 0 0x7F800000 c m = (0x7FC00000, 1) ∧
     eAdd .f32 0x3F800000 0x40000000 c m = (0x40400000, 0) ∧ eMul .f32 0x7F7FFFFF 0x40000000 c m = (0x7F800000, 20))

/-- R213, R214: the permute unit: rotations and broadcasts along rows and columns with the amounts of .b, the transpose of 16 by 16 blocks, the shuffle, and the reductions,
each put in every element it covers. R214: an i32 sum along a row or column is the sum of its elements modulo 2^32; a maximum is one of the elements and none exceeds
it. -/
def Obligations.PermuteUnitOperations : Prop :=
  (∀ (s : State) (a : Src) (f : Fmt), s.cur.core < nCores →
     let vp (i : Instr) (n : Nat) (e : Vec → Vec → Nat → Nat → Elem) : Prop :=
       ∃ y, VecResult s i a .vp n y ∧ ∀ A B r c, r < 16 → c < 64 → (y [A, B]).1.at_ r c = e A B r c
     vp (.vpRotr a f) 5 (fun A B r c => A.at_ r ((c + 64 - (B.at_ r 0).toNat % 64) % 64)) ∧
     vp (.vpRotc a f) 9 (fun A B r c => A.at_ ((r + 16 - (B.at_ 0 c).toNat % 16) % 16) c) ∧
     vp (.vpBcr a f) 5 (fun A B r _ => A.at_ r ((B.at_ r 0).toNat % 64)) ∧
     vp (.vpBcc a f) 9 (fun A B _ c => A.at_ ((B.at_ 0 c).toNat % 16) c) ∧
     vp (.vpTrn16 a f) 9 (fun A _ r c => A.at_ (c % 16) (c / 16 * 16 + r)) ∧
     vp (.vpShuf a f) 5 (fun A B r c => A.at_ r ((B.at_ r c).toNat % 64)) ∧
     vp (.vpSumr a f) 5 (fun A _ r _ => (sumList f 6 ((List.range 64).map fun c => A.at_ r c)).1) ∧
     vp (.vpSumc a f) 9 (fun A _ _ c => (sumList f 4 ((List.range 16).map fun r => A.at_ r c)).1) ∧
     vp (.vpMaxr a f) 5 (fun A _ r _ => (pickList eMax f ((List.range 64).map fun c => A.at_ r c)).1) ∧
     vp (.vpMaxc a f) 9 (fun A _ _ c => (pickList eMax f ((List.range 16).map fun r => A.at_ r c)).1) ∧
     vp (.vpMinr a f) 5 (fun A _ r _ => (pickList eMin f ((List.range 64).map fun c => A.at_ r c)).1) ∧
     vp (.vpMinc a f) 9 (fun A _ _ c => (pickList eMin f ((List.range 16).map fun r => A.at_ r c)).1)) ∧
  (∀ (es : List Elem), (es.length = 64 → (sumList .i32 6 es).1 = es.sum) ∧ (es.length = 16 → (sumList .i32 4 es).1 = es.sum) ∧
     (es ≠ [] → (pickList eMax .i32 es).1 ∈ es ∧ (∀ e ∈ es, e.toInt ≤ (pickList eMax .i32 es).1.toInt) ∧
       (pickList eMin .i32 es).1 ∈ es ∧ ∀ e ∈ es, (pickList eMin .i32 es).1.toInt ≤ e.toInt))

/-- R215, R216: the special functions land twelve cycles later, element by element in the format; with their exact values at zeros, infinities and NaN. R217, R218, R219:
conversions land six cycles later, element by element, with the random bits of .b. R192, R193, R194, R195: a value between two integers becomes the one that its mode
names, and one outside the range what its policy names, with OF and NX; the worked values of the rules, for floats too; under policy stop a down-conversion that overflows
raises its flags and stops at its landing with CONVERT_OVERFLOW. Which member of an allowed set of a special function is delivered is a free value (log entry 13). -/
def Obligations.FunctionsAndConversions : Prop :=
  ((∀ (s : State) (a : Src) (f : Fmt), s.cur.core < nCores →
     let sf (i : Instr) (fn : SfFn) : Prop := VecResult s i a .sf 12 (vecSf fn f)
     sf (.sfExp2 a f) .exp2 ∧ sf (.sfLog2 a f) .log2 ∧ sf (.sfRcp a f) .rcp ∧ sf (.sfRsqrt a f) .rsqrt ∧ sf (.sfSqrt a f) .sqrt ∧
     sf (.sfTanh a f) .tanh ∧ sf (.sfSin a f) .sin ∧ sf (.sfCos a f) .cos ∧ sf (.sfErf a f) .erf) ∧
   (∀ (fn : SfFn) (v : Vec) (p : Nat), p < 1024 →
     Sparse.get 0 (vecSf fn .f32 [v]).1 p = BitVec.ofNat 32 (sfEval .f32 fn (v.list.getD p 0).toNat).1) ∧
   (∀ (fn : SfFn), (sfEval .f32 fn 0x7FC00000).1 = 0x7FC00000) ∧
   sfEval .f32 .exp2 0x7F800000 = (0x7F800000, 0) ∧ sfEval .f32 .exp2 0xFF800000 = (0, 0) ∧ sfEval .f32 .exp2 0 = (0x3F800000, 0) ∧
   sfEval .f32 .log2 0 = (0xFF800000, 2) ∧ sfEval .f32 .log2 0xBF800000 = (0x7FC00000, 1) ∧ sfEval .f32 .rcp 0x80000000 = (0xFF800000, 2) ∧
   sfEval .f32 .rcp 0x40000000 = (0x3F000000, 0) ∧ sfEval .f32 .rsqrt 0x40800000 = (0x3F000000, 0) ∧ sfEval .f32 .sqrt 0x41100000 = (0x40400000, 0) ∧
   sfEval .f32 .sqrt 0xBF800000 = (0x7FC00000, 1) ∧ sfEval .f32 .tanh 0xFF800000 = (0xBF800000, 0) ∧ sfEval .f32 .sin 0x7F800000 = (0x7FC00000, 1) ∧
   sfEval .f32 .cos 0x80000000 = (0x3F800000, 0) ∧ sfEval .f32 .erf 0x7F800000 = (0x3F800000, 0)) ∧
  (∀ (s : State) (a : Src) (t : CvFmt) (r : Rnd) (v : OvPol), s.cur.core < nCores →
     VecResult s (.cvDn a t r v) a .cv 6 (fun ls => ((vecDown t r v ls).1, (vecDown t r v ls).2.1)) ∧
     VecResult s (.cvUp a t) a .cv 6 (vecUp t .rne) ∧ VecResult s (.cvUpRounding a t r) a .cv 6 (vecUp t r) ∧
     (∀ (c : Core) (o : Op), o.act = some (.cvDn a t r v) → o.due c.sched = true →
       c.landStop o = (if (vecDown t r v o.vs).2.2 then some 0x90 else none) ∧
       (c.failLanding o 0x90).rsr 0x017 = excAfter (c.rsr 0x017) (vecDown t r v o.vs).2.1 o.addr) ∧
     (∀ ls, v ≠ .stop → (vecDown t r v ls).2.2 = false) ∧
     (∀ (A B : Vec) (p : Nat), p < 1024 →
       let x := A.list.getD p 0
       let rb := (B.list.getD p 0).toNat
       let z := convDown t r v rb (f32 x)
       Sparse.get 0 (vecDown t r v [A, B]).1 p = BitVec.ofNat 32 z.code ∧ (∀ i, z.flags.testBit i = true → (vecDown t r v [A, B]).2.1.testBit i = true) ∧
       (z.stop = true → (vecDown t r v [A, B]).2.2 = true) ∧
       Sparse.get 0 (vecUp t r [A, B]).1 p = (convUp t r rb (x.toNat % 2 ^ cvWidth t)).1) ∧
     (∀ (n : Nat) (signed neg : Bool) (k q rb : Nat), cvInt t = some (n, signed) → q < 4 → 0 < 4 * k + q → rb < 2 ^ 32 →
       let up : Prop := match r with
         | .rne => q = 3 ∨ (q = 2 ∧ k % 2 = 1)
         | .rna => 2 ≤ q
         | .rtz => False
         | .rup => 0 < q ∧ neg = false
         | .rdn => 0 < q ∧ neg = true
         | .rs => 2 ^ 32 ≤ q * 2 ^ 30 + rb
         | .rto => 0 < q ∧ k % 2 = 0
       let low : Int := if signed then -2 ^ (n - 1) else 0
       let high : Int := if signed then 2 ^ (n - 1) - 1 else 2 ^ n - 1
       ∀ i : Int, ((up ∧ i.natAbs = k + 1) ∨ (¬ up ∧ i.natAbs = k)) → (i < 0 → neg = true) → (0 < i → neg = false) →
         let z := convDown t r v rb (.fin neg (4 * k + q) (-2))
         (low ≤ i → i ≤ high → (z.code : Int) = i % 2 ^ n ∧ z.flags = (if q = 0 then 0 else 16) ∧ z.stop = false) ∧
         (i < low ∨ high < i → z.flags = 20 ∧ (z.stop = true ↔ v = .stop) ∧ (v = .nan → (z.code : Int) = (if signed then low else high) % 2 ^ n) ∧
           (v = .sat ∨ v = .inf → (z.code : Int) = (if i < low then low else high) % 2 ^ n)))) ∧
  (let dn (t : CvFmt) (m : Rnd) (p : OvPol) (rb : Nat) (x : Elem) : Nat × Nat × Bool :=
     let z := convDown t m p rb (f32 x)
     (z.code, z.flags, z.stop)
   let modes : List (Rnd × Nat) := [(.rne, 0), (.rna, 0), (.rtz, 0), (.rup, 0), (.rdn, 0), (.rs, 0x90000000), (.rs, 0x7FFFFFFF), (.rto, 0)]
   modes.map (fun m => dn .e4m3 m.1 .sat m.2 0x41280000) = [0x52, 0x53, 0x52, 0x53, 0x52, 0x53, 0x52, 0x53].map (fun c => (c, 16, false)) ∧
   modes.map (fun m => dn .e4m3 m.1 .sat m.2 0xC1280000) = [0xD2, 0xD3, 0xD2, 0xD2, 0xD3, 0xD3, 0xD2, 0xD3].map (fun c => (c, 16, false)) ∧
   (∀ e ∈ [(CvFmt.e4m3, 0x43FA0000, 0x7E, 0x7F, 0x7F), (.f16, 0x4788B800, 0x7BFF, 0x7C00, 0x7E00), (.i8, 0x4348B333, 0x7F, 0x7F, 0x80)],
     dn e.1 .rne .sat 0 (BitVec.ofNat 32 e.2.1) = (e.2.2.1, 20, false) ∧ dn e.1 .rne .inf 0 (BitVec.ofNat 32 e.2.1) = (e.2.2.2.1, 20, false) ∧
     dn e.1 .rne .nan 0 (BitVec.ofNat 32 e.2.1) = (e.2.2.2.2, 20, false) ∧ (dn e.1 .rne .stop 0 (BitVec.ofNat 32 e.2.1)).2 = (20, true)) ∧
   dn .e4m3 .rne .sat 0 0x43E60000 = (0x7E, 16, false) ∧ dn .f16 .rtz .inf 0 0x4788B800 = (0x7BFF, 20, false) ∧ dn .n8 .rtz .sat 0 0xBE99999A = (0, 16, false) ∧
   dn .n8 .rne .sat 0 0xBF333333 = (0, 20, false) ∧ dn .f16 .rne .sat 0 0x7FC00001 = (0x7E00, 0, false) ∧ dn .e2m1 .rne .sat 0 0x7FC00000 = (0, 1, false) ∧
   dn .e2m1 .rne .stop 0 0x7FC00000 = (0, 1, true) ∧ dn .i8 .rne .sat 0 0x7FC00000 = (0x80, 1, false) ∧ dn .f16 .rne .sat 0 0xFF800000 = (0xFC00, 0, false) ∧
   convUp .e4m3 .rne 0 0x7F = (0x7FC00000, 0) ∧ convUp .f16 .rne 0 0x3C01 = (0x3F802000, 0) ∧ convUp .bf16 .rne 0 0xFF80 = (0xFF800000, 0) ∧
   convUp .i8 .rne 0 0x80 = (0xC3000000, 0) ∧ convUp .i16 .rne 0 0 = (0, 0) ∧ convUp .n32 .rne 0 0x1000001 = (0x4B800000, 16) ∧
   convUp .n32 .rup 0 0x1000001 = (0x4B800001, 16) ∧ convUp .i32 .rs 0x80000000 0xFEFFFFFF = (0xCB800001, 16))

/-- R221, R222: sig folds the elements that .b does not exclude into the signature, sigclr sets it, cmp compares it: the result and WC.SIG land eight cycles later, a
mismatch is kept in WC.STAT and the first is reported, and the next operation starts from what this one leaves. -/
def Obligations.SignatureUnitOperations : Prop :=
  ∀ (s : State) (a : Src), s.cur.core < nCores →
    let A := s.me.src a
    let B := s.me.rLatch 0x14E
    let sigs (i : Instr) (v : Elem) : Prop :=
      ∃ t o, exec i s = .next t ∧ Issued s t i 8 { Triggered s a .wc with sig := v } o ∧ Lands o fun k k' =>
        k' = { k with pipe := k'.pipe, res := k'.res, sr := k'.sr } ∧
        (∀ r, k'.rRes r = if r = 0x145 then Vec.splat v else k.rRes r) ∧
        ∀ m, k'.rsr m = if m = 0x018 then v.setWidth 64 else k.rsr m
    sigs (.wcSig a) (sigVec s.me.sig A B) ∧ sigs (.wcSigclr a) (Sparse.get 0 A 0) ∧
    ∃ t o, exec (.wcCmp a) s = .next t ∧ Issued s t (.wcCmp a) 8 (Triggered s a .wc) o ∧
      (s.me.sig = Sparse.get 0 A 0 → Lands o fun k k' => k' = { k with pipe := k'.pipe, res := k'.res } ∧
        ∀ r, k'.rRes r = if r = 0x145 then Vec.splat 0 else k.rRes r) ∧
      (s.me.sig ≠ Sparse.get 0 A 0 → ∀ (u : State) (c : Nat),
        let k := (u.dropOp c o.id).core c
        let u' := (u.dropOp c o.id).setCore c ((k.wRes 0x145 (Vec.splat (BitVec.allOnes 32))).wsr 0x019 (excAfter (k.rsr 0x019) 1 s.cur.addr))
        u.landOp c o = if bitN (k.rsr 0x019).toNat 0 then u' else u'.witness c o)

/-- R223, R225: the accumulator port reads, writes or adds the chunk of a tile that .b selects, in i32 or in f32 with one rounding and its flags in EXC.MX; the tile is
checked at the landing. -/
def Obligations.AccumulatorPortOperations : Prop :=
  ∀ (s : State) (a : Src), s.cur.core < nCores →
    let A := s.me.src a
    let B := s.me.rLatch 0x150
    let tile := (B.at_ 0 0).toNat % 32
    let chunk := (B.at_ 0 0).toNat / 32 % 16
    let key (p : Nat) : Nat := tile * 16384 + (16 * (chunk / 2) + p / 64) * 128 + 64 * (chunk % 2) + p % 64
    (∃ t o, exec (.apRd a) s = .next t ∧ Issued s t (.apRd a) 6 (Triggered s a .ap) o ∧ Lands o fun k k' =>
      k' = { k with pipe := k'.pipe, res := k'.res, sr := k'.sr } ∧ (∀ m, k'.rsr m = k.rsr m) ∧ (∀ r, r ≠ 0x146 → k'.rRes r = k.rRes r) ∧
      ∀ p, p < 1024 → Sparse.get 0 (k'.rRes 0x146) p = Sparse.get 0 s.me.acc (key p)) ∧
    (∃ t o, exec (.apWr a) s = .next t ∧ Issued s t (.apWr a) 6 (Triggered s a .ap) o ∧ Lands o fun k k' =>
      k' = { k with pipe := k'.pipe, acc := k'.acc } ∧ (∀ p, p < 1024 → Sparse.get 0 k'.acc (key p) = A.list.getD p 0) ∧
      ∀ e, (∀ p, p < 1024 → e ≠ key p) → Sparse.get 0 k'.acc e = Sparse.get 0 k.acc e) ∧
    (∃ t o, exec (.apAcc a) s = .next t ∧ Issued s t (.apAcc a) 6 (Triggered s a .ap) o ∧ Lands o fun k k' =>
      k' = { k with pipe := k'.pipe, acc := k'.acc, sr := k'.sr } ∧
      (bitN (B.at_ 0 0).toNat 9 = true → ∀ p, p < 1024 → Sparse.get 0 k'.acc (key p) = Sparse.get 0 k.acc (key p) + A.list.getD p 0) ∧
      (bitN (B.at_ 0 0).toNat 9 = false → ∀ p, p < 1024 → Sparse.get 0 k'.acc (key p) = (addF32 (Sparse.get 0 k.acc (key p)) (A.list.getD p 0)).1) ∧
      (∀ m, m ≠ 0x012 → k'.rsr m = k.rsr m) ∧ (∃ fl, k'.rsr 0x012 = excAfter (k.rsr 0x012) fl s.cur.addr ∧
        (bitN (B.at_ 0 0).toNat 9 = false → ∀ p, p < 1024 → ∀ i, (addF32 (Sparse.get 0 k.acc (key p)) (A.list.getD p 0)).2.testBit i = true → fl.testBit i = true)) ∧
      ∀ e, (∀ p, p < 1024 → e ≠ key p) → Sparse.get 0 k'.acc e = Sparse.get 0 k.acc e) ∧
    (∀ (i : Instr) (c : Core) (o : Op), i ∈ [.apRd a, .apWr a, .apAcc a] → o.act = some i → o.due c.sched = true →
      c.landStop o = if 24 ≤ ((o.vs.getD 1 []).at_ 0 0).toNat % 32 then some 0x97
        else if c.handler = true ∧ bitN (c.rsr 0x104).toNat (((o.vs.getD 1 []).at_ 0 0).toNat % 32) = false then some 0x98 else none)

/-! ## Accesses -/

/-- R163 to R169, R284, R300, R314: an access joins its core's operations with its address and, for a store, its data, as read at issue. Where a check of alignment or range
fails it is marked with the cause; else a load in the core's own spaces has read its bytes, an access to the clearing or a grove window has set out, and a global one
waits for its translation. It takes its ports. A load whose bytes cannot be corrected is DATA_ABORT; where no upset has struck them, reading them changes nothing (R79, R83,
log entry 84); a qld reserves an entry at its queue's tail. R181, R247: a prefetch issues with an outstanding-request entry and waits
for its translation, or is dropped when all entries are held; tlbiall lands 256 cycles later. -/
def Obligations.AccessesJoinTheOperations : Prop :=
  (∀ (s : State) (i : Instr) (f : Form) (a : Word) (vi : Vec), s.strikes = [] → readAtIssue s i f a vi = (true, s)) ∧
  (∀ (s u : State) (i : Instr) (f : Form) (a : Word) (vi : Vec), s.cur.core < nCores → s.me.level.reaches i.needs = true →
     accessAt s.me i = some (a, vi) → memForm i = some f → readAtIssue s i f a vi = (true, u) → u.cur = s.cur → u.me = s.me →
     ∃ t o k, exec i s = .next t ∧ Issued u t i (if f.sp.det then f.det else f.land) k o ∧
       o.va = a.toNat ∧ o.ws.getD 0 0 = a ∧ o.cls = f.cls ∧
       (∀ j b, j < f.bytes → storeByte s.me j i = some b → Sparse.get 0 o.bs j = b) ∧
       k = { s.me with ports := s.me.ports ++ (accessPorts i f a).map (fun e => (e.1, s.me.sched + e.2, s.cur.slot)), queues := k.queues } ∧
       (∀ m, i = .qld m → ∀ n, n < 4 → k.queue n =
         if n = m.tg.toNat % 4 then s.me.queue n ++ [{ op := o.id, spm := decide (m.sp = .spm), filled := false, data := [] }] else s.me.queue n) ∧
       ((∀ m, i ≠ .qld m) → k.queues = s.me.queues) ∧
       (∀ cause, s.accessCheck s.cur.core i f a vi = some cause → o.fault = true ∧ o.cause = cause) ∧
       (s.accessCheck s.cur.core i f a vi = none → o.fault = false ∧
         (f.sp = .glb → ∃ d, o.phase = .walk (s.wall + d)) ∧ (f.sp = .clr ∨ f.sp = .grv → o.phase = .fly) ∧
         (f.sp.det = true → o.phase = .det ∧ (f.acc ≠ .store → ∀ j, j < f.bytes →
           Sparse.get 0 o.got j = Sparse.get 0 (if f.sp = .lane then s.me.lane else s.me.spm) (detByte i f a vi j))))) ∧
  (∀ (s u : State) (i : Instr) (f : Form) (a : Word) (vi : Vec), s.cur.core < nCores → s.me.level.reaches i.needs = true →
     accessAt s.me i = some (a, vi) → memForm i = some f → readAtIssue s i f a vi = (false, u) → u.cur = s.cur → u.me = s.me →
     ∃ t o k, exec i s = .next t ∧ Issued u t i f.det k o ∧ o.va = a.toNat ∧ o.fault = true ∧ o.cause = 0x91) ∧
  (∀ (s : State) (m : MArgs) (i : Instr), s.cur.core < nCores → i = .pref m ∨ i = .ipref m →
     (1024 ≤ s.me.requests → Leaves s i s.me) ∧
     (s.me.requests < 1024 → ∃ t o d, exec i s = .next t ∧ Issued s t i 0 s.me o ∧ o.phase = .walk (s.wall + d) ∧
       o.va = (s.me.rx m.a.toNat + m.off.signExtend 64).toNat) ∧
     (s.me.level.reaches .partition = true → ∃ t o d, exec .tlbiall s = .next t ∧ Issued s t .tlbiall 256 s.me o ∧ o.phase = .walk (s.wall + d)))

/-- R168, R169: the checks of a scalar access: MISALIGN before the range of its space, which for the scratchpad and the lane slices is their size. R74, R85, R396: an access to
an unpopulated address is refused and recorded, in the log of the partition that asked and in root's; one to a populated block is admitted from root level or from the owner of
the block, and refused else with no effect. R88, R90, R91, R94, R95, R96: a walk takes the entry of its index from each table down to a leaf; an entry that is not valid or
is malformed is its fault, of its stage and level; what both leaves grant is granted, and the missing permission of the first is the fault. A table or agent address in a window, and which of several
faults is named, are the model's readings (log entries 76 and 105). -/
def Obligations.AccessesAreChecked : Prop :=
  (∀ (s : State) (c : Nat) (m : MArgs) (a : Word) (i : Instr) (n : Nat),
     (i, n) ∈ [(Instr.ldb m, 1), (.ldbs m, 1), (.stb m, 1), (.ldh m, 2), (.ldhs m, 2), (.sth m, 2), (.ldw m, 4), (.ldws m, 4), (.stw m, 4),
       (.ldd m, 8), (.std m, 8)] →
     ∀ f, memForm i = some f → s.accessCheck c i f a [] =
       if a.toNat % n ≠ 0 then some 0x92
       else match m.sp with
         | .glb => none
         | .spm => if a.toNat + n ≤ 0x400000 then none else some 0x93
         | .grv => if a.toNat + n ≤ 0x800000 ∧ bitN ((s.core c).rsr 0x084).toNat (4 * (a.toNat / 2 ^ 20) + 3) = true then none else some 0x94
         | .lane => if a.toNat + n ≤ 0x80000 then none else some 0x95
         | .clr => if a.toNat + n ≤ (s.clrList (s.core c).part).length * 2 ^ 20 then none else some 0x96) ∧
  (∀ (s : State) (r : Req) (pa b : Nat),
     (let recorded (stack : Nat) : State :=
        let ws : List Word := [BitVec.ofNat 64 (pa / 32 * 32),
          BitVec.ofNat 64 (7 + r.site * 2 ^ 8 + stack * 2 ^ 16 + r.die * 2 ^ 20 + r.core * 2 ^ 24 + r.part * 2 ^ 32), s.time, 1]
        (s.memRecord (some r.part) ws 7).memRecord none ws 7
      (blockOf pa = none → s.admits r pa = (false, if inAnyWindow pa then s else recorded 15)) ∧
      (blockOf pa = some b → s.populated b = false → s.admits r pa = (false, recorded (if b < 256 then b / 32 else 15)))) ∧
     (blockOf pa = some b → s.populated b = true → s.admits r pa = (r.root || s.owns r.part b, s)) ∧
     (blockOf pa = some b ↔ (b < 256 ∧ pa / 2 ^ 31 = b) ∨ (256 ≤ b ∧ 2 ^ 40 ≤ pa ∧ pa < 2 ^ 41 ∧ 256 + (pa - 2 ^ 40) / 2 ^ 31 = b))) ∧
  (∀ (s : State) (p : Option Nat) (ws : List Word) (pa : Nat),
     let base := getF (s.rw (memLog p)) 3 45 * 8
     (base = 0 → s.memRecord p ws 7 = s) ∧
     (base ≠ 0 → s.agentOk p { r := true } base = some pa → s.sectorBad false (pa / 32) = false →
       (s.gran false pa + 2 ^ 32 - getF (s.rw (memAck p)) 0 32) % 2 ^ 32 ≠ 2 ^ getF (s.rw (memLog p)) 48 4 →
       s.memRecord p ws 7 = (s.logPlain p (memLog p) (some 66) ws).2)) ∧
  (∀ (w lvl : Nat) (two : Bool),
     let pointer : Prop := bitN w 1 = false
     let bad : Prop := fldN w 11 5 ≠ 0 ∨ fldN w 56 8 ≠ 0 ∨ (pointer ∧ (lvl = 1 ∨ fldN w 2 9 ≠ 0)) ∨
       (¬ pointer ∧ (lvl = 3 ∨ (lvl = 2 ∧ fldN w 16 13 ≠ 0) ∨ fldN w 8 2 = 3 ∨ (two = true ∧ bitN w 5 = false)))
     (bitN w 0 = false → readEntry w lvl two = .error 1) ∧ (bitN w 0 = true → bad → readEntry w lvl two = .error 3) ∧
     (bitN w 0 = true → ¬ bad → pointer → readEntry w lvl two = .ok (.inl (fldN w 16 32 * 65536))) ∧
     (bitN w 0 = true → ¬ bad → ¬ pointer → readEntry w lvl two = .ok (.inr
       { pa := fldN w 16 32 * 65536, size := if lvl = 2 then 2 ^ 29 else 65536, r := bitN w 2, w := bitN w 3, x := bitN w 4, u := bitN w 5
         g := bitN w 6 && !two, ms := bitN w 7, ca := fldN w 8 2, tier := fldN w 10 1, lvl := lvl }))) ∧
  (∀ (va table lvl k w : Nat) (two : Bool) (rd : Nat → Walked Nat) (xs : List (Nat × Bool)) (l : Leaf), 1 ≤ lvl →
     let fault (k : Nat) : Nat := k + (if two then 16 else 0) + 32 * lvl
     let r := rd (table + 8 * (va / 2 ^ (16 + 13 * (lvl - 1)) % 8192))
     (r = (.error 5, xs) → walkFrom va two rd lvl table = (.error (fault 5), xs)) ∧
     (r = (.ok w, xs) → readEntry w lvl two = .error k → walkFrom va two rd lvl table = (.error (fault k), xs)) ∧
     (r = (.ok w, xs) → readEntry w lvl two = .ok (.inr l) → walkFrom va two rd lvl table = (.ok l, xs)) ∧
     (∀ t, r = (.ok w, xs) → readEntry w lvl two = .ok (.inl t) →
       walkFrom va two rd lvl table = ((walkFrom va two rd (lvl - 1) t).1, xs ++ (walkFrom va two rd (lvl - 1) t).2))) ∧
  (∀ (need : Need) (lvl : Level) (l₁ l₂ : Leaf),
     let lacks (l : Leaf) : Prop := (need.r = true ∧ l.r = false) ∨ (need.w = true ∧ l.w = false) ∨ (need.x = true ∧ l.x = false)
     (lacks l₁ → denied need lvl l₁ l₂ = some (2 + 32 * l₁.lvl)) ∧ (¬ lacks l₁ → lacks l₂ → denied need lvl l₁ l₂ = some (18 + 32 * l₂.lvl)) ∧
     (¬ lacks l₁ → ¬ lacks l₂ → denied need lvl l₁ l₂ = if lvl = .user ∧ l₁.u = false then some (7 + 32 * l₁.lvl)
       else if lvl = .user ∧ l₂.u = false then some (23 + 32 * l₂.lvl) else none)) ∧
  (∀ (s : State) (cx : Ctx) (va k : Nat) (l₁ l₂ : Leaf) (xs ys : List (Nat × Bool)),
     let ctl := s.s2 cx.part
     let first := walkFrom va false (stage1Read s cx.part cx.level (dieOf cx.core) false) 3 (fldN cx.root.toNat 16 32 * 65536)
     let gpa := (l₁.pa + va % l₁.size) % 2 ^ 48
     let pa := l₂.pa + gpa % l₂.size
     let second := stage2Walk s cx.part cx.level gpa
     let both := entryOf s cx va gpa pa l₁ l₂
     (2 ^ 55 ≤ va → s.xlate cx { r := true } va = (.error 4, s)) ∧
     (bitN ctl.toNat 0 = false → s.partRoot cx.part = false → stage2Walk s cx.part cx.level va = (.error 0x71, [])) ∧
     (bitN ctl.toNat 0 = true → stage2Walk s cx.part cx.level va = walkFrom va true
       (fun a => (match walkerRead s cx.part cx.level true a with | some w => .ok w | none => .error 5, [(a, true)])) 3 (getF ctl 16 32 * 65536)) ∧
     (bitN cx.root.toNat 0 = true →
       (first = (.error k, xs) → fullWalk s cx false va = (.error k, xs)) ∧
       (first = (.ok l₁, xs) → second = (.error k, ys) → fullWalk s cx false va = (.error k, xs ++ ys)) ∧
       (first = (.ok l₁, xs) → second = (.ok l₂, ys) → leafFits l₁ l₂ pa = true → leafFits l₂ { l₁ with lvl := 0 } pa = true →
         fullWalk s cx false va = (.ok (l₁, l₂, both), xs ++ ys))) ∧
     (l₁.lvl ≠ 0 → l₂.lvl ≠ 0 → both.r = (l₁.r && l₂.r) ∧ both.w = (l₁.w && l₂.w) ∧ both.x = (l₁.x && l₂.x) ∧ both.u = (l₁.u && l₂.u) ∧
       both.ms = (l₁.ms || l₂.ms) ∧ both.ca = max l₁.ca l₂.ca ∧ both.size = min l₁.size l₂.size))

/-- R170, R171, R172, R173, R174, R175, R177, R303, R312: a load or an atomic that has its bytes delivers them, lowest address first: a scalar extended with zeros or the
sign, a whole vector register, part of one, a queue's entry, or, for a bounded add, the old value and whether it added. R160, R174, R175: the places in the core's own
spaces: bytes in ascending address; a register in the lane slices spread by lane; the elements of a gather at a + 4 e; a lane table's elements each in its own lane's
slice. R165, R167, R170 to R175: a store in the core's own spaces performs at its landing: its bytes stand at their places, the later ones over the earlier, and every
other byte stays. A word all of whose bytes they cover is whole again, and no other upset is gone (R79, log entry 84). -/
def Obligations.LoadsAndStoresInTheOwnSpaces : Prop :=
  (∀ (o : Op) (i : Instr) (d : Nat) (m : MArgs) (ms : MSArgs) (g : GArgs) (x : AArgs), o.act = some i →
     (o.dest = 0x100 + d → ∀ n sg, (i, n, sg) ∈ [(Instr.ldb m, 1, false), (.ldh m, 2, false), (.ldw m, 4, false), (.ldd m, 8, false), (.ldbs m, 1, true),
         (.ldhs m, 2, true), (.ldws m, 4, true), (.aincW x, 4, false), (.aincD x, 8, false), (.aaddW x, 4, false), (.aaddD x, 8, false),
         (.aaddfW x, 4, false), (.acasW x, 4, false), (.acasD x, 8, false), (.axchgW x, 4, false), (.axchgD x, 8, false), (.amaxW x, 4, false),
         (.amaxD x, 8, false), (.aminW x, 4, false), (.aminD x, 8, false), (.rrd x, 8, false)] →
       ∃ v, Loaded n sg o.got v ∧ WritesX o d v) ∧
     (o.dest = 0x100 + d → i = .afaddbW x ∨ i = .afaddbD x → ∃ v, Loaded (if i = .afaddbW x then 4 else 8) false o.got v ∧
       Lands o fun k k' => k' = { k with pipe := k'.pipe, x := k'.x } ∧
         ∀ n, k'.rx n = if n = d + 1 then BitVec.ofNat 64 (o.progress % 2) else if n = d ∧ n ≠ 0 then v else k.rx n) ∧
     (i = .vld m ∨ i = .vgath g ∨ i = .vlut g → Lands o fun k k' => k' = { k with pipe := k'.pipe, v := k'.v } ∧
       ∀ n, k'.rv n = if n = o.dest then Vec.ofImage o.got else k.rv n) ∧
     (∀ n, (i, n) ∈ [(Instr.vld16 ms, 16), (.vld32 ms, 32)] → Lands o fun k k' => k' = { k with pipe := k'.pipe, v := k'.v } ∧
       (∀ r, r ≠ o.dest → k'.rv r = k.rv r) ∧
       ∀ j, (k'.rv o.dest).byte j =
         if 16 * ms.seg.toNat ≤ j ∧ j < 16 * ms.seg.toNat + n then Sparse.get 0 o.got (j - 16 * ms.seg.toNat) else (k.rv o.dest).byte j) ∧
     (i = .qld m → Lands o fun k k' => k' = { k with pipe := k'.pipe, queues := k.queues.map fun q => q.map fun e =>
       if e.op = o.id ∧ e.filled = false then { e with filled := true, data := o.got } else e }) ∧
     (i = .rwait x → Lands o fun k k' => k' = { k with pipe := k'.pipe })) ∧
  (∀ (m : MArgs) (g : GArgs) (f : Form) (a : Word) (vi : Vec) (j : Nat), j < 4096 →
     let r := j / 4 / 64
     let c := j / 4 % 64
     let e := Sparse.get 0 vi (j / 4)
     (f.elems = false → f.sp = .spm → detByte (.ldd m) f a vi j = a.toNat + j ∧ detByte (.vld m) f a vi j = a.toNat + j) ∧
     (f.elems = false → f.sp = .lane → detByte (.ldd m) f a vi j = a.toNat + j ∧
       detByte (.vld m) f a vi j = (r % 4 * 64 + c) * 2048 + a.toNat + 4 * (r / 4) + j % 4 ∧ detByte (.vst m) f a vi j = detByte (.vld m) f a vi j) ∧
     (f.elems = true → f.sp = .spm → detByte (.vgath g) f a vi j = (a + (e.setWidth 64) * 4).toNat + j % 4) ∧
     (f.elems = true → f.sp = .lane → detByte (.vlut g) f a vi j = (r % 4 * 64 + c) * 2048 + (a.toNat % 2048 + 4 * e.toNat) + j % 4)) ∧
  (∀ (o : Op) (i : Instr) (f : Form), o.act = some i → memForm i = some f → f.acc = .store → f.sp.det = true →
     let place (j : Nat) : Nat := detByte i f (BitVec.ofNat 64 o.va) (o.vs.getD 0 []) j
     ∀ (u : State) (c : Nat),
       let t := u.landOp c o
       let k := u.core c
       let k' := t.core c
       let M := if f.sp = .lane then k.lane else k.spm
       let M' := if f.sp = .lane then k'.lane else k'.spm
       t = { u with cores := t.cores, strikes := t.strikes } ∧
       (∀ x, x ∈ t.strikes ↔ x ∈ u.strikes ∧ ¬ (x.wall ≤ u.wall ∧ x.core = c ∧ x.arr = (if f.sp = .lane then 1 else 0) ∧
         ∀ b, b < 8 → ∃ j, j < f.bytes ∧ place j = 8 * x.word + b)) ∧ (∀ j, j ≠ c → t.core j = u.core j) ∧
       k'.pipe = k.pipe.filter (fun p => p.id != o.id) ∧
       k' = (if f.sp = .lane then { k with pipe := k'.pipe, lane := k'.lane } else { k with pipe := k'.pipe, spm := k'.spm }) ∧
       (∀ e, (∀ j, j < f.bytes → e ≠ place j) → Sparse.get 0 M' e = Sparse.get 0 M e) ∧
       (∀ j, j < f.bytes → (∀ l, j < l → l < f.bytes → place l ≠ place j) → Sparse.get 0 M' (place j) = Sparse.get 0 o.bs j))

/-- R80, R84, R118: bytes at their home. Written within a line, they are what the coherent path (or with MS the base die) then holds, and every other byte is as before; a
part of a failing sector is refused and changes nothing; a dirty line written back puts its bytes in memory and leaves every coherent byte. R171: the image of a vector:
element p lies in bytes 4 p to 4 p + 3, lowest byte first; a register that takes an image has its bytes. -/
def Obligations.BytesAtTheirHome : Prop :=
  (∀ (s : State) (ms : Bool) (a b : Nat) (bs : List Byte),
     (bs ≠ [] → a / 128 = (a + bs.length - 1) / 128 → (s.poke ms a bs).peek ms b 1 =
       if a ≤ b ∧ b < a + bs.length then [bs.getD (b - a) 0] else s.peek ms b 1) ∧
     (bs ≠ [] → bs.length < 32 → s.sectorBad ms (a / 32) = true → s.writeSector ms a bs = none) ∧
     (bs ≠ [] → bs.length < 32 → s.sectorBad ms (a / 32) = false → s.writeSector ms a bs = some (s.poke ms a bs)) ∧
     ((s.l2.map (·.line)).Nodup → ∀ l ∈ s.l2, l.dirty = true →
       (s.writeBack l).peek false b 1 = s.peek false b 1 ∧ (s.writeBack l).lineOf l.line = some { l with dirty := false } ∧
       Sparse.get 0 (s.writeBack l).mem b = if b / 128 = l.line then Sparse.get 0 l.data (b % 128) else Sparse.get 0 s.mem b)) ∧
  (∀ (v : Vec) (m : Sparse Byte) (j : Nat), j < 4096 →
     (Sparse.wf 0 v = true → (Sparse.get 0 v.image j).toNat = (Sparse.get 0 v (j / 4)).toNat / 2 ^ (8 * (j % 4)) % 256) ∧
     (Sparse.wf 0 m = true → (Vec.ofImage m).byte j = Sparse.get 0 m j) ∧
     (Sparse.wf 0 v = true → (∀ e ∈ v, e.1 < 1024) → Vec.ofImage v.image = v))

/-- R93, R97, R109: the translation of a waiting access returns: a fault makes its record a FAULT with the cause; else its part is on its way to its home, with the travel to
the slice counted from its issue; every access with another form sets out its parts likewise. R102, R103, R104: tlbiva beyond the range of addresses fails; else it takes
its place in its class, and when it performs it drops the entries of its page that the context sees; tlbiall drops those of its partition or, at root level, all. R181,
R247: a prefetch is over and has made its request; one of a page that would fault, lies elsewhere or is not cached brings nothing in. Times are free values (log entry
10). -/
def Obligations.TranslationsReturn : Prop :=
  (∀ (s : State) (o : Op) (i : Instr) (f : Form) (d n : Nat), s.cur.core < nCores → s.me.op s.cur.i = some o → o.act = some i → o.phase = .walk d →
     o.form = some f → f.acc = .load ∨ f.acc = .atomic → f.elems = false →
     accessParts f (BitVec.ofNat 64 o.va) (o.vs.getD 0 []) = [(0, o.va, n)] →
     let c := s.cur.core
     let r := (s.freeTime.2).route (s.opCtx c o) (accessNeed i f) o.va
     let out := if o.reissued = true then s.me.sched else o.land - f.land
     (∀ k, r.1 = .error k → exec .translationWalkDone s = .next (r.2.failOp c o k)) ∧
     (∀ h pa gpa, (∀ k, h ≠ .bad k) → r.1 = .ok (h, pa, gpa) → exec .translationWalkDone s = .next (r.2.setOp c { o with
       phase := .fly
       pieces := [{ off := 0, len := n, home := h, at_ := pa, gpa := gpa, due := out + travelTo c h pa, wait := s.wall + s.freeTime.1
                    port := match h with | .fabric k => r.2.fabricPort k | _ => none }] }))) ∧
  (∀ (s : State) (o : Op) (i : Instr) (f : Form) (d : Nat), s.cur.core < nCores → s.me.op s.cur.i = some o → o.act = some i → o.phase = .walk d →
     o.form = some f → (∀ m, i ≠ .tlbiva m) → exec .translationWalkDone s = .next (s.setOut s.cur.core o i f)) ∧
  (∀ (s : State) (o : Op) (m : MArgs) (d : Nat) (u : Upset), s.cur.core < nCores → s.me.op s.cur.i = some o →
     let c := s.cur.core
     let cx := s.opCtx c o
     let asid := fldN cx.root.toNat 4 12
     let gone (t : State) (drops : TlbEntry → Prop) : Prop :=
       t.mem = s.mem ∧ (∀ e, e ∈ t.tlb ↔ e ∈ s.tlb ∧ ¬ drops e) ∧ ((t.core c).op o.id).map (·.phase) = some .arrived
     (o.act = some (.tlbiva m) → o.phase = .walk d →
       (2 ^ 55 ≤ o.va → exec .translationWalkDone s = .next (s.failOp c o (Xlt.cause Xlt.RANGE false 0))) ∧
       (o.va < 2 ^ 55 → exec .translationWalkDone s = .next (s.setOp c { o with phase := .fly }))) ∧
     (o.act = some (.tlbiva m) → s.me.free_ o = true → s.me.postHeld o = false → ∃ t, exec (.storePerforms u) s = .next t ∧
       gone t fun e => e.part = cx.part ∧ (e.glob = true ∨ e.asid = asid) ∧ e.va = o.va / e.size * e.size) ∧
     (o.act = some .tlbiall → o.phase = .walk d → ∃ t, exec .translationWalkDone s = .next t ∧ gone t fun e => cx.level = .root ∨ e.part = cx.part) ∧
     (o.phase = .walk d → (o.act = some (.pref m) → exec .translationWalkDone s = .next ((s.dropOp c o.id).prefetch cx o.va)) ∧
       (o.act = some (.ipref m) → exec .translationWalkDone s = .next ((s.dropOp c o.id).prefetchCode c o.va)))) ∧
  (∀ (s : State) (cx : Ctx) (va : Nat),
     let x := s.xlate cx { r := true } va true
     (∀ k, x.1 = .error k → s.prefetch cx va = x.2) ∧
     (∀ e, x.1 = .ok e → 2 ≤ e.ca ∨ e.ms = true ∨ inMain (e.out va) = false → s.prefetch cx va = x.2))

/-- R86, R165, R177, R297: a part of a load that has come performs at main memory: its bytes are fixed, with the context's held stores over them; the last makes the data
complete, which for a queue fills the entry and ends the operation. An abort completion makes the record a FAULT with DATA_ABORT. R165, R182, R320: an untagged store's
only part performs at main memory and the operation is over, or it is refused and the record is a FAULT with DATA_ABORT; cache maintenance acts on the line of its
address, where there is one and the page may be cached: written back, dropped, or both; R74: at an address that is reserved or not populated it fails with DATA_ABORT.
Times are free values (log entries 10 and 72). -/
def Obligations.AccessesPerformAtTheirHome : Prop :=
  (∀ (s : State) (o : Op) (i : Instr) (f : Form) (q : Piece) (ca : Nat) (ms : Bool) (u : Upset), s.cur.core < nCores → s.me.op s.cur.i = some o →
     o.act = some i → o.form = some f → s.me.free_ o = true → o.pieces = [q] → q.arrived s.wall s.me.sched = true → q.counted = false → q.home = .main ca ms →
     let c := s.cur.core
     let r := s.readMain (s.opCtx c o).req ca ms q.at_ q.len true u
     let full (bs : List Byte) : Op :=
       { o with pieces := [{ q with done := true, counted := ms || !s.inL2 ms q.at_ }]
                got := Sparse.setBytes o.got q.off ((r.2.core c).overlay q.at_ bs), phase := .arrived }
     (f.acc = .load → (∀ bs, r.1 = some bs → exec (.elasticDataArrives (some 0) u) s = .next (r.2.setOp c (full bs))) ∧
       (r.1 = none → exec (.elasticDataArrives (some 0) u) s = .next (r.2.failOp c o 0x91))) ∧
     (f.acc = .queue → s.cur.j = 0 →
       (∀ bs, r.1 = some bs → ((r.2.setOp c (full bs)).core c).op o.id = some (full bs) →
         exec (.qldFill u) s = .next (((r.2.setOp c (full bs)).modCore c fun k => k.fill o.id (full bs).got).dropOp c o.id)) ∧
       (r.1 = none → ((r.2.failOp c o 0x91).core c).op o.id = some { o with fault := true, cause := 0x91 } → o.phase = .fly →
         exec (.qldFill u) s = .next (r.2.failOp c o 0x91)))) ∧
  (∀ (s : State) (o : Op) (i : Instr) (f : Form) (q : Piece) (ca : Nat) (ms : Bool) (u : Upset) (m : MArgs), s.cur.core < nCores →
     s.me.op s.cur.i = some o → o.act = some i → o.form = some f → s.me.free_ o = true → s.me.postHeld o = false → o.pieces = [q] →
     q.arrived s.wall s.me.sched = true → q.counted = false → q.home = .main ca ms →
     let c := s.cur.core
     let r := s.writeMain (s.opCtx c o).req ca ms q.at_ ((List.range q.len).map fun j => Sparse.get 0 o.bs (q.off + j)) true u
     (f.acc = .store → f.grp < 4 → s.cur.j = 0 →
       (r.1 = true → exec (.storePerforms u) s = .next ((r.2.dirty c q.gpa).dropOp c o.id)) ∧
       (r.1 = false → exec (.storePerforms u) s = .next (r.2.failOp c o 0x91))) ∧
     let there : Prop := s.admits { (s.opCtx c o).req with root := true } q.at_ = (true, s)
     (i = .l2wb m ∨ i = .l2inv m ∨ i = .l2wbinv m →
       (there → ca = 2 ∨ s.lineOf (q.at_ / 128) = none → exec (.storePerforms u) s = .next (s.dropOp c o.id)) ∧
       ∀ w, s.admits { (s.opCtx c o).req with root := true } q.at_ = (false, w) → exec (.storePerforms u) s = .next (w.failOp c o 0x91)) ∧
     (there → ca ≠ 2 → ∀ l, s.lineOf (q.at_ / 128) = some l →
       (i = .l2wb m → exec (.storePerforms u) s = .next ((s.writeBack l).dropOp c o.id)) ∧
       (i = .l2inv m → exec (.storePerforms u) s = .next ((s.dropLine l.line).dropOp c o.id)) ∧
       (i = .l2wbinv m → exec (.storePerforms u) s = .next (((s.writeBack l).dropLine l.line).dropOp c o.id))))

/-- R308, R312: the value an atomic leaves, of operands that are n-bit numbers, and whether it writes at all. R302, R303, R304, R308: an atomic or ring operation performs
at main memory: it reads the old value and leaves the new one in one event; one with a result waits for its landing, radd is over; rwait is answered when its target is
reached and parks else; rrd answers the value. R309: a parked wait is answered at once by the write that makes its counter reach its target, and stays parked else; one
that found the table full is compared again. -/
def Obligations.AtomicsAndRingOperations : Prop :=
  (∀ (m : AArgs) (old v b : Nat), old < 2 ^ 64 → v < 2 ^ 64 → b < 2 ^ 64 →
     let S (w : Nat) : Int := if w < 2 ^ 63 then w else (w : Int) - 2 ^ 64
     atomicVal (.aincD m) 64 old v b = (some (if b ≤ old then 0 else old + 1), false) ∧
     atomicVal (.afaddbD m) 64 old v b = (if old + v ≤ b then (some (old + v), true) else (none, false)) ∧
     atomicVal (.aaddD m) 64 old v b = (some ((old + v) % 2 ^ 64), false) ∧ atomicVal (.axchgD m) 64 old v b = (some v, false) ∧
     atomicVal (.acasD m) 64 old v b = ((if old = b then some v else none), false) ∧
     atomicVal (.amaxD m) 64 old v b = (some (if S old < S v then v else old), false) ∧
     atomicVal (.aminD m) 64 old v b = (some (if S v < S old then v else old), false) ∧
     atomicVal (.aaddW m) 32 old v b = (some ((old + v) % 2 ^ 32), false) ∧
     (old < 2 ^ 32 → v < 2 ^ 32 → atomicVal (.aaddfW m) 32 old v b = (some (addF32 (BitVec.ofNat 32 old) (BitVec.ofNat 32 v)).1.toNat, false)) ∧
     atomicVal (.radd m) 64 old v b = (some (min (old + v) (2 ^ 64 - 1)), false)) ∧
  (∀ (s : State) (o : Op) (i : Instr) (f : Form) (q : Piece) (ca : Nat) (ms : Bool) (old : List Byte) (x : AArgs), s.cur.core < nCores →
     s.me.op s.cur.i = some o → o.act = some i → o.form = some f → f.acc = .atomic → s.me.free_ o = true → o.pieces = [q] →
     q.arrived s.wall s.me.sched = true → q.home = .main ca ms →
     (∀ j, j < q.len → s.me.heldByte (q.at_ + j) = none) →
     let c := s.cur.core
     let r := s.readMain (s.opCtx c o).req ca ms q.at_ q.len true .none
     let s₁ := r.2.countAtomic q.at_ c
     let v := atomicVal i (8 * q.len) (natLE old) ((o.ws.getD 1 0).toNat % 2 ^ (8 * q.len)) ((o.ws.getD 2 0).toNat % 2 ^ (8 * q.len))
     r.1 = some old →
     ((∀ x, i ≠ .rwait x) → (∀ x, i ≠ .rrd x) → (∀ x, i ≠ .radd x) → ∀ w s₂, v.1 = some w → s₁.putMain ms q.at_ (bytesLE q.len w) = some s₂ →
       exec (.atomicPerforms .none) s = .next ((s₂.dirty c q.gpa).setOp c { o with
         phase := .arrived, got := Sparse.setBytes [] 0 old, progress := if v.2 then 1 else 0 })) ∧
     ((∀ x, i ≠ .rwait x) → (∀ x, i ≠ .rrd x) → v.1 = none → exec (.atomicPerforms .none) s = .next ((s₁.dirty c q.gpa).setOp c { o with
         phase := .arrived, got := Sparse.setBytes [] 0 old, progress := if v.2 then 1 else 0 })) ∧
     (i = .radd x → natLE old + (o.ws.getD 1 0).toNat < 2 ^ 64 → q.len = 8 → ∀ s₂, s₁.putMain ms q.at_ (bytesLE 8 (natLE old + (o.ws.getD 1 0).toNat)) = some s₂ →
       exec (.atomicPerforms .none) s = .next ((s₂.dirty c q.gpa).dropOp c o.id)) ∧
     (i = .rrd x → exec (.atomicPerforms .none) s = .next (s₁.setOp c { o with phase := .arrived, got := Sparse.setBytes [] 0 old, progress := 0 })) ∧
     (i = .rwait x → (o.ws.getD 1 0).toNat ≤ natLE old →
       exec (.atomicPerforms .none) s = .next (s₁.setOp c { o with phase := .arrived, got := [], progress := 0 })) ∧
     (i = .rwait x → natLE old < (o.ws.getD 1 0).toNat → s₁.parkedAt q < 512 → exec (.atomicPerforms .none) s = .next (s₁.setOp c { o with phase := .parked })) ∧
     (i = .rwait x → natLE old < (o.ws.getD 1 0).toNat → 512 ≤ s₁.parkedAt q →
       exec (.atomicPerforms .none) s = .next (s₁.setOp c { o with phase := .recheck (s₁.wall + 64) }))) ∧
  (∀ (s : State) (o : Op) (x : AArgs) (q : Piece), s.cur.core < nCores → s.me.op s.cur.i = some o → o.act = some (.rwait x) → o.pieces = [q] →
     let c := s.cur.core
     let target := (o.ws.getD 1 0).toNat
     let answer := s.setOp c { o with phase := .arrived, got := [], progress := 0 }
     (o.phase = .parked → exec .ringWaitSatisfied s = .next (if target ≤ s.watched q then answer else s)) ∧
     (∀ d, o.phase = .recheck d →
       (∀ v t, s.watchedNow (s.opCtx c o).req q = (some v, t) → exec .ringWaitRecheck s = .next
         (if target ≤ v then t.setOp c { o with phase := .arrived, got := [], progress := 0 }
          else if t.parkedAt q < 512 then t.setOp c { o with phase := .parked } else t.setOp c { o with phase := .recheck (t.wall + 64) })) ∧
       ∀ t, s.watchedNow (s.opCtx c o).req q = (none, t) → exec .ringWaitRecheck s = .next (t.failOp c o 0x91))) ∧
  (∀ (s : State) (ms : Bool) (a c : Nat) (o : Op) (q : Piece) (ca : Nat) (pm : Bool) (val : Nat → Nat), o ∈ (s.core c).pipe → o.phase = .parked → o.pieces = [q] →
     q.home = .main ca pm → q.at_ < a + 8 → a < q.at_ + 8 →
     ((o.ws.getD 1 0).toNat ≤ val q.at_ → { o with phase := .arrived, got := [], progress := 0 } ∈ ((s.wake (.main 0 ms) a 8 val).core c).pipe) ∧
     (val q.at_ < (o.ws.getD 1 0).toNat → o ∈ ((s.wake (.main 0 ms) a 8 val).core c).pipe)) ∧
  (∀ (s t : State) (ms : Bool) (a : Nat) (bs : List Byte), s.writeBytes ms a bs = some t → s.putMain ms a bs = some (t.wake (.main 0 ms) a bs.length (t.gran ms)))

/-- R288, R289: a fence takes note of the earlier accesses of the classes it masks that have not performed, and nothing else; while one of them has not, it stays. At core,
grove, die and device scope it is over when all have. R319, R321, R322: gopen opens a closed group and leaves one that is not; gcommit and gabort close a group for
later stores at once and join the operations; a group that is closed has none of it. An abort then drops the held stores with result ABORTED (2), or overflowed (3).
R320, R321: a store tagged with an open group is held in it: the bytes are seen by the context's own loads and by nothing else. A fence of wider scope waits a free time
(log entry 30). -/
def Obligations.FencesAndCommitGroups : Prop :=
  (∀ (s : State) (mask : BitVec 16) (sc : Scope), s.cur.core < nCores →
     (∃ t o, exec (.fence mask sc) s = .next t ∧ Issued s t (.fence mask sc) 0 s.me o ∧
       (∀ id, id ∈ o.deps ↔ ∃ p ∈ s.me.pipe, p.id = id ∧ p.elastic = true ∧ p.performed = false ∧
         ∃ k, p.ordClass = some k ∧ bitN mask.toNat k = true)) ∧
     (∀ (c : Core) (wall d : Nat) (o : Op), o.act = some (.fence mask sc) →
       ((∃ id ∈ o.deps, ∃ p ∈ c.pipe, p.id = id ∧ p.performed = false) → c.fenceStep wall d o = some o) ∧
       ((∀ id ∈ o.deps, ∀ p ∈ c.pipe, p.id = id → p.performed = true) → sc.code < 4 → c.fenceStep wall d o = none))) ∧
  (∀ (s : State) (g : BitVec 2), s.cur.core < nCores →
     let q := s.me.groups.getD g.toNat {}
     let closed : Core := s.me.setGroup g.toNat { q with st := 0 }
     (q.st = 0 → Leaves s (.gopen g) (s.me.setGroup g.toNat { q with st := 1, spilt := false })) ∧ (q.st ≠ 0 → Leaves s (.gopen g) s.me) ∧
     (q.st = 0 → Leaves s (.gcommit g) s.me ∧ Leaves s (.gabort g) s.me) ∧
     (q.st ≠ 0 → (∃ t o, exec (.gcommit g) s = .next t ∧ Issued s t (.gcommit g) 0 closed o ∧ o.gst = q.st) ∧
       (∃ t o, exec (.gabort g) s = .next t ∧ Issued s t (.gabort g) 0 closed o ∧ o.gst = q.st)) ∧
     (∀ (u : State) (c : Nat) (o : Op), o.act = some (.gabort g) → (u.core c).groupPending o g.toNat = false →
       let w := (u.core c).groups.getD g.toNat {}
       OnlyCore u (u.settleGroup c o) c ∧ ((u.settleGroup c o).core c).groups.getD g.toNat {} =
         { w with held := [], lines := [], ways := [], pages := [], spilt := false, last := if w.spilt = true ∨ o.gst = 2 then 3 else 2 })) ∧
  (∀ w : Group, (w.spill true).st = w.st ∧ (w.st = 1 → (w.spill false).st = 2) ∧ ∀ b, (w.spill b).held = [] ∧ (w.spill b).spilt = true) ∧
  (∀ (s : State) (c n tag pa gpa stamp : Nat) (bs : List Byte), n < 4 → ((s.core c).groups.getD n {}).spilt = false → (s.core c).groups.length = 4 →
     ((s.core c).groups.getD n {}).lines.contains (pa / 128) = true →
     (∀ m e, m < 4 → (Sparse.get (0, 0) ((s.core c).groups.getD m {}).held e).1 ≤ stamp) →
     let t := s.hold c n tag pa gpa bs stamp
     OnlyCore s t c ∧ (∀ j, j < bs.length → (t.core c).heldByte (pa + j) = some (bs.getD j 0)) ∧
     ∀ e, (∀ j, j < bs.length → e ≠ pa + j) → (t.core c).heldByte e = (s.core c).heldByte e)

/-! ## Copy engines and commands -/

/-- R121, R123, R127, R128, R132, R133, R138: a copy command goes to the end of its channel with its operands and the commands its pending tokens name, takes the channel's
number and its token; a wait joins the operations, holds as its rule says, and is answered once it holds. -/
def Obligations.CopyCommandsEnterTheirChannel : Prop :=
  ∀ (s : State) (m : CArgs) (land : BitVec 12) (tk chn : BitVec 8) (a : BitVec 6), s.cur.core < nCores →
    let c := s.me
    let ch := m.ch.toNat
    let seq := (c.rsr (0x070 + ch)).toNat
    (∀ i kind n, (i, kind, n) ∈ [(Instr.cpy m, 0, 1), (.cpy2d m, 1, 4), (.cpyg m, 2, 3)] →
      ∃ t q, exec i s = .next t ∧ OnlyCore s t s.cur.core ∧
        let k := t.core s.cur.core
        k = { c with chans := k.chans, tokens := k.tokens, sr := k.sr } ∧
        (∀ j, k.chan j = if j = ch then c.chan ch ++ [q] else c.chan j) ∧
        (∀ r, k.rsr r = if r = 0x070 + ch then BitVec.ofNat 64 (seq + 1) else c.rsr r) ∧
        (∀ j, k.token j = if j = m.tko.toNat then { pend := true, fail := false, ch := ch, seq := seq } else c.token j) ∧
        q.kind = kind ∧ q.m = m ∧ q.dst = c.rx m.d.toNat ∧ q.src = c.rx m.s.toNat ∧ (∀ j, j < n → q.n.getD j 0 = c.rx (m.n.toNat + j)) ∧
        q.stat = c.rsr (0x040 + ch) ∧ q.ring = c.rsr (0x050 + ch) ∧ q.seq = seq ∧ q.level = c.level ∧ q.root = c.rsr 0x082 ∧ q.phase = 0 ∧
        (∀ e, e ∈ q.deps ↔ ∃ x ∈ [m.tk0, m.tk1, m.tk2].take m.nin.toNat, (c.token x.toNat).pend = true ∧
          e = ((c.token x.toNat).ch, (c.token x.toNat).seq)) ∧
        (∀ id, id ∈ q.after ↔ ∃ o ∈ c.pipe, o.id = id ∧ id < c.bundleId ∧ (memForm (o.act.getD .done)).isSome = true ∧ o.performed = false)) ∧
    (∃ t o, exec (.cwait land tk) s = .next t ∧ Issued s t (.cwait land tk) land.toNat s.me o ∧ o.phase = .fly ∧
      ((c.token tk.toNat).pend = true → (c.token tk.toNat).ch < 16 → (c.token tk.toNat).seq < 2 ^ 56 →
        ∀ k : Core, k.waitHolds o = true ↔ ∀ q ∈ k.chan (c.token tk.toNat).ch, q.seq ≠ (c.token tk.toNat).seq) ∧
      ((c.token tk.toNat).pend = false → ∀ k : Core, (∀ q ∈ k.chan 0, q.seq < 2 ^ 56 - 1) → k.waitHolds o = true)) ∧
    (∃ t o, exec (.wpwait land a chn) s = .next t ∧ Issued s t (.wpwait land a chn) land.toNat s.me o ∧ o.phase = .fly ∧
      ∀ k : Core, k.waitHolds o = true ↔ (c.rx a.toNat).toNat ≤ (k.rsr (0x060 + chn.toNat)).toNat) ∧
    (∀ o, c.op s.cur.i = some o → o.phase = .fly → exec .copyWaitSatisfied s =
      .next (if c.waitHolds o then s.setOp s.cur.core { o with phase := .arrived } else s))

/-- R122, R127, R134, R135, R136, R144: the command at the head of a channel that is ready starts, or ends at once with its code; one whose bytes are all delivered
completes, but not before the bytes that a grove window's port has taken lie in the window (R158), and CH.WP counts them then; one that is killed before it has started
ends with KILLED (R141); completion without status word and ring takes it from its channel, and its token is done. The order of the checks is the model's reading (log
entry 33). -/
def Obligations.CopyCommandsStartAndComplete : Prop :=
  ∀ (s : State) (q : Cmd) (n : Nat) (u : Upset), s.cur.core < nCores → s.me.head s.cur.i = some q →
    let c := s.cur.core
    (q.kill = false → q.ready s.me.pipe = true →
      let ends (code : Nat) : Prop := exec .copyCommandStart s = .next (s.complete c (q.ends code))
      (q.depBad = true → ends 4) ∧ (q.depBad = false → q.argsOk = false → ends 5) ∧
      (q.depBad = false → q.argsOk = true → q.routeOk = false → ends 6) ∧
      (q.depBad = false → q.argsOk = true → q.routeOk = true → q.total = 0 → ends 0) ∧
      (q.depBad = false → q.argsOk = true → q.routeOk = true → q.total ≠ 0 → ∃ t e, exec .copyCommandStart s = .next t ∧ OnlyCore s t c ∧
        t.core c = s.me.setHead q.ch { q with phase := 1, due := s.wall + Config.freeDelay s.freeCtr, elig := e })) ∧
    (q.kill = true → q.phase = 0 → exec .copyCommandStart s = .next (s.complete c (q.ends 7))) ∧
    (q.phase = 1 → q.paused = false → q.pauseCause = 0 → q.total ≤ q.progress → let r := s.creditCmd c q
      exec (.copyCommandComplete n u) s = .next (r.1.freeTime.2.complete c { r.2.ends 0 with due := s.wall + Config.freeDelay s.freeCtr })) ∧
    (q.win = none → s.creditCmd c q = (s, q)) ∧
    (∀ w, q.win = some w → ((s.core w).rwrite ≠ [] → s.creditCmd c q = (s, q) ∧ s.complete c q = s.setHead c q.ch q) ∧
      ((s.core w).rwrite = [] → (s.creditCmd c q).2 = { q with win := none, late := 0 } ∧ OnlyCore s (s.creditCmd c q).1 c ∧
        ((s.creditCmd c q).1.core c) = { s.me with sr := ((s.creditCmd c q).1.core c).sr } ∧
        ∀ m, ((s.creditCmd c q).1.core c).rsr m = if m = 0x060 + q.ch then s.me.rsr m + BitVec.ofNat 64 q.late else s.me.rsr m)) ∧
    (∀ (v : State) (d : Nat) (code : Nat), d < nCores → q.win = none → q.pauseCause = 0 → bitN q.stat.toNat 1 = false → bitN q.ring.toNat 1 = false →
      let t := v.complete d (q.ends code)
      let k := v.core d
      let k' := t.core d
      OnlyCore v t d ∧ k' = { k with chans := k'.chans, tokens := k'.tokens } ∧
      (∀ j, (k'.chan j).map (·.seq) = (if j = q.ch then (k.chan j).drop 1 else k.chan j).map (·.seq)) ∧
      (∀ j, k'.token j = if j = q.m.tko.toNat ∧ (k.token j).pend = true ∧ (k.token j).ch = q.ch ∧ (k.token j).seq = q.seq
        then { k.token j with pend := false, fail := code != 0 || q.fails || q.abandoned } else k.token j) ∧
      (∀ j r, r ∈ k'.chan j → (q.ch, q.seq) ∉ r.deps))

/-- R127, R128, R130, R139, R150: one run of a copy, of the least of what is asked for, what is left of the element, and what is left of the sectors of both and of 512
bytes; the elements of cpy2d and cpyg lie where their strides and their table say. The bytes of the source stand at the destination, every other byte of the core's own
memories stays, and the position and CH.WP move on: within the core's scratchpad and lanes, from and to main memory, the clearing, and a grove window, and to a host
for a bulk command. A run whose port is taken in this cycle waits; one out of range, or with an uncorrectable datum, ends the command with its code; a translation fault
pauses it. What a word of a core's memory fails by is the model's State.strikes (log entry 84). -/
def Obligations.CopyRunsMoveBytes : Prop :=
  ∀ (s : State) (c n : Nat) (q : Cmd) (u : Upset), c < nCores → q.progress < q.total → 0 < n →
    let w := (q.n.getD 0 0).toNat
    let e := if q.kind = 0 then 0 else q.progress / w
    let o := if q.kind = 0 then q.progress else q.progress % w
    (q.kind ≠ 2 → s.tableEntry c q e = (some (some (q.idx.getD 0)), s)) ∧
    (q.kind = 2 → ∀ i, q.idx = some i → s.tableEntry c q e = (some (some i), s)) ∧
    (q.kind = 2 → q.idx = none → s.strikes = [] → let a := (q.n.getD 2 0).toNat + 4 * e
      ((s.core c).portFree (portOf (a / 2 ^ 20 % 4) false) = true → s.tableEntry c q e = (some (some (natLE (Sparse.bytes (s.core c).spm a 4))), s)) ∧
      ((s.core c).portFree (portOf (a / 2 ^ 20 % 4) false) = false → s.copyRun c q n u = (s, q))) ∧
    ∀ i, s.tableEntry c q e = (some (some i), s) →
    let dst := (if q.kind = 0 then q.dst + BitVec.ofNat 64 o else if q.kind = 1 then q.dst + BitVec.ofNat 64 e * q.n.getD 3 0 + BitVec.ofNat 64 o
      else q.dst + BitVec.ofNat 64 (e * w + o)).toNat
    let src := (if q.kind = 0 then q.src + BitVec.ofNat 64 o else if q.kind = 1 then q.src + BitVec.ofNat 64 e * q.n.getD 2 0 + BitVec.ofNat 64 o
      else q.src + BitVec.ofNat 64 (i * w + o)).toNat
    let k := min (min n (w - o)) (min (min (32 - src % 32) (32 - dst % 32)) (512 - q.progress % 512))
    let r := s.copyRun c q n u
    let cx (v : State) : Ctx := v.cmdCtx c q
    let free (v : State) (lane : Bool) (a : Nat) (write : Bool) : Prop := (v.core c).portFree (portOf (if lane then 4 else a / 2 ^ 20 % 4) write) = true
    let size (lane : Bool) : Nat := if lane then 0x80000 else 0x400000
    let own (lane : Bool) : Space := if lane then .lane else .spm
    let mem (x : Core) (lane : Bool) : Sparse Byte := if lane then x.lane else x.spm
    let filled (v : State) (lane : Bool) (bs : List Byte) : Prop :=
      OnlyCore v r.1 c ∧ (r.1.core c) = { v.core c with spm := (r.1.core c).spm, lane := (r.1.core c).lane, sr := (r.1.core c).sr } ∧
      (∀ l a, Sparse.get 0 (mem (r.1.core c) l) a = if l = lane ∧ dst ≤ a ∧ a < dst + bs.length then bs.getD (a - dst) 0 else Sparse.get 0 (mem (v.core c) l) a) ∧
      (∀ m, (r.1.core c).rsr m = if m = 0x060 + q.ch then (v.core c).rsr m + BitVec.ofNat 64 k else (v.core c).rsr m) ∧ r.2.progress = q.progress + k
    (∀ la lb, q.m.ssp = own la → q.m.dsp = own lb →
      (size la < src + k → r = (s, q.ends (if la then 10 else 8))) ∧
      (src + k ≤ size la → size lb < dst + k → r = (s, q.ends (if lb then 10 else 8))) ∧
      (src + k ≤ size la → dst + k ≤ size lb → let opens : Prop := free s la src false ∧ free s lb dst true
        (s.strikes = [] → opens → filled s lb (Sparse.bytes (mem (s.core c) la) src k) ∧
          r.2 = { q with progress := q.progress + k, idx := if o + k < w then some i else none }) ∧
        (¬ opens → r = (s, q)) ∧
        (∀ t, opens → s.arrayRead c (if la then 1 else 0) [(src / 32 * 32, 32)] = (false, t) → r = (t, q.ends 1)))) ∧
    (∀ ca ms pa gp s₁, q.m.ssp = .glb → q.m.dsp = .spm → q.bulk = false → dst + k ≤ 0x400000 →
      s.route (cx s) { r := true } src = (.ok (.main ca ms, pa, gp), s₁) →
      (2 ^ 40 ≤ pa → pa < 2 ^ 41 → r = (s₁, q.ends 6)) ∧
      (pa < 2 ^ 40 → free s₁ false dst true →
        (∀ bs s₂, s₁.readMain (cx s₁).copyReq ca ms pa k (q.gsrc != some (pa / 512)) u = (some bs, s₂) → s₂.strikes = [] → filled s₂ false bs) ∧
        (∀ s₂, s₁.readMain (cx s₁).copyReq ca ms pa k (q.gsrc != some (pa / 512)) u = (none, s₂) → r = (s₂, q.ends 1)))) ∧
    (∀ ca ms pa gp s₁, q.m.ssp = .spm → q.m.dsp = .glb → src + k ≤ 0x400000 → s.route (cx s) { w := true } dst = (.ok (.main ca ms, pa, gp), s₁) → pa < 2 ^ 40 →
      free s₁ false src false → s₁.strikes = [] → ∀ ok s₂,
      s₁.writeMain (cx s₁).copyReq ca ms pa (Sparse.bytes (s₁.core c).spm src k) (q.gdst != some (pa / 512)) .none = (ok, s₂) →
        if ok then r.1 = (s₂.dirty c gp).countWp c q k ∧ r.2.progress = q.progress + k else r = (s₂, q.ends 1)) ∧
    (∀ cause s₁, q.m.ssp = .glb → s.route (cx s) { r := true } src = (.error cause, s₁) →
      r = (s₁, if q.kill then q.ends 7 else q.faults cause 0 src)) ∧
    (q.m.ssp = .clr → q.m.dsp = .spm → dst + k ≤ 0x400000 → free s false dst true →
      (s.rangeCheck c .clr src k false ≠ none → r = (s, q.ends 2)) ∧
      (s.rangeCheck c .clr src k false = none → let h := s.clrHome (s.core c).part src
        ∀ bs s₂, s.readClr (cx s).req h.1 h.2 k u = (some bs, s₂) → s₂.strikes = [] → filled s₂ false bs)) ∧
    (q.m.ssp = .spm → q.m.dsp = .clr → src + k ≤ 0x400000 → free s false src false → s.strikes = [] → s.rangeCheck c .clr dst k false = none →
      let h := s.clrHome (s.core c).part dst
      ∀ s₂, s.writeClr (cx s).req h.1 h.2 (Sparse.bytes (s.core c).spm src k) .none = (true, s₂) → r.1 = s₂.countWp c q k ∧ r.2.progress = q.progress + k) ∧
    (q.m.ssp = .spm → q.m.dsp = .grv → src + k ≤ 0x400000 → free s false src false → s.strikes = [] → s.rangeCheck c .grv dst k false = none →
      let g := s.grvCore c (dst / 2 ^ 20)
      (s.grantAt g (posOf c) true = none → r = (s, q)) ∧
      (∀ s₁, s.grantAt g (posOf c) true = some s₁ → r.1 = s₁.writeGrv g (0x300000 + dst % 2 ^ 20) (Sparse.bytes (s₁.core c).spm src k) ∧
        r.2.progress = q.progress + k ∧ r.2.win = some g ∧ r.2.late = k)) ∧
    (q.m.ssp = .grv → q.m.dsp = .spm → dst + k ≤ 0x400000 → s.strikes = [] → s.rangeCheck c .grv src k false = none →
      let g := s.grvCore c (src / 2 ^ 20)
      ∀ s₁, s.grantAt g (posOf c) false = some s₁ → free s₁ false dst true → filled s₁ false (Sparse.bytes (s₁.core g).spm (0x300000 + src % 2 ^ 20) k)) ∧
    (∀ l ca pa gp s₁, q.m.ssp = .clr → q.m.dsp = .glb → q.bulk = true → s.rangeCheck c .clr src k false = none →
      s.route (cx s) { w := true } dst = (.ok (.host l ca, pa, gp), s₁) → let h := s.clrHome (s.core c).part src
      ∀ bs s₂, s₁.readClr (cx s₁).req h.1 h.2 k u = (some bs, s₂) → s₂.linkUp l = true →
        r.1 = (s₂.send (.hostWrite l (s₂.translated (cx s₁).part l) pa bs)).countWp c q k ∧ r.2.progress = q.progress + k)

/-- R140, R143, R147, R148: a command that met a fault pauses and its engine is free; CPY.FRES with MISS, resume and abandon; an engine takes the only eligible chunk and
charges its unit; its end frees it; a refill adds the unit's REFILL to its level up to its CAP. -/
def Obligations.PausesEnginesAndBudgets : Prop :=
  ∀ (s : State) (u : Upset) (v : Word) (p : Nat), p < 16 →
    (∀ q, s.cur.core < nCores → s.me.head s.cur.i = some q → q.pauseCause ≠ 0 → q.paused = false → getF (s.rw (faultQ s.me.part)) 3 45 = 0 →
      exec .copyFaultPause s = .next (({ s with chunks := s.chunks.filter fun k => !(k.core == s.cur.core && k.ch == s.cur.i) } : State).setHead
        s.cur.core s.cur.i { q with paused := true, pausedAt := s.wall, chunk := 0 })) ∧
    (s.matchFres p v = .none → exec (.cpyFresResume p v) s = .next (s.ww (ppage p 0x2000) 0x100000) ∧
      exec (.cpyFresAbandon p v) s = .next (s.ww (ppage p 0x2000) 0x100000)) ∧
    (∀ c ch q, s.matchFres p v = .cmd c ch → (s.core c).head ch = some q → q.phase = 1 →
      let t := s.ww (ppage p 0x2000) 0
      (∃ e, exec (.cpyFresResume p v) s = .next (t.tickFree.setHead c q.ch
        { q with paused := false, pauseCause := 0, due := s.wall + Config.freeDelay s.freeCtr, elig := e })) ∧
      exec (.cpyFresAbandon p v) s = .next (t.complete c (Cmd.ends { q with paused := false, pauseCause := 0 } 3))) ∧
    (s.cur.i < 2 → (∀ k ∈ s.chunks, ¬ (k.die = s.cur.i ∧ k.eng = s.cur.j % 8)) →
      (s.eligible s.cur.i = [] → exec .bulkChunkStart s = .next s) ∧
      (∀ c ch q, s.eligible s.cur.i = [(c, ch, q)] → c < nCores → (s.core c).part < 16 → 0 < s.budLevel (s.core c).part q.bunit →
        let n := min (65536 - q.progress % 65536) (q.total - q.progress)
        ∃ t q' ps, exec .bulkChunkStart s = .next t ∧
          t.chunks = { die := s.cur.i, eng := s.cur.j % 8, core := c, ch := ch, seq := q.seq, bytes := n, due := s.wall + Config.freeDelay s.freeCtr, ports := ps } :: s.chunks ∧
          (q.m.ssp ≠ .glb → q.m.dsp ≠ .glb → ps = []) ∧
          t.budLevel (s.core c).part q.bunit = s.budLevel (s.core c).part q.bunit - (n : Int) ∧ t.core c = (s.core c).setHead ch q' ∧ q'.chunk = q.progress + n ∧ q'.progress = q.progress ∧
          t = { s with cores := t.cores, chunks := t.chunks, win := t.win, freeCtr := t.freeCtr } ∧
          ∀ o, o ≠ ppage (s.core c).part (0x2010 + 8 * q.bunit) → t.rw o = s.rw o)) ∧
    (∀ k, s.cur.i < 2 → s.chunks.find? (fun k => k.die == s.cur.i && k.eng == s.cur.j % 8) = some k →
      let s₁ := s.progressCmd k.core k.ch 65536 u
      let freed : State := { s₁ with chunks := s₁.chunks.filter (· != k) }
      ((s₁.core k.core).head k.ch = none → exec (.bulkChunkDone u) s = .next freed) ∧
      ∀ q, (s₁.core k.core).head k.ch = some q → q.seq = k.seq → q.pauseCause = 0 →
        exec (.bulkChunkDone u) s = .next (freed.setHead k.core k.ch { q with chunk := 0 })) ∧
    (∃ t, exec .budgetRefill s = .next t ∧ t = { s with win := t.win, cores := t.cores } ∧
      ∀ p n, p < 16 → n < 4 → t.budLevel p n = min (s.budLevel p n + 1024 * (getF (s.bud p n) 0 20 : Nat)) (1024 * (getF (s.bud p n) 32 20 : Nat)))

/-- R185, R199, R314, R316, R317, R318, R411, R412, R413, R414: a reduction's block that is in goes to its stack's engine where a place is free; a block that its rules forbid
ends with BAD_ARG; a fault of a range pauses it; one that has begun sums a sector after another, and ends with its last, with one that fails, or where a kill meets a
boundary of 512 bytes; at its end FLAG and STAT take their values where they translated at its start. A collective is matched, refused, paused or abandoned in the same
way: a rank that has the elements of all ranks writes its result sector after sector, goes on from the sector at which a fault stopped it, and ends with its flag; one
whose neighbours no port reaches any more ends with BAD_ROUTE. That a sector of a reduction, and a rank of a collective, is one event is the model's choice (log entry 34). -/
def Obligations.ReductionsAndCollectives : Prop :=
  ∀ (s : State) (u : Upset) (nb : Neighbours),
    (∀ o m, s.cur.core < nCores → s.me.op s.cur.i = some o → o.act = some (.red m) → o.phase = .arrived → o.progress = 0 →
      let cx := s.opCtx s.cur.core o
      let ws := blockWords o.got
      let w := s.redStack cx (ws.getD 0 0).toNat
      (16 ≤ w.2.redsAt w.1 → exec .reductionAccept s = .next w.2) ∧
      (w.2.redsAt w.1 < 16 → ∃ r : Red, exec .reductionAccept s = .next { (w.2.tickFree.setOp s.cur.core { o with progress := 1 }) with
          reds := w.2.reds ++ [r], nextKey := w.2.nextKey + 1 } ∧
        r.key = w.2.nextKey ∧ r.stack = w.1 ∧ r.core = s.cur.core ∧ r.words = ws ∧ r.root = cx.root ∧ r.tag = cx.tag ∧ r.paused = false ∧ r.begun = false)) ∧
    (∀ r, s.reds.find? (fun r => r.key == s.cur.i) = some r →
      (r.paused = true → exec (.reductionComplete u) s = .next s) ∧
      (r.paused = false → r.begun = false →
        (r.ok = false → exec (.reductionComplete u) s = .next (s.redEnd r 5 0)) ∧
        (∀ va k dir s₁, r.ok = true → s.rangesMap r.ctx r.ranges = (.error (va, k, dir), s₁) → exec (.reductionComplete u) s = .next { (s₁.setRed
          { r with pauseCause := k, pauseDir := dir, pauseVa := va }) with turn := { cur := { i := r.key }, act := .reductionPause } :: s₁.turn }) ∧
        (∀ ps s₁ p, r.ok = true → s.rangesMap r.ctx r.ranges = (.ok ps, s₁) → ({ r with map := ps } : Red).page r.dst = some p →
          let n := if inHbm p.pa then stackOf p.pa else r.stack
          let q : Red := { r with map := ps, stack := n }
          let due := s₁.wall + Config.freeDelay s₁.freeCtr
          let full : Prop := n ≠ r.stack ∧ 16 ≤ s₁.redsAt n
          (full → exec (.reductionComplete u) s = .next (s₁.tickFree.setRed { r with map := [], due := due })) ∧
          (¬ full → q.routeOk n = true → exec (.reductionComplete u) s = .next (s₁.tickFree.setRed { q with begun := true, due := due })) ∧
          (¬ full → q.routeOk n = false → exec (.reductionComplete u) s = .next (s₁.tickFree.redEnd q 6 0)))) ∧
      (r.paused = false → r.begun = true →
        let killed : Prop := r.kill = true ∧ r.next % 16 = 0
        (killed → exec (.reductionComplete u) s = .next (s.redEnd r 7 (32 * r.next))) ∧
        (∀ t, ¬ killed → s.redSector r u = (none, t) → exec (.reductionComplete u) s = .next (t.redEnd r 1 (32 * r.next))) ∧
        (∀ r' t, ¬ killed → s.redSector r u = (some r', t) → exec (.reductionComplete u) s =
          .next (if r'.count ≤ 8 * r'.next then t.redEnd r' 0 r'.len else t.tickFree.setRed { r' with due := t.wall + Config.freeDelay t.freeCtr }))) ∧
      (∀ r₁ s₁ got r₂ s₂, s.redGather r 0 .none = (got, r₁, s₁) → (∀ b ∈ got, b.2.isSome = true) →
        let el (i e : Nat) : Option Elem := match got.find? fun b => b.1 == i with
          | some (_, some bs) => some (BitVec.ofNat 32 (natLE ((bs.drop (4 * e)).take 4)))
          | _ => none
        s₁.redWrite r₁ (r₁.dst + 32 * r₁.next) ((List.range 8).flatMap fun e => bytesLE 4 (reduceEight ((List.range 8).map fun i => el i e)).toNat) = (true, r₂, s₂) →
        s.redSector r .none = (some { r₂ with next := r₂.next + 1 }, s₂)) ∧
      (r.paused = false → r.pauseCause ≠ 0 → getF (s.rw (faultQ r.part)) 3 45 = 0 → exec .reductionPause s = .next (s.setRed { r with paused := true, pausedAt := s.wall }))) ∧
    (∀ r, s.colls.find? (fun r => r.key == s.cur.i) = some r → r.paused = false →
      let next := r.ring ((r.pos + 1) % r.nrank)
      let prev := r.ring ((r.pos + r.nrank - 1) % r.nrank)
      let near : Prop := nb.reachable = true ∧ (s.fabricPort next).isSome = true ∧ (s.fabricPort prev).isSome = true
      (r.matched = false → r.ok (s.rwF (rpage 0xB000) 0 7) = false → exec (.collectiveMatch nb) s = .next (s.collEnd r 5 0)) ∧
      (r.matched = false → r.ok (s.rwF (rpage 0xB000) 0 7) = true → ¬ near → exec (.collectiveMatch nb) s = .next (s.collEnd r 6 0)) ∧
      (r.matched = false → r.ok (s.rwF (rpage 0xB000) 0 7) = true → near →
        exec (.collectiveMatch nb) s = .next (if nb.agree then s.setColl { r with matched := true } else s.collEnd r 5 0)) ∧
      (r.pauseCause ≠ 0 → getF (s.rw (faultQ r.part)) 3 45 = 0 → exec .collectivePause s = .next (s.setColl { r with paused := true, pausedAt := s.wall })) ∧
      (∀ xs, r.matched = true → s.collReach r = false → exec (.collectiveComplete xs) s = .next (s.collEnd r 6 r.wrote)) ∧
      (∀ r' va k dir s₁ xs, r.matched = true → s.collReach r = true → s.collSource r = ({ stop := some (.pause va k dir), r := r' }, s₁) →
        exec (.collectiveComplete xs) s = .next { (s₁.setColl { r' with pauseCause := k, pauseDir := dir, pauseVa := va }) with
          turn := { cur := { i := r'.key }, act := .collectivePause } :: s₁.turn }) ∧
      (∀ r' s₁ xs, r.matched = true → s.collReach r = true → s.collSource r = ({ stop := some .lost, r := r' }, s₁) →
        exec (.collectiveComplete xs) s = .next (s₁.collEnd r' 1 r'.wrote)) ∧
      (∀ r' s₁ xs, r.matched = true → s.collReach r = true → s.collSource r = ({ stop := none, r := r' }, s₁) →
        let s₂ := if r'.sent then s₁ else s₁.send (.collData r'.die r'.collid (r'.own.flatMap fun e => bytesLE 4 e.toNat))
        let q : Coll := { r' with sent := true }
        let all := (List.range q.nrank).map fun i => if i = q.pos then q.own else xs.getD i []
        ((∃ l ∈ all, l.length < q.count) → exec (.collectiveComplete xs) s = .next (s₂.collEnd q 1 q.wrote)) ∧
        ((∀ l ∈ all, q.count ≤ l.length) →
          (∀ r'' va k dir s₃, s₂.collDest q (q.result all) = ({ stop := some (.pause va k dir), r := r'' }, s₃) → exec (.collectiveComplete xs) s = .next
            { (s₃.setColl { r'' with pauseCause := k, pauseDir := dir, pauseVa := va }) with turn := { cur := { i := r''.key }, act := .collectivePause } :: s₃.turn }) ∧
          (∀ r'' s₃ ps s₄, s₂.collDest q (q.result all) = ({ stop := none, r := r'' }, s₃) → s₃.rangesMap r''.ctx r''.lastRanges = (.ok ps, s₄) →
            exec (.collectiveComplete xs) s = .next (s₄.collEnd r'' 0 r''.dstLen)) ∧
          (∀ r'' s₃ va k dir s₄, s₂.collDest q (q.result all) = ({ stop := none, r := r'' }, s₃) → s₃.rangesMap r''.ctx r''.lastRanges = (.error (va, k, dir), s₄) →
            exec (.collectiveComplete xs) s = .next { (s₄.setColl { r'' with pauseCause := k, pauseDir := dir, pauseVa := va }) with
              turn := { cur := { i := r''.key }, act := .collectivePause } :: s₄.turn }))) ∧
      exec .collectiveAbandon s = .next (s.collEnd r 3 r.wrote)) ∧
    (∀ (r : Coll) (k : Nat) (v : State), 8 * k = r.own.length →
      (∀ bs g t, v.readSector r.ctx (r.src + 32 * k) r.gsrc .none = (.ok bs, g, t) → ∃ ws : List Elem, collRead ({ r := r }, v) k = ({ r := { r with gsrc := g, own := r.own ++ ws } }, t) ∧
        ws.length = 8 ∧ ∀ e, e < 8 → (ws.getD e 0).toNat = natLE ((bs.drop (4 * e)).take 4) % 2 ^ 32) ∧
      (∀ c g t, v.readSector r.ctx (r.src + 32 * k) r.gsrc .none = (.error (.fault c), g, t) →
        collRead ({ r := r }, v) k = ({ stop := some (.pause (r.src + 32 * k) c 0), r := { r with gsrc := g } }, t))) ∧
    (∀ (r : Coll) (out : List Elem) (k : Nat) (v : State), (32 * k < r.wrote → collWrite out ({ r := r }, v) k = ({ r := r }, v)) ∧
      (r.wrote ≤ 32 * k → ∀ x g t, v.writeAtHome r.ctx (r.dst + 32 * k) (((out.drop (8 * k)).take 8).flatMap fun e => bytesLE 4 e.toNat) r.gdst = (x, g, t) →
        (x = .ok () → collWrite out ({ r := r }, v) k = ({ r := { r with gdst := g, wrote := 32 * k + 32 } }, t)) ∧
        (∀ c, x = .error (.fault c) → collWrite out ({ r := r }, v) k = ({ stop := some (.pause (r.dst + 32 * k) c 1), r := { r with gdst := g } }, t)) ∧
        (x = .error .lost → collWrite out ({ r := r }, v) k = ({ stop := some .lost, r := { r with gdst := g } }, t)))) ∧
    (∀ (r : Red) (code done : Nat) (ca ms pa gp), r.w 10 % 8 = 0 → r.known (r.w 10) = some (.main ca ms, pa, gp) → r.w 12 = 0 →
      (r.add = false → ∀ ok t, s.writeMain r.ctx.req ca ms pa (bytesLE 8 (r.w 11)) true .none = (ok, t) →
        s.redEnd r code done = (if ok then t.dirtyCx r.ctx gp else t).dropRed r.key) ∧
      (r.add = true → s.admits r.ctx.req pa = (true, s) → ∀ t, (s.correct r.ctx.copyReq ms pa 8).ringAddMain ms pa (r.w 11) 3 r.core = some t →
        s.redEnd r code done = (t.dirtyCx r.ctx gp).dropRed r.key)) ∧
    (∀ (r : Red) (code done : Nat) (ca ms pa gp cb mb pb gb t u), r.w 12 ≠ 0 → r.w 12 % 8 = 0 → r.w 10 % 8 = 0 → r.add = false →
      r.known (r.w 12) = some (.main ca ms, pa, gp) → s.writeMain r.ctx.req ca ms pa (bytesLE 8 (code + done * 2 ^ 24)) true .none = (true, t) →
      r.known (r.w 10) = some (.main cb mb, pb, gb) → (t.dirtyCx r.ctx gp).writeMain r.ctx.req cb mb pb (bytesLE 8 (r.w 11)) true .none = (true, u) →
      s.redEnd r code done = (u.dirtyCx r.ctx gb).dropRed r.key) ∧
    (∀ (r : Coll) (code done : Nat) (ca ms pa gp s₁ s₂ s₃), r.w 5 % 8 = 0 → r.w 7 = 0 → r.add = false → s.route r.ctx { w := true } (r.w 5) = (.ok (.main ca ms, pa, gp), s₁) →
      s₁.route r.ctx { w := true } (r.w 5) = (.ok (.main ca ms, pa, gp), s₂) → s₂.writeMain r.ctx.req ca ms pa (bytesLE 8 (r.w 6)) true .none = (true, s₃) →
      let t := (s₃.dirtyCx r.ctx gp).dropColl r.key
      s.collEnd r code done = if code = 1 ∨ code = 3 then t.send (.collNotice r.die r.collid code) else t) ∧
    (∀ a : Nat → Elem, let A (x y : Elem) : Elem := (addF32 x y).1
      treeEight ((List.range 8).map fun i => some (a i)) = some (A (A (A (a 0) (a 1)) (A (a 2) (a 3))) (A (A (a 4) (a 5)) (A (a 6) (a 7)))) ∧
      treeEight [none, some (a 1), none, none, some (a 4), none, some (a 6), none] = some (A (a 1) (A (a 4) (a 6))) ∧
      reduceEight [none, none, some (a 2), none, none, none, none, none] = if (f32 (a 2)).isNan then 0x7FC00000 else a 2) ∧
    (∀ (x y z : List Elem) (e : Nat), let A (p q : Elem) : Elem := (addF32 p q).1
      let g (l : List Elem) : Elem := l.getD e 0
      collSum false [x, y, z] 0 e = A (A (g y) (g z)) (g x) ∧ collSum false [x, y, z] 1 e = A (A (g z) (g x)) (g y) ∧
      collSum true [x, y, z] 2 e = g x + g y + g z)

/-! ## Launches, saves and stops of launches -/

/-- R331, R332, R340, R441: LQ.TAIL is written; lqput stores its 128 bytes at the slot of the tail, which moves on by one, or fails with
QUEUE_OFF, QUEUE_FULL or DATA_ABORT; the scheduler takes the next descriptor, moving
the head on by one, and a descriptor that its rules forbid ends at once with BAD_DESCRIPTOR; one that cannot be read holds its queue and is reported once. -/
def Obligations.DescriptorsAreQueuedAndTaken : Prop :=
  ∀ (s : State) (p q : Nat) (v : Word), p < 16 → q < 64 →
    let key := p * 64 + q
    (∃ t, exec (.lqTailWrite p q v) s = .next t ∧ t = { s with win := t.win, lqFault := s.lqFault.filter (· != key) } ∧
      ∀ o, t.rw o = if o = lqTail p q then v &&& 0xFFFFFFFF else s.rw o) ∧
    (s.cur.i = p → s.cur.j = q →
      (s.lqPending p q = false ∨ key ∈ s.lqFault → exec .descriptorTake s = .next s) ∧
      (s.lqPending p q = true → key ∉ s.lqFault →
        let i := getF (s.rw (lqHead p q)) 0 32
        let a := s.lqSlot p q i
        (∀ ws t, s.readDesc p a = (some ws, t) → exec .descriptorTake s = .next (t.queueLaunch p q i ws)) ∧
        (∀ t, s.readDesc p a = (none, t) → exec .descriptorTake s = .next (t.descFault p key a)))) ∧
    (∀ i ws, let t := s.queueLaunch p q i ws
      ∃ l, t = { s with win := t.win, launches := s.launches ++ [l], nextKey := s.nextKey + 1, lqFault := t.lqFault, lqLevel := t.lqLevel } ∧
        (∀ o, t.rw o = if o = lqHead p q then BitVec.ofNat 64 ((i + 1) % 2 ^ 32) else s.rw o) ∧ key ∉ t.lqFault ∧
        l.desc = ws ∧ l.part = p ∧ l.q = q ∧ l.idx = i ∧ l.key = s.nextKey ∧ l.cores = [] ∧
        (l.st = .waiting ∨ l.st = .ending ∧ l.status = 4) ∧ ((ws.getD 3 0) = 0 ∨ getF (ws.getD 2 0) 3 2 = 3 → l.st = .ending)) ∧
    (∀ a, key ∈ (s.descFault p key a).lqFault ∧ key + 1024 ∈ (s.descFault p key a).lqFault ∧
      (key + 1024 ∈ s.lqFault → s.descFault p key a = { s with lqFault := key :: s.lqFault })) ∧
    (∀ o m u, s.cur.core < nCores → s.me.op s.cur.i = some o → o.act = some (.lqput m) → o.phase = .arrived → o.progress = 0 → s.me.free_ o = false →
      let c := s.cur.core
      let r := s.publish c m.tg.toNat o.got
      let cfg := s.rw (lqCfg s.me.part m.tg.toNat)
      let tail := getF (s.rw (lqTail s.me.part m.tg.toNat)) 0 32
      let slot := s.lqSlot s.me.part m.tg.toNat tail
      slot = getF cfg 7 41 * 128 + 128 * (tail % 2 ^ getF cfg 48 4) ∧
      (bitN cfg.toNat 0 = false → exec (.elasticDataArrives none u) s = .next (s.failOp c o 0xA1)) ∧
      (bitN cfg.toNat 0 = true → (getF (s.rw (lqTail s.me.part m.tg.toNat)) 0 32 + 2 ^ 32 - getF (s.rw (lqHead s.me.part m.tg.toNat)) 0 32) % 2 ^ 32 = 2 ^ getF cfg 48 4 →
        exec (.elasticDataArrives none u) s = .next (s.failOp c o 0xA2)) ∧
      (∀ t, r = (none, t) → exec (.elasticDataArrives none u) s = .next (t.setOp c { o with progress := 1 }) ∧
        t.rw (lqTail s.me.part m.tg.toNat) = BitVec.ofNat 64 ((tail + 1) % 2 ^ 32) ∧ s.me.part * 64 + m.tg.toNat ∉ t.lqFault ∧
        ∀ pa, (agentAddr s (some s.me.part) { w := true } slot).1 = .ok pa → ∀ j, j < 128 → t.peek false (pa + j) 1 = [Sparse.get 0 o.got j]) ∧
      (∀ k t, r = (some k, t) → exec (.elasticDataArrives none u) s = .next (t.failOp c o k)) ∧
      (∀ k, bitN cfg.toNat 0 = true → (tail + 2 ^ 32 - getF (s.rw (lqHead s.me.part m.tg.toNat)) 0 32) % 2 ^ 32 ≠ 2 ^ getF cfg 48 4 →
        (agentAddr s (some s.me.part) { w := true } slot).1 = .error k → r.1 = some 0x91))

/-- R327, R332, R333, R334, R335, R342, R346, R394: a waiting launch becomes ready when its ring and its time allow; a placement is made of free cores, as many as the shape
has; a launch whose image is good starts on it, each core with its arguments, its level and its code address; nothing else of a core's former context stays but its
memories, its remote port and its margin registers: every register, latch, result, queue, token and channel has its value at dispatch; a bad image ends the launch, or makes the launch of an exact tile end so. LATE and the start time are those of the first dispatch. When a ring is compared and
what an image handle may be is the model's reading (log entries 49 and 50). -/
def Obligations.LaunchesBecomeReadyAndStart : Prop :=
  (∀ (s : State) (l : Launch), s.launch s.cur.i = some l → l.st = .waiting →
    let ready (u : State) : State := u.modLaunch l.key fun l => { l with st := .ready, readyAt := u.wall }
    (l.w 4 = 0 → exec .launchReady s = .next (if l.kind = 1 ∧ s.time.toNat < l.w 9 then s else ready s)) ∧
    (∀ n s₁, l.w 4 ≠ 0 → s.waitValue l = (some n, s₁) → exec .launchReady s =
      .next (if l.w 5 ≤ n ∧ ¬ (l.kind = 1 ∧ s₁.time.toNat < l.w 9) then ready s₁ else s₁)) ∧
    (∀ s₁, l.w 4 ≠ 0 → s.waitValue l = (none, s₁) → exec .launchReady s =
      .next ((s₁.agentFault (l.w 4) 2 l.part none).modLaunch l.key fun l => { l with st := .ending, status := 6 }))) ∧
  (∀ (s : State) (l : Launch), s.cur.i < 16 → s.firstOf s.cur.i = some l →
    let may : Prop := s.mayDispatch s.cur.i = true
    (¬ may ∨ l.placement (s.freeCores s.cur.i) = none → exec .launchDispatch s = .next s) ∧
    (∀ a b, may → l.placement (s.freeCores s.cur.i) = some (a, b) → l.savedPos = true → exec .launchDispatch s = .next (s.resumeLaunch l a)) ∧
    (∀ a, may → l.placement (s.freeCores s.cur.i) = some (a, []) → l.savedPos = false →
      (∀ s₁, s.image l (l.w 0) (a.getD 0 0) = (none, s₁) → exec .launchDispatch s = .next (s₁.badImage l)) ∧
      (∀ s₁ codes, l.kind ≠ 2 → s.image l (l.w 0) (a.getD 0 0) = (some codes, s₁) → exec .launchDispatch s =
        .next ((s₁.startCores l a codes (freeUnit (s₁.unitsOf l)) l.exactTile false).modLaunch l.key fun l =>
          { l.begun s₁.time.toNat a with seat := freeUnit (s₁.unitsOf l) }))) ∧
    (∀ a b s₁ s₂ s₃ codes rcodes ecodes, may → l.placement (s.freeCores s.cur.i) = some (a, b) → l.savedPos = false → l.kind = 2 → l.w 11 ≠ 0 →
      s.image l (l.w 0) (a.getD 0 0) = (some codes, s₁) → s₁.image l (l.w 11) (a.getD 0 0) = (some rcodes, s₂) → s₂.image l (l.w 12) (a.getD 0 0) = (some ecodes, s₃) →
      let n := l.nextTile
      let x := freeUnit (s₁.unitsOf l)
      let y := freeUnit (x :: s₁.unitsOf l)
      exec .launchDispatch s = .next (((s₃.startCores l a codes x n true).startCores l b rcodes y n true).modLaunch l.key fun l =>
        { l.begun s₃.time.toNat (a ++ b) with nextTile := n + 1, tiles := l.tiles ++ [{ n := n, cores := a, rcores := b, seat := x, rseat := y }] })) ∧
    (l.parent = none → s.badImage l = s.modLaunch l.key fun l => if l.st = .running then { l with unmade := true, nextTile := l.ntiles } else { l with st := .ending, status := 5 }) ∧
    (∀ p, l.parent = some p → s.badImage l = (s.dropLaunch l.key).modLaunch p fun l => { l with unmade := true, nextTile := l.ntiles })) ∧
  (∀ (l : Launch) (time : Nat) (cores : List Nat), let m := l.begun time cores
    m = { l with st := .running, start := m.start, cores := l.cores ++ cores, sliceAt := if l.st = .running then l.sliceAt else time, late := m.late } ∧
    (l.start = 0 → m.start = time ∧ (m.late = true ↔ l.kind = 1 ∧ l.w 9 + 1000 < time)) ∧ (l.start ≠ 0 → m.start = l.start ∧ m.late = l.late)) ∧
  (∀ (sh : Nat) (free l : List Nat), sh ≤ 32 → place sh free = some l → (∀ c ∈ l, c ∈ free) ∧ l.length = shapeCores sh) ∧
  (∀ (c : Core) (l : Launch) (lvl : Level) (pos seat code tile : Nat) (g : Bool) (map : Word) (time : Nat),
    let k := c.start l lvl pos seat code tile g map time
    k = { Core.reset with run := .running, pc := codeAddr code, level := lvl, lpos := pos, seat := seat, part := l.part, launch := some l.key
                          tile := if g then some tile else none, wdStart := time, groups := if g then [{ st := 1 }, {}, {}, {}] else [{}, {}, {}, {}]
                          x := k.x, sr := k.sr, spm := c.spm, lane := c.lane, acc := c.acc, nextId := c.nextId
                          rwrite := c.rwrite, rport := c.rport, rportBusy := c.rportBusy, rportHeld := c.rportHeld
                          replayStart := c.replayStart, marginDue := c.marginDue, escal := c.escal } ∧
    (∀ n, k.rx n = if n = 1 then l.desc.getD 13 0 else if n = 2 then l.desc.getD 14 0 else if n = 3 then l.desc.getD 15 0
      else if n = 4 then BitVec.ofNat 64 tile else 0) ∧
    (∀ m, k.rsr m = if m = 0x082 then (l.desc.getD 1 0) &&& sysMask 0x082 else if m = 0x084 then map else if m = 0x160 then l.id
      else if m = 0x161 then BitVec.ofNat 64 (tile + if g then 2 ^ 16 else 0) else if 0x050 ≤ m ∧ m < 0x060 then BitVec.ofNat 64 (l.bunit * 2 ^ 58)
      else if 0x140 ≤ m ∧ m < 0x150 then c.rsr m else if 0x0C9 ≤ m ∧ m < 0x0CF then 16 else if m = 0x0C6 then 0x200 else 0) ∧
    (∀ n, k.rv n = [] ∧ k.rk n = 0 ∧ k.rLatch n = [] ∧ k.rRes n = [] ∧ k.chan n = [] ∧ (k.token n).pend = false) ∧
    k.pipe = [] ∧ k.queues = [[], [], [], []] ∧ k.mx = {} ∧ k.handler = false)

/-- R141, R334, R336, R337, R346, R381, R403: the launches that pre-emption asks to stop run in this partition, for at least a slice, and come after the one that waits; a
cancel ends a launch that has not started and asks a running one, with its exact tiles, to stop; a core that is asked stops at its waymark, and one that does not come to a
waymark in time stops at once. A launch that is killed ends with KILLED and nothing of its cores goes on. Which launches are asked is the model's reading (log entries 43
and 51), and so is what a waymark is that its image does not list (log entry 44). -/
def Obligations.LaunchesStop : Prop :=
  ∀ (s : State),
    (∀ l, s.cur.i < 16 → s.firstOf s.cur.i = some l →
      let p := s.cur.i
      let ctl := s.rw (ppage p 0x1808)
      let may (v : Launch) : Bool := v.part == p && v.preemptible && !s.keepsOn v && decide (v.sliceAt + getF ctl 0 16 * 1000 ≤ s.time.toNat) &&
        (decide (s.prioOf v < s.prioOf l) || (bitN ctl.toNat 16 && s.prioOf v == s.prioOf l))
      (∃ vs, exec .sliceEnd s = .next (vs.foldl (fun s v => s.request v.key 0xA7) s) ∧ (∀ v ∈ vs, v ∈ s.launches ∧ may v = true) ∧
        (getF ctl 0 16 = 0 ∨ (l.placement (s.freeCores p)).isSome = true ∨ s.mayDispatch p = false → vs = [])) ∧
      (∀ v, getF ctl 0 16 ≠ 0 → s.mayDispatch p = true → l.placement (s.freeCores p) = none → s.launches.filter may = [v] → (∀ w ∈ s.launches, w.stopReq ≠ 0xA7) →
        (l.placement (s.freeCores p ++ v.cores.filter fun c => (s.placeCores p).contains c && !s.quarantined c)).isSome = true →
        exec .sliceEnd s = .next (s.request v.key 0xA7))) ∧
    (∀ (key cause c : Nat), c < nCores → ((s.core c).run = .running → (s.core c).launch = some key →
      ((s.request key cause).core c) = { s.core c with wmStop := cause, wmCount := 0 }) ∧
      ((s.core c).launch ≠ some key → (s.request key cause).core c = s.core c) ∧ (s.request key cause).mem = s.mem) ∧
    (∀ p v, p < 16 →
      let named (l : Launch) : Bool := l.part == p && l.parent.isNone && l.id == v && l.st != .ending
      let due (h : Happening) : Bool := h.act == .launchDispatch && h.cur.i == p
      (s.launches.find? named = none → exec (.lqCancelWrite p v) s = .next s) ∧
      (∀ l, s.launches.find? named = some l →
        (∀ f, s.turn.any due = true → s.firstOf p = some f → f.key ∈ s.family l.key →
          exec (.lqCancelWrite p v) s = .next ((State.dispatchFirst { s with turn := s.turn.filter fun h => !due h } p).cancel l.key)) ∧
        (s.turn.any due = false ∨ (∀ f, s.firstOf p = some f → f.key ∉ s.family l.key) → exec (.lqCancelWrite p v) s = .next (s.cancel l.key)))) ∧
    (∀ l, s.launch l.key = some l →
      (l.st = .waiting ∨ l.st = .ready → s.family l.key = [l.key] → s.cancel l.key =
        ((s.killPlaces l).dropKids l.key).modLaunch l.key fun l => { l with st := .ending, status := 1, tiles := [], nextTile := l.ntiles }) ∧
      (l.places = [] → s.killPlaces l = s.modLaunch l.key fun l => { l with places := [] }) ∧
      (∀ e q, l.places = [e] → e.2.allCmds = [q] → s.killPlaces l = (s.killKept l e q).modLaunch l.key fun l => { l with places := [] }) ∧
      (∀ e q, q.phase < 2 → s.killKept l e q = (s.lastSteps (l.placeCtx e q) (Cmd.ends { q with kill := true, paused := false, pauseCause := 0 } 7)).1) ∧
      (l.st = .ending → s.cancel l.key = s) ∧
      (l.st = .running → s.family l.key = [l.key] → s.cancel l.key = s.request l.key 0x8B) ∧
      (∀ m, l.st = .running → s.family l.key = [l.key, m.key] → m.key ≠ l.key → s.launch m.key = some m → m.st = .ready →
        s.cancel l.key = (s.request l.key 0x8B).modLaunch m.key fun m => { m with stopReq := 0x8B })) ∧
    (s.cur.core < nCores → s.me.wmStop = 0x8B → s.me.launch ≠ none → getF (s.rw (ppage s.me.part 0x1808)) 32 21 < s.me.wmCount →
      ∃ t, exec .cancelTimeout s = .next t ∧ t = { s with cores := t.cores, launches := t.launches } ∧
        t.core s.cur.core = { s.me with wmStop := 0, wmCount := 0, ext := s.me.ext ++ [0x8B] }) ∧
    (∀ l, s.cur.core < nCores → s.me.wmStop ≠ 0 → s.me.run = .running → s.me.handler = false → s.launchOf s.cur.core = some l →
      ∀ e u, s.liveAt l (l.imageOf s.cur.core) s.cur.core s.me.pc = (e, u) →
        (e = .ok none → exec .waymarkStop s = .next (u.passWaymark s.cur.core)) ∧ (e ≠ .ok none → exec .waymarkStop s = .next (u.stopAtWaymark s.cur.core))) ∧
    (∀ l, s.cur.core < nCores → bitN (s.me.rsr 0x198).toNat 2 = false → s.launchOf s.cur.core = some l → l.save ≠ 0 → s.me.wmStop < 256 →
      let t := s.stopAtWaymark s.cur.core
      OnlyCore s t s.cur.core ∧
        let k := t.core s.cur.core
        k.run = .saving 0 0 ∧ k.wmStop = 0 ∧ k.wmCount = 0 ∧ k.pc = s.me.pc ∧ getF (k.rsr 0x100) 0 8 = s.me.wmStop ∧ k.stopAt = s.time ∧
        (∀ n, k.rx n = s.me.rx n) ∧ (∀ n, k.rv n = s.me.rv n) ∧ k.spm = s.me.takeRemote.spm ∧ k.acc = s.me.acc) ∧
    (∀ id, s.cur.i < 16 → exec (.launchKill id) s =
      .next ((s.launches.filter fun l => l.part == s.cur.i && l.parent.isNone && l.id == id).foldl (fun s l => s.killLaunch l.key) s)) ∧
    (∀ l, s.launch l.key = some l → s.family l.key = [l.key] → l.cores = [] → l.places = [] → (∀ r ∈ s.reds, r.launch ≠ some l.key) → (∀ r ∈ s.colls, r.launch ≠ some l.key) →
      s.killLaunch l.key = s.modLaunch l.key fun l => if l.hashed then { l with places := [] } else { l with st := .ending, status := 3, tiles := [], nextTile := l.ntiles, places := [] }) ∧
    (∀ c, c < nCores → (s.core c).chans = [] → (∀ r ∈ s.reds, r.core ≠ c) → (∀ r ∈ s.colls, r.core ≠ c) →
      OnlyCore s (s.killContext c) c ∧ let k := (s.killContext c).core c
      k.run = .ended ∧ k.pipe = [] ∧ k.handler = false ∧ k.ext = [] ∧ (∀ n, k.rx n = (s.core c).rx n) ∧ ∀ g ∈ k.groups, g.st = 0 ∧ g.held = [])

/-- R361, R362, R363: the save engine: an in-place save, one that must wait for the commands, one without a save area, which holds its core, and one that is made once
the words of the core's memories have been verified (R79); SAVE.RETRY lets the held saves of its partition go on; CTX.RESTORE of an area that is not a committed save of a
stopped core of the partition is refused, and restores it else. R365: a full restore puts back the registers, the accumulator, the memories and the level, and the core
runs on from the area's RPOINT with its records staged; the end of a handler puts back what its in-place area holds. R354, R355, R365: once it runs on, every operation of a
record is reissued: one that has its result lands as it would have, a load reads again. R366, R367: an area that cannot be used leaves the core saved, and says why. Where an
area may lie, and whose it is, is the model's reading (log entries 35, 42 and 116). -/
def Obligations.TheSaveEngine : Prop :=
  ∀ (s : State),
    (s.cur.core < nCores →
      let c := s.cur.core
      (s.me.run = .saving 2 0 → exec .contextSaveDone s = .next (s.stopInPlace c)) ∧
      (s.me.run = .saving 1 0 → s.me.quiet = false → exec .contextSaveDone s = .next s) ∧
      (s.me.run = .saving 1 0 → s.me.quiet = true → s.me.launch = none → getF (s.rw (stopLog (some s.me.part))) 3 45 = 0 → getF (s.rw (stopLog none)) 3 45 = 0 →
        ∃ t, exec .contextSaveDone s = .next t ∧ OnlyCore s t c ∧ t.core c = { s.me with run := .saving 1 1 }) ∧
      (∀ a t n m, s.me.run = .saving 1 0 → s.me.quiet = true → s.saveArea c = (.ok (some a), t) → t.loadArea (.phys s.me.part c) a 8 = (.ok m, n) →
        0x790000 + s.me.recordBlob.1 ≤ numAt m 0 8 → ∀ w, n.saveTo c 1 (.phys s.me.part c) a fullArrays (s.fullParts c) = (none, w) →
        let saved := ((w.modCore c fun k => { k with savedAt := a }).stopEntry c 1 a 0 s.me.rootTakes).savedFull c
        exec .contextSaveDone s = .next (match s.me.launch with | some key => saved.settleSaved key | none => saved)) ∧
      (∀ v : State, (v.savedFull c).core c = { v.core c with run := .saved 1, pipe := [] }) ∧
      fullArrays = [(0, 0, 0x400000), (1, 0, 0x80000)]) ∧
    (∀ (c form : Nat) (w : Area) (a : Nat) (arrays : List (Nat × Nat × Nat)) (parts : List (Nat × Blob)) (u v : State),
      let recs := (s.core c).recordBlob
      let h := s.areaHead c form recs
      s.storeArea w (a + 8) (h.commit false) = (none, u) →
      (u.readSaved c arrays = (false, v) → s.saveTo c form w a arrays parts = (some 0x91, v)) ∧
      (u.readSaved c arrays = (true, v) → s.saveTo c form w a arrays parts =
        v.storeParts w a (parts ++ [(0x10, v.headBlob c h), ((if form = 2 then 0x78000 else 0x790000), recs), (8, h.commit true)]))) ∧
    (s.cur.i < 16 → ∃ t, exec .saveRetryWrite s = .next t ∧ t = { s with cores := t.cores } ∧ ∀ c,
      ((s.core c).part ≠ s.cur.i → t.core c = s.core c) ∧
      (∀ form, (s.core c).part = s.cur.i → (s.core c).run = .saving form 2 → t.core c = { s.core c with run := .saving form 0 })) ∧
    (∀ p v, p < 16 →
      let a := getF v 16 32 * 65536
      let base := v &&& (maskHL 6 0 ||| maskHL 47 16)
      let refused (u : State) : State := u.ww (ppage p 0x4010) (base ||| maskHL 49 49)
      (∀ k u, s.loadArea (.phys p 0xFF) a 0x60 = (.error k, u) → exec (.ctxRestoreWrite p v) s = .next (refused u)) ∧
      (∀ h u, s.loadArea (.phys p 0xFF) a 0x60 = (.ok h, u) →
        (u.savedIn p a (numAt h 0x50 1 % 128) = none → exec (.ctxRestoreWrite p v) s = .next (refused u)) ∧
        (∀ q l, u.savedIn p a (numAt h 0x50 1 % 128) = some q → u.launchOf q = some l →
          (bitN (numAt h 8 1) 0 = false → exec (.ctxRestoreWrite p v) s = .next (refused u)) ∧
          (bitN (numAt h 8 1) 0 = true → getF v 0 7 = q → exec (.ctxRestoreWrite p v) s = .next ((u.ww (ppage p 0x4010) base).restoreFull q q a l).2) ∧
          (bitN (numAt h 8 1) 0 = true → getF v 0 7 ≠ q → (u.core (getF v 0 7)).run = .free → (u.coresOf p).contains (getF v 0 7) = true → u.quarantined (getF v 0 7) = false →
            exec (.ctxRestoreWrite p v) s = .next (if l.shape = 0 then ((u.ww (ppage p 0x4010) base).restoreFull q (getF v 0 7) a l).2 else refused u)))) ∧
      (∀ c n, c < nCores → (s.core c).run = .saved 1 → (s.core c).part = p → (s.core c).savedAt = a → (∀ d, d ≠ c → (s.core d).savedAt ≠ a) → s.savedIn p a n = some c)) ∧
    (∀ (c a : Nat) (l : Launch), c < nCores →
      let w : Area := .phys l.part c
      let no (t : State) (st : Stop) : State := t.modCore c fun k => k.report st
      (∀ n t, s.readArea w a 0x790000 0xFFFFFFFF = (.error (.bad n), t) → s.restoreFull c c a l = (false, no t { cause := 0xA5, detail := n % 65536 })) ∧
      (∀ k ad t, s.readArea w a 0x790000 0xFFFFFFFF = (.error (.again k ad), t) → s.restoreFull c c a l = (false, no t { cause := k, addr := ad })) ∧
      (∀ h rs t ps u v, s.readArea w a 0x790000 0xFFFFFFFF = (.ok (h, rs), t) → t.loadList w a fullReads = (.ok ps, u) →
        u.storeArea w (a + 8) (numBlob 8 (numAt h 8 8 / 2 * 2)) = (none, v) →
        s.restoreFull c c a l = (true, ((v.modCore c fun k => k.setFull ps (v.launchLevel l)).runOn c h rs).stopEntry c 4 a 0 false) ∧
        let r := (v.modCore c fun k => k.setFull ps (v.launchLevel l)).runOn c h rs
        let k := r.core c
        OnlyCore v r c ∧ k.run = .running ∧ k.wdStart = v.time.toNat ∧ k.staged = true ∧ k.resuming = true ∧
        k.pc = codeAddr (numAt h 0x10 8) ∧ k.icache = [] ∧
        (∀ n, k.rx n = if n = 0 ∨ 64 ≤ n then 0 else wordAt (ps.getD 1 []) (8 * n)) ∧
        (∀ n, k.rv n = if n < 256 then elemsOf (slice (ps.getD 6 []) (4096 * n) 4096) else []) ∧
        k.acc = elemsOf (ps.getD 7 []) ∧ k.spm = ps.getD 8 [] ∧ k.lane = ps.getD 9 [] ∧
        k.handler = bitN (numAt (ps.getD 0 []) (8 * 0x100) 8) 8 ∧ k.level = (if k.handler then .partition else v.launchLevel l) ∧
        (∀ q ∈ k.allCmds, q.suspended = false))) ∧
    (∀ (k : Core) (ps : List (Sparse Byte)), (∀ e ∈ ps.getD 6 [], e.1 < 0x10000) → let m := k.leave ps
      m.handler = false ∧ m.level = k.hlevel ∧ (∀ n, m.rx n = if 56 ≤ n ∧ n < 64 then wordAt (ps.getD 2 []) (8 * (n - 56)) else k.rx n) ∧
      (∀ n, m.rv n = if 248 ≤ n ∧ n < 256 then elemsOf (slice (ps.getD 5 []) (4096 * (n - 248)) 4096) else k.rv n) ∧
      (∀ e, Sparse.get 0 m.spm e = if 0x2F0000 ≤ e ∧ e < 0x300000 then Sparse.get 0 (ps.getD 6 []) (e - 0x2F0000) else Sparse.get 0 k.spm e) ∧
      m.acc = k.acc ∧ m.lane = k.lane ∧ m.mx = k.mx ∧ m.queues = k.queues ∧ m.pipe = k.pipe ∧ m.chans = k.chans ∧ m.tokens = k.tokens) ∧
    (∀ c, c < nCores → bitN ((s.core c).rsr 0x198).toNat 4 = false →
      let t := s.reissueAll c
      let k := t.core c
      ((s.core c).pipe = [] → OnlyCore s t c ∧ k.pipe = [] ∧ k.staged = false ∧ k.freeze = 0 ∧ k.resuming = ((s.core c).handler && (s.core c).owed) ∧
        k.run = (if (if (s.core c).handler then (s.core c).hadDone else (s.core c).hadEnded) then .ended else .running) ∧ k.wdStart = s.time.toNat ∧
        k.keptH = [] ∧ k.kept = if (s.core c).handler then (s.core c).kept else []) ∧
      (∀ o, (s.core c).pipe = [o] → (o.act = none ∨ ∃ i, o.act = some i ∧ i.kind ≠ some .mx ∧ i.kind ≠ some .sc ∧ i.kind ≠ some .mem ∧ (∀ x, i ≠ .apRd x) ∧
          i ≠ .gsend ∧ (∀ a, i ≠ .gsres a) ∧ ∀ d n, i ≠ .srrd d n) →
        ∃ p, k.pipe = [p] ∧ p = { o with root := p.root, tag := p.tag, wit := p.wit, gst := p.gst }) ∧
      (∀ o i f, (s.core c).pipe = [o] → o.act = some i → memForm i = some f → f.acc = .load → s.accessCheck c i f (BitVec.ofNat 64 o.va) (o.vs.getD 0 []) = none →
        (f.sp = .glb → ∃ p, k.pipe = [p] ∧ p.id = o.id ∧ p.act = some i ∧ p.va = o.va ∧ p.land = o.land ∧ p.phase = .walk (s.wall + Config.freeDelay s.freeCtr)) ∧
        (f.sp = .spm → s.strikes = [] → ∃ p, k.pipe = [p] ∧ p.id = o.id ∧ p.act = some i ∧ p.land = o.land ∧ p.got = (s.core c).detRead i f (BitVec.ofNat 64 o.va) (o.vs.getD 0 []))))

/-- R286, R293, R339, R343, R346, R394, R430: a launch whose cores have ended goes to ENDING and, its commands over and its writes to the hosts performed, completes with its
record and its ring; a tile is decided once its cores are over: it passes, and its groups commit, or fails, its groups abort and an exact tile of its number is made;
its cores are free once their commands are complete; the pool's turn ends in a choice of the next partition, and passes to it when nothing of the holder runs;
the pages of a hashed launch are digested. When the writes to the hosts have performed, the verdict's moment and the digest are the model's (log entries 101 and 52, and 16,
PRESUMED). -/
def Obligations.LaunchesComplete : Prop :=
  ∀ (s : State),
    (∀ l, s.launch s.cur.i = some l → l.st = .ending → l.hashed = false →
      (s.cmdsOver l = false → exec .launchDone s = .next s) ∧
      (s.cmdsOver l = true →
        (l.confirm = none ∧ l.start = 0 ∨ (∃ d, l.confirm = some d ∧ d ≤ s.wall) → exec .launchDone s = .next (s.finish l)) ∧
        (∀ d, l.confirm = some d → s.wall < d → exec .launchDone s = .next s) ∧
        (l.confirm = none → l.start ≠ 0 →
          let d := Config.freeDelay s.freeCtr
          let t := s.tickFree.modLaunch l.key fun l => { l with confirm := some (s.wall + d) }
          exec .launchDone s = .next (if d = 0 then t.finish l else t)))) ∧
    (∀ l : Launch, let freed := s.letGo l l.cores
      (l.parent.isSome = true → s.finish l = freed.dropLaunch l.key) ∧
      (l.parent = none → l.pages = [] → s.finish l = ((freed.completionRecord l).completionRing l).dropLaunch l.key)) ∧
    (∀ (l : Launch) (cores : List Nat), (∀ c ∈ cores, c < nCores) → let t := s.letGo l cores
      (∀ c, t.core c = if c ∈ cores then (s.core c).bare else s.core c) ∧ (∀ c, (s.core c).bare.run = .free) ∧
      t = { s with cores := t.cores, launches := t.launches } ∧
      ∀ m ∈ s.launches, m.key = l.parent.getD l.key → ∃ m' ∈ t.launches, m' = { m with away := m'.away } ∧
        ∀ c, c ∈ m'.away ↔ c ∈ m.away ∨ (c ∈ cores ∧ c ∉ s.placeCores l.part)) ∧
    (∀ l, s.launch s.cur.i = some l → l.st = .running → s.launchOver l = true → l.kind ≠ 2 → (∀ c ∈ l.cores, (s.core c).run = .ended) →
      let l' : Launch := { l with st := .ending, status := if l.unmade then 5 else 0 }
      let t := (s.dropKids l.key).modLaunch l.key fun _ => l'
      t.cmdsOver l' = false → exec .launchDone s = .next t) ∧
    (∀ l, s.launch s.cur.i = some l → l.st = .running → s.launchOver l = false → exec .launchDone s = .next s) ∧
    (∀ l : Launch,
      let cq := s.rw (lqCq l.part l.q)
      let n := Sparse.get 0 s.cqCount (l.part * 64 + l.q)
      let s₁ : State := { s with cqCount := Sparse.set 0 s.cqCount (l.part * 64 + l.q) (n + 1) }
      let words : List Byte := bytesLE 8 l.id.toNat ++ bytesLE 8 ((BitVec.ofNat 64 (l.status + b2n l.late * 2 ^ 8 + l.fallback * 2 ^ 16) : Word).toNat) ++
        bytesLE 8 ((BitVec.ofNat 64 l.start : Word).toNat) ++ bytesLE 8 s.time.toNat
      let a := getF cq 5 43 * 32 + 32 * (n % 2 ^ getF cq 48 4)
      (∀ u, s₁.agentWrite (some l.part) a words = (true, u) → s.completionRecord l = u.irq l.part l.q) ∧
      (∀ u, s₁.agentWrite (some l.part) a words = (false, u) → s.completionRecord l = u.agentFault a 3 l.part none)) ∧
    (∀ l t, s.launch s.cur.i = some l → l.tiles.find? (fun t => t.n == s.cur.j) = some t → exec .gsVerdict s =
      .next (if l.st = .running ∧ ∀ c ∈ t.cores ++ t.rcores, s.coreOver c = true then s.decide_ l t else s)) ∧
    (∀ c, s.coreOver c = true ↔ (s.core c).run = .ended ∧ (s.core c).pipe = []) ∧
    (∀ (l : Launch) (t : Tile), s.launch l.key = some l → l.parent = none →
      let cores := t.cores ++ t.rcores
      let holds : Prop := ∀ c ∈ cores, ((s.core c).groups.getD 0 {}).st = 1 ∧ ((s.core c).groups.getD 0 {}).spilt = false
      let pass : Prop := t.got = true ∧ (f32 t.r).isNan = false ∧ withinTol t.r ((s.rp l.part (0x168 + l.rtol)).setWidth 32) = true ∧ holds
      let u := s.decide_ l t
      let v := if pass then cores.foldl (fun s c => s.commitGroup c 0) s else cores.foldl (fun s c => s.modCore c fun k => k.dropGroup 0 2) s
      let gone (c : Nat) : Bool := cores.contains c && v.cmdsDone c
      (pass → u.rp l.part 0x170 = addSat (v.rp l.part 0x170) 1 ∧ u.mem = v.mem ∧ u.launches.length = v.launches.length) ∧
      (¬ pass → u.rp l.part 0x171 = addSat (s.rp l.part 0x171) 1 ∧ u.mem = s.mem ∧
        (l.stopReq = 0x8B → u.launches.length = s.launches.length) ∧
        (l.stopReq ≠ 0x8B → ∃ e, u.launches.getLast? = some e ∧ u.launches.length = s.launches.length + 1 ∧ u.nextKey = s.nextKey + 1 ∧ e.key = s.nextKey ∧ e.st = .ready ∧
          e.parent = some l.key ∧ e.exactTile = t.n ∧ e.part = l.part ∧ e.cores = [] ∧ e.desc.length = 16 ∧ e.kind = 0 ∧ e.w 0 = l.w 12 ∧ e.w 11 = 0 ∧ e.w 12 = 0 ∧
          ∀ i, i < 16 → i ≠ 0 → i ≠ 2 → i ≠ 11 → i ≠ 12 → e.desc.getD i 0 = l.desc.getD i 0)) ∧
      (∀ c ∈ cores, c < nCores → gone c = true → (u.core c).run = .free) ∧
      (∀ c, c ∉ cores → ¬ pass → u.core c = s.core c) ∧
      (∀ c, ¬ pass → c < nCores → c ∈ cores → gone c = false → ((u.core c).groups.getD 0 {}).held = [] ∧ ((u.core c).groups.getD 0 {}).last = 2) ∧
      (∀ m, v.launch l.key = some m → ∃ n, u.launch l.key = some n ∧ n.tiles = m.tiles.filter (fun x => x.n != t.n) ∧
        n.cores = m.cores.filter (fun c => !gone c) ∧ (pass → n.fallback = m.fallback) ∧ (¬ pass → n.fallback = min 65535 (m.fallback + 1)))) ∧
    (∀ n, s.poolNext = some n → exec .poolTurnEnd s =
      .next (if s.partEN n = false ∨ s.partSliced n = false then { s with poolNext := none }
        else if s.poolIdle = true ∨ s.active s.poolHolder = false then { s.passPool n with poolNext := none } else s)) ∧
    (s.poolIdle = true ↔ ∀ l ∈ s.launches, l.part = s.poolHolder → l.st = .ready ∨ l.hashed = true) ∧
    (s.poolNext = none → s.nextHolder = none → exec .poolTurnEnd s = .next (if s.turnOver then { s with poolStart := s.time.toNat } else s)) ∧
    (∀ n, s.poolNext = none → s.nextHolder = some n →
      (s.poolHeld = false ∨ s.active s.poolHolder = false → exec .poolTurnEnd s = .next (s.passPool n)) ∧
      (s.poolHeld = true → s.active s.poolHolder = true → exec .poolTurnEnd s = .next (if s.turnOver then s.endTurn n else s))) ∧
    (∀ n, (n < 16 → (s.passPool n).poolHolder = n) ∧ (s.passPool n).poolStart = s.time.toNat ∧ (s.endTurn n).poolNext = some n) ∧
    (∀ l, s.launch s.cur.i = some l → exec .pageHash s = .next (if l.hashed then
      ((List.range l.pages.length).foldl (fun s k => s.hashEntry l k (l.pages.getD k 0)) s).dropLaunch l.key else s)) ∧
    Sm3.digest [0x61, 0x62, 0x63] = [0x66, 0xC7, 0xF0, 0xF4, 0x62, 0xEE, 0xED, 0xD9, 0xD1, 0xF2, 0xD4, 0x6B, 0xDC, 0x10, 0xE4, 0xE2,
      0x41, 0x67, 0xC4, 0x87, 0x5C, 0xF2, 0xF7, 0xA2, 0x29, 0x7D, 0xA0, 0x2B, 0x8F, 0x4B, 0xA8, 0xE0]

/-! ## Root and the partitions -/

/-- R374, R379, R381, R388, R391, R392, R393, R409, R416: what a write of root's registers leaves: the bits that the register's map lets a write change, by a context of the
level that it asks for; a write of a partition's mask or the pool's while the partition is not clean is refused and changes nothing else. What makes a partition clean
is the model's reading (log entry 55). -/
def Obligations.RegisterWritesOfTheWindow : Prop :=
  ∀ (s : State) (v : Word),
    (∀ off l r w, winReg off = some r → r.wr = some w →
      (l.reaches w = false → exec (.registerWrite off l v) s = .next s) ∧
      (0x10000000 ≤ off → ¬ (0x10008000 ≤ off ∧ off < 0x10008400 ∧ off % 64 = 0x28) → off ≠ 0x1000B800 → l.reaches w = true →
        ∃ t, exec (.registerWrite off l v) s = .next t ∧ RegsSet s t [(off, (s.rw off &&& ~~~r.mask) ||| (v &&& r.mask))])) ∧
    exec (.timeSetWrite v) s = .next { s with time := v, frac := 0 } ∧
    (∀ off r, rootReg off = some r → off ≠ 0xB000 →
      ∃ t, exec (.rootlinkRegWrite off v) s = .next t ∧ RegsSet s t (if s.aperClean
        then [(rpage off, (s.rw (rpage off) &&& ~~~r.mask) ||| (v &&& r.mask)), (rpage 0xB000, setF (s.rw (rpage 0xB000)) 7 1 0)]
        else [(rpage 0xB000, setF (s.rw (rpage 0xB000)) 7 1 1)])) ∧
    (∀ p, p < 16 →
      let ctl := rpage (0x8000 + 64 * p)
      let old := s.rw ctl
      let new := (old &&& ~~~(0xFF : Word)) ||| (v &&& 0xFF)
      let other : Prop := ∀ q, q < 16 → q ≠ p → ¬ (s.partEN q = true ∧ bitN new.toNat 0 = true ∧ s.partFN q = getF new 2 4)
      (getF old 0 2 ≠ getF v 0 2 → s.clean p = false → ∃ t, exec (.partCtlWrite p v) s = .next t ∧ RegsSet s t [(ctl, setF old 9 1 1)]) ∧
      (getF old 0 2 = getF v 0 2 → s.fnUnique = true → other → ∃ t, exec (.partCtlWrite p v) s = .next t ∧ RegsSet s t [(ctl, setF new 9 1 0)]) ∧
      (∀ m, m < 2 → s.clean p = false → ∃ t, exec (.partCoresWrite p m v) s = .next t ∧ RegsSet s t [(ctl, setF old 9 1 1)]) ∧
      (∀ m, m < 2 → s.clean p = true → let u := s.ww (rpage (0x8008 + 64 * p + 8 * m)) v
        u.disjoint = true → u.fnUnique = true → u.rootOk = true →
        ∃ t, exec (.partCoresWrite p m v) s = .next t ∧ RegsSet s t [(rpage (0x8008 + 64 * p + 8 * m), v), (ctl, setF old 9 1 0)])) ∧
    (∀ m, m < 2 → let u := s.ww (rpage (0x9810 + 8 * m)) v
      let ok : Prop := (∀ p, p < 16 → s.partEN p = true → s.partSliced p = true → s.clean p = true) ∧ u.disjoint = true
      (ok → ∃ t, exec (.poolCoresWrite m v) s = .next t ∧ RegsSet s t [(rpage (0x9810 + 8 * m), v), (rpage 0x9820, setF (s.rw (rpage 0x9820)) 20 1 0)]) ∧
      (¬ ok → ∃ t, exec (.poolCoresWrite m v) s = .next t ∧ RegsSet s t [(rpage 0x9820, setF (s.rw (rpage 0x9820)) 20 1 1)])) ∧
    (∀ m, m < 2 → (∀ c, c < 128 → (s.core c).fullStopped = false) →
      ∃ t, exec (.coreQuarantineWrite m v) s = .next t ∧ RegsSet s t [(rpage (0x9800 + 8 * m), v)]) ∧
    (∀ n, n < nCores → ∃ t d, exec (.marginOfsWrite n v) s = .next t ∧ d ≤ 38000 ∧ 0 < d ∧ t.core n = { s.core n with marginDue := s.wall + d } ∧
      t = { s with win := t.win, cores := t.cores, freeCtr := s.freeCtr + 1 } ∧
      ∀ o, t.rw o = if o = rpage (0x9000 + 8 * n) then setF ((s.rw o &&& ~~~(0xF : Word)) ||| (v &&& 0xF)) 8 1 1 else s.rw o) ∧
    (∀ n, n < nCores → ∃ t, exec (.replayCtlWrite n v) s = .next t ∧ t.core n = { (s.core n).wsr 0x142 0 with replayStart := s.time.toNat } ∧
      t = { s with win := t.win, cores := t.cores } ∧
      ∀ o, t.rw o = if o = rpage (0x9400 + 8 * n) then (s.rw o &&& ~~~(0xFFFFFFFF : Word)) ||| (v &&& 0xFFFFFFFF) else s.rw o) ∧
    (s.cur.core < nCores → exec .marginSettled s = .next (if s.me.marginDue ≤ s.wall then s.wwF (rpage (0x9000 + 8 * s.cur.core)) 8 1 0 else s))

/-- R362, R384, R385, R390, R398, R408, R430, R441: an entry of a log that is set up and can be written: its words stand at its place, the counter has one more, and the owner
gets its vector; an entry that cannot be made takes no place and is reported. A word that may not be posted is not; a kick starts the heartbeat period. When a timer starts
is the model's reading (log entries 59 and 60). -/
def Obligations.LogsAndMessages : Prop :=
  ∀ (s : State) (p : Option Nat) (reg vec : Nat) (ws : List Word) (pc : Nat) (u w : State),
    let base := getF (s.rw reg) 3 45 * 8
    let n := Sparse.get 0 s.logCount reg
    let place := base + 8 + 32 * (n % 2 ^ getF (s.rw reg) 48 4)
    let data : List Byte := ws.flatMap fun w => bytesLE 8 w.toNat
    let told (v : State) : State := if getF (v.rw reg) 3 45 = 0 then v else v.irq (p.getD 0) vec
    (base = 0 → s.log p reg vec ws = s) ∧
    (base ≠ 0 → s.logStore p reg place data = (none, u) →
      let u₁ : State := { u with logCount := Sparse.set 0 u.logCount reg (n + 1) }
      u₁.logAt p reg { r := true, w := true } base = .ok pc → (u₁.logMeet p reg base pc 0).ringAddMain false pc 1 6 0xFF = some w → s.log p reg vec ws = told w) ∧
    (∀ x, base ≠ 0 → s.logStore p reg place data = (some x, u) →
      s.log p reg vec ws = ((told u).agentFault x.addr 5 (p.getD 0) (some reg)).agentMet p x.met) ∧
    (∀ a pa, 0 < data.length → a % 65536 + data.length ≤ 65536 → s.logAt p reg { w := true } a = .ok pa → (s.logMeet p reg a pa data.length).putParts false pa data = (none, u) →
      s.logStore p reg a data = (none, u)) ∧
    (∀ q v, q < 16 → let t := getF v 0 8
      let may : Prop := (1 ≤ t ∧ t ≤ 4) ∨ 64 ≤ t
      let entry (whom : Option Nat) (frm root : Nat) : State := s.log whom (pmqLog whom) 65 [v, BitVec.ofNat 64 (frm + 16 * root), s.time,
        BitVec.ofNat 64 (Sparse.get 0 s.logCount (pmqLog whom) % 2 ^ 32)]
      (¬ may → exec (.pmqPostWrite q v) s = .next s ∧ exec (.pmqSendWrite q v) s = .next s) ∧
      (may → exec (.pmqPostWrite q v) s = .next (entry none q 0) ∧ exec (.pmqSendWrite q v) s = .next (entry (some q) s.rootPart 1))) ∧
    (s.cur.i < 16 → exec .hbKickWrite s = .next { s with hbStart := Sparse.set 0 s.hbStart s.cur.i s.time.toNat }) ∧
    (s.cur.i < 16 → exec .heartbeat s = .next (if s.hbPeriod s.cur.i ≠ 0 ∧ Sparse.get 0 s.hbStart s.cur.i + s.hbPeriod s.cur.i ≤ s.time.toNat
      then s.missBeat s.cur.i (relWords s 0 5 0 0 s.cur.i false 1) else s))

/-- R87, R110, R111, R112, R118, R395, R397, R400, R404, R407: a way unit is owned or free at once where it was free, drained where it was owned, and scrubbed where it is a
clearing unit; a draining one keeps what it is given until its drain ends; a pass of the drain writes dirty lines back; a scrub leaves zeros; a block is given, kept, or scrubbed, and one that is being scrubbed is refused; an
epoch clears the counters of the partition's pages. A function's reset kills its partition's launches, and once their commands are over scrubs its blocks, takes its
ways' lines and clearing bytes away, and sets its page as after reset, but for SCHED.CTL; RESET_DONE follows the last scrub. Passes, scrubs and resets at one event, and what they leave, are the model's (log entries 54, 56, 57 and 58). -/
def Obligations.WaysAndBlocksChangeHands : Prop :=
  ∀ (s : State) (v : Word),
    (∀ n, n < 1536 →
      let old := s.wu n
      let w := setF ((old &&& ~~~(0x3F : Word)) ||| (v &&& 0x3F)) 14 1 0
      (WuCtl.use old = false → WuCtl.use w = false → WuCtl.state old = 0 → Sparse.get none s.wuNext n = none → ∃ t, exec (.wuCtlWrite n v) s = .next t ∧
        (∀ o, t.rw o = if o = rpage (8 * n) then (if WuCtl.assign w then setF (setF w 12 2 1) 8 4 (WuCtl.owner w) else setF (setF w 12 2 0) 8 4 (WuCtl.cur w)) else s.rw o) ∧
        t = { s with win := t.win, wuDue := t.wuDue, drainPass := t.drainPass, wuNext := t.wuNext }) ∧
      (WuCtl.use old = false → WuCtl.use w = false → WuCtl.state old = 2 → ∃ t, exec (.wuCtlWrite n v) s = .next t ∧
        t = { s with win := t.win, wuNext := Sparse.set none s.wuNext n (some (v &&& 0x1F)) } ∧ ∀ o, t.rw o = if o = rpage (8 * n) then setF old 14 1 0 else s.rw o) ∧
      (WuCtl.use old = false → WuCtl.use w = false → WuCtl.state old = 1 → WuCtl.owner w ≠ WuCtl.owner old ∨ WuCtl.assign w ≠ WuCtl.assign old →
        ∃ t, exec (.wuCtlWrite n v) s = .next t ∧ WuCtl.state (t.wu n) = 2 ∧ WuCtl.cur (t.wu n) = WuCtl.cur old ∧
          t = { s with win := t.win, wuDue := t.wuDue, drainPass := t.drainPass, freeCtr := s.freeCtr + 1 }) ∧
      (WuCtl.use old = true → WuCtl.state old = 2 → ∃ t, exec (.wuCtlWrite n v) s = .next t ∧ RegsSet s t [(rpage (8 * n), setF old 14 1 1)])) ∧
    (s.cur.i < 1536 → WuCtl.state (s.wu s.cur.i) = 2 → s.linesIn s.cur.i = [] →
      exec .handoverPassEnd s = .next (if WuCtl.use (s.wu s.cur.i) then (s.wuBegin s.cur.i (s.wu s.cur.i) 3).handedOver else (s.wuSettle s.cur.i).handedOver)) ∧
    (∀ l, s.cur.i < 1536 → WuCtl.state (s.wu s.cur.i) = 2 → s.linesIn s.cur.i = [l] → Sparse.get 0 s.drainPass s.cur.i = 1 → l.dirty = true →
      (s.l2.map (·.line)).Nodup → ∃ t, exec .handoverPassEnd s = .next t ∧ t.linesIn s.cur.i = [{ l with dirty := false }] ∧ Sparse.get 0 t.drainPass s.cur.i = 2 ∧
        ∀ a, a / 128 = l.line → Sparse.get 0 t.mem a = Sparse.get 0 l.data (a % 128)) ∧
    (s.cur.i < 1536 → (WuCtl.state (s.wu s.cur.i) ≠ 3 → exec .wayScrubEnd s = .next s) ∧
      (WuCtl.state (s.wu s.cur.i) = 3 → exec .wayScrubEnd s = .next ((s.wipeWay s.cur.i).wuSettle s.cur.i).handedOver) ∧
      ∀ a, Sparse.get 0 (s.wipeWay s.cur.i).clr a = if s.cur.i * 2 ^ 20 ≤ a ∧ a < (s.cur.i + 1) * 2 ^ 20 then 0 else Sparse.get 0 s.clr a) ∧
    (∀ b, b < 768 →
      let reg := rpage (0x6000 + 8 * b)
      let old := s.rw reg
      let w := setF ((old &&& ~~~(0x1F : Word)) ||| (v &&& 0x1F)) 14 1 0
      (getF old 8 2 = 2 ∨ s.populated b = false → ∃ t, exec (.blkCtlWrite b v) s = .next t ∧ RegsSet s t [(reg, setF old 14 1 1)]) ∧
      (getF old 8 2 = 0 → s.populated b = true → ∃ t, exec (.blkCtlWrite b v) s = .next t ∧
        RegsSet s t [(reg, if bitN v.toNat 4 then setF (setF w 8 2 1) 10 4 (getF v 0 4) else w)]) ∧
      (getF old 8 2 = 1 → s.populated b = true → bitN v.toNat 4 = false → bitN v.toNat 5 = false → ∃ t e, exec (.blkCtlWrite b v) s = .next t ∧
        t.scrubs = s.scrubs ++ [e] ∧ e.blk = b ∧ e.keep = false ∧ s.wall < e.due ∧ t.mem = s.mem ∧ t.rw reg = setF w 8 2 2)) ∧
    (s.cur.i < 768 → s.scrubs.find? (fun x => x.blk == s.cur.i) = none → exec .blockScrubEnd s = .next s) ∧
    (∀ x, s.cur.i < 768 → s.scrubs.find? (fun x => x.blk == s.cur.i) = some x → x.keep = false → bitN (s.rw (rpage (0x6000 + 8 * s.cur.i))).toNat 4 = false →
      let t := ({ s with scrubs := s.scrubs.erase x } : State).wipeBlock s.cur.i
      exec .blockScrubEnd s = .next ((t.ww (rpage (0x6000 + 8 * s.cur.i)) (setF (s.rw (rpage (0x6000 + 8 * s.cur.i))) 8 2 0)).pmqHw none 6 s.cur.i) ∧
      ∀ a, Sparse.get 0 t.mem a = if blockBase s.cur.i ≤ a ∧ a < blockBase s.cur.i + 2 ^ 31 then 0 else Sparse.get 0 s.mem a) ∧
    (∀ p, p < 16 →
      let mine (k : Nat) : Bool := (blockOf (65536 * k)).any (s.owns p)
      let epoch (u t : State) : Prop := t = { u with hot := u.hot.filter (fun e => !mine e.1), hotSeen := u.hotSeen.filter (fun k => !mine k)
                                                     atomCnt := u.atomCnt.filter (fun e => !mine e.1), atomCand := u.atomCand.filter (fun e => !mine e.1)
                                                     atomSeen := u.atomSeen.filter (fun k => !mine k), hotStart := Sparse.set 0 u.hotStart p u.time.toNat }
      (∃ t, exec (.memHotCtlWrite p v) s = .next t ∧ epoch (s.wp p 0x086 ((s.rp p 0x086 &&& ~~~sysMask 0x086) ||| (v &&& sysMask 0x086))) t) ∧
      (s.cur.i = p → Sparse.get 0 s.hotStart p + max 1 (getF (s.rp p 0x086) 32 16) * 1000 ≤ s.time.toNat → ∃ t, exec .hotEpochEnd s = .next t ∧ epoch s t)) ∧
    (s.function s.cur.j s.cur.i = none → exec .functionLevelReset s = .next s) ∧
    (s.resetting = true → exec .functionLevelReset s = .next s) ∧
    (∀ p, s.resetting = false → s.function s.cur.j s.cur.i = some p → exec .functionLevelReset s = .next ((s.partReset p).resetCfg (s.partFN p))) ∧
    (∀ p, let k := ((s.blind [p]).launches.filter fun l => l.part == p && l.parent.isNone).foldl (fun s l => s.killLaunch l.key) (s.blind [p])
      s.partReset p = ({ k with fnKill := k.fnKill ++ [p] } : State).settleResets) ∧
    (s.fnKill = [] → s.settleResets = s) ∧
    (∀ p, p < 16 → s.fnKill = [p] → (s.partQuiet p = false → s.settleResets = s) ∧
      (s.partQuiet p = true → (s.endLaunches p).fnKill = [p] → s.settleResets = s.partWipe p)) ∧
    (∀ p b₀, let u := s.endLaunches p
      let t := s.partWipe p
      let lost (n : Nat) : Prop := n < 1536 ∧ WuCtl.state (u.wu n) = 1 ∧ WuCtl.cur (u.wu n) = p
      p < 16 → b₀ < 768 → u.owns p b₀ = true →
      t.fnReset = u.fnReset ++ u.fnKill.filter (· == p) ∧ t.fnKill = u.fnKill.filter (· != p) ∧ (∀ l ∈ t.launches, l.part ≠ p) ∧ t.mem = u.mem ∧
      (∀ x ∈ u.scrubs, x ∈ t.scrubs) ∧ (∀ b, b < 768 → u.owns p b = true → ∃ x ∈ t.scrubs, x.blk = b ∧ x.keep = true) ∧
      (∀ l, l ∈ t.l2 ↔ l ∈ u.l2 ∧ ¬ lost l.wu) ∧
      (∀ a, Sparse.get 0 t.clr a = if lost (a / 2 ^ 20) ∧ WuCtl.use (u.wu (a / 2 ^ 20)) = true then 0 else Sparse.get 0 u.clr a) ∧
      ∀ o, t.rw o = if ppage p 0 ≤ o ∧ o < ppage p 0 + 0x1000000 ∧ o ≠ ppage p 0x1808 then winReset o else u.rw o) ∧
    (∀ p, s.fnReset = [p] → (∀ x ∈ s.scrubs, x.keep = true → s.owns p x.blk = false) → s.resetOver p = { s.pmqHw none 7 p with fnReset := [] })

/-- R375, R377, R378, R379, R380, R383, R428, R429: a late transition makes the core recompute for two wall cycles and counts the unit, in a window too; a non-replayable
operation at its landing fails instead; a window ends; a freeze that took the count above the limit stops the core when it is over; a watchdog barks; a sample is a trace
record of the core's state, and its period starts anew; a record waits to perform, or is dropped where 64 wait or its buffer faults. The cycle of a transition and of a sample, and which stage of a unit an occurrence stands for, are the model's
reading (log entries 46, 66 and 92). -/
def Obligations.MarginAndWatchdogs : Prop :=
  ∀ (s : State), s.cur.core < nCores →
    let c := s.cur.core
    let w := max 1 (getF (s.rw (rpage (0x9400 + 8 * c))) 16 16) * 1000
    let limit := getF (s.rw (rpage (0x9400 + 8 * c))) 0 16
    (∀ us, s.me.checked = false → exec (.lateTransition us) s = .next s) ∧
    (∀ u, s.me.checked = true → s.me.mretry = none → s.me.pipe = [] →
      let n := min 0xFFFF (getF (s.me.rsr 0x142) 0 16 + 1)
      (s.me.replay ≠ 2 → exec (.lateTransition [u]) s = .next (s.setCore c
        { (s.me.countReplay u).wsr 0x142 (BitVec.ofNat 64 n) with replay := 2, escal := if limit < n then n else s.me.escal })) ∧
      (s.me.replay = 2 → exec (.lateTransition [u]) s = .next (s.setCore c (s.me.countReplay u))) ∧
      ∀ m, (s.me.countReplay u).rsr m = if m = 0x144 + u.idx then BitVec.ofNat 64 (min 0xFFFFFFFF (getF (s.me.rsr m) 0 32 + 1)) else s.me.rsr m) ∧
    (∀ o, s.me.checked = true → s.me.mretry = none → s.me.replay = 0 → s.me.freeze = 0 → s.me.pipe = [o] → o.due s.me.sched = true → s.ready o = true →
      o.nonReplay = some .sa → getF (s.rw (relLog (some s.me.part))) 3 45 = 0 → exec (.lateTransition [.sa]) s = .next (s.setOp c { o with fault := true, cause := 0x8D })) ∧
    ((s.me.replayStart + w ≤ s.time.toNat → ∃ t x, exec .replayWindow s = .next t ∧ OnlyCore s t c ∧ t.core c = { s.me.wsr 0x142 0 with replayStart := x } ∧
        x ≤ s.time.toNat ∧ s.time.toNat < x + w) ∧
      (s.time.toNat < s.me.replayStart + w → exec .replayWindow s = .next s)) ∧
    (s.escalates c = true → s.subs = [] → getF (s.rw (relLog (some s.me.part))) 3 45 = 0 → getF (s.rw (relLog none)) 3 45 = 0 → s.me.run = .running ∨ s.me.run = .ended →
      ∃ t, exec .timingEscalation s = .next t ∧ OnlyCore s t c ∧ t.core c = { s.me.wsr 0x142 0 with escal := 0, ext := s.me.ext ++ [0x8E] }) ∧
    (s.escalates c = true ↔ s.me.replay = 0 ∧ s.me.escal ≠ 0) ∧
    (s.barks c = true → s.subs = [] → getF (s.rw (relLog (some s.me.part))) 3 45 = 0 → getF (s.rw (relLog none)) 3 45 = 0 →
      exec .watchdog s = .next (s.setCore c { s.me with ext := s.me.ext ++ [0x8A], wdStart := s.time.toNat })) ∧
    (s.barks c = true ↔ (s.me.run = .running ∨ s.me.run = .ended ∧ s.me.pipe ≠ []) ∧ getF (s.rw (rpage (0x8020 + 64 * s.me.part))) 0 24 ≠ 0 ∧
      s.me.wdStart + 1000 * getF (s.rw (rpage (0x8020 + 64 * s.me.part))) 0 24 < s.time.toNat) ∧
    (let period := 1024 * getF (s.me.rsr 0x198) 8 24
     let on : Prop := (s.me.run = .running ∨ s.me.run = .ended) ∧ s.me.trcDue ≤ s.wall ∧ period ≠ 0
     (¬ on → exec .traceSample s = .next s) ∧
     (on → exec .traceSample s = .next ((s.trace c 1 s.me.freeze s.me.lastAddr).modCore c fun k => { k with trcDue := s.wall + period }))) ∧
    (∀ kind cause addr,
      let r : TraceRec := { ws := [BitVec.ofNat 64 (codeAddr addr), BitVec.ofNat 64 (kind + cause % 256 * 2 ^ 4 + c * 2 ^ 12), BitVec.ofNat 64 s.me.sched, s.time]
                            level := s.me.level, root := s.me.rsr 0x082, tag := getF (s.me.rsr 0x083) 0 4 }
      (bitN (s.me.rsr 0x198).toNat (kind - 1) = false → s.trace c kind cause addr = s) ∧
      (bitN (s.me.rsr 0x198).toNat (kind - 1) = true → s.me.trcQ.length < 64 → s.trace c kind cause addr = s.setCore c { s.me with trcQ := s.me.trcQ ++ [r] }) ∧
      (bitN (s.me.rsr 0x198).toNat (kind - 1) = true → 64 ≤ s.me.trcQ.length → s.trace c kind cause addr = s.modCore c Core.dropTrace)) ∧
    (∀ k : Core, k.dropTrace = k.wsr 0x198 (setF (k.rsr 0x198) 32 32 (min (2 ^ 32 - 1) (getF (k.rsr 0x198) 32 32 + 1)))) ∧
    (∀ (r : TraceRec) (u : State), let buf := s.me.rsr 0x199
      let base := getF buf 3 52 * 8
      let a := base + 8 + 32 * (s.me.trcIdx % 2 ^ getF buf 55 4)
      let cx : Ctx := { s.ctx c with level := r.level, root := r.root, tag := r.tag }
      let as := [a, a + 8, a + 16, a + 24]
      r.ws.length = 4 →
      (s.traceOpen cx base as = (false, u) → s.performTrace c r = u.modCore c Core.dropTrace) ∧
      (s.traceOpen cx base as = (true, u) → let v := u.traceStores cx base (as.zip r.ws)
        s.performTrace c r = v.2.modCore c fun k => if v.1 then { k with trcIdx := k.trcIdx + 1 } else k.dropTrace))

/-! ## The outside -/

/-- R83, R105, R106, R406, R407, R409, R436: what a host's request through a BAR reaches and how it is answered; an AtomicOp is unsupported; an invalidation drops the
function's translations and is answered when the accesses that used them have performed; a page that a response refuses faults at a retry with XLT_HOST and one
Page Request, where no translation of it is cached; requests longer than the limits are discarded; PERST takes the link down with its translations; a flit that fails its check is
resent. Levels, aborts and the entry's empty fields are the model's (log entries 61, 62, 63, 107 and 119). -/
def Obligations.HostsReachTheirFunction : Prop :=
  ∀ (s : State) (h : HostReq) (len : Nat) (data : List (BitVec 8)) (poison : Bool), h.link < 2 →
    let ans (t : State) (st : Nat) (d : List Byte) : State := { t with out := t.out ++ [.hostCpl h.link h.tag.toNat st d] }
    (s.linkUp h.link = false → exec (.hostRead h len) s = .next s ∧ exec (.hostWrite h data poison) s = .next s) ∧
    (4096 < len → exec (.hostRead h len) s = .next s) ∧ (512 < data.length → exec (.hostWrite h data poison) s = .next s) ∧
    (s.linkUp h.link = true → len ≤ 4096 → s.hostFn h = none → exec (.hostRead h len) s = .next (ans s 1 []) ∧ exec (.hostWrite h data poison) s = .next s) ∧
    (∀ p, s.linkUp h.link = true → len ≤ 4096 → data.length ≤ 512 → s.hostFn h = some p →
      (∀ o l, s.bar p h.fn h.bar h.off = .reg o l →
        exec (.hostRead h len) s = .next (if h.off % 8 = 0 ∧ len = 8 ∧ winMay s p l o false = true then ans s 0 (bytesLE 8 (winRead s o).toNat) else ans s 4 []) ∧
        (poison = false → h.off % 8 = 0 → data.length = 8 → winMay s p l o true = true → exec (.hostWrite h data poison) s =
          .next { s with turn := { cur := (winWrite o l (BitVec.ofNat 64 (natLE data))).1, act := (winWrite o l (BitVec.ofNat 64 (natLE data))).2 } :: s.turn })) ∧
      (∀ g, s.bar p h.fn h.bar h.off = .mem g → (∀ bs t, s.hostBytes p h.link g len h.u = (some bs, t) → exec (.hostRead h len) s = .next (ans t 0 bs)) ∧
        (∀ t, s.hostBytes p h.link g len h.u = (none, t) → exec (.hostRead h len) s = .next (ans t 4 [])) ∧
        (poison = false → exec (.hostWrite h data poison) s = .next (s.hostStore p h.link g data h.u))) ∧
      (s.bar p h.fn h.bar h.off = .none → exec (.hostRead h len) s = .next (ans s 1 []) ∧ exec (.hostWrite h data poison) s = .next s)) ∧
    (∀ p fn off, s.answers = true →
      (s.bar p fn 0 off = if off < 0x1000000 then .reg (ppage p off) (if s.partRoot p then .root else .partition) else .none) ∧
      (s.bar p fn 2 off = if off < 0x10000000 ∧ fn = 0 ∧ s.partRoot p = true then .reg (rpage off) .root else .none) ∧
      (s.bar p fn 4 off = if off < 2 ^ 36 then .mem off else .none)) ∧
    (∀ p fn b off, s.answers = false → s.barSize p fn b = 0 ∧ s.bar p fn b off = .none) ∧
    (∀ fn, s.hostFn h = some fn → s.partEN fn = true ∧ s.partFN fn = h.fn ∧ s.recovery = false ∧ s.boot = none) ∧
    (∀ p ca pa, let link := pa / 2 ^ 45 % 2
      let page := pa % 2 ^ 45 / 4096
      (bitN (s.partLinks p) link = false → s.hostHome p ca pa = (.error Xlt.NOLINK, s)) ∧
      (bitN (s.partLinks p) link = true → (link, s.partFN p, page) ∈ s.refused → (∀ e ∈ s.ats, ¬ (e.link = link ∧ e.fn = s.partFN p ∧ e.page = page)) →
        ∃ t, s.hostHome p ca pa = (.error Xlt.HOST, t) ∧ t = { s with out := t.out, freeCtr := s.freeCtr + 1 } ∧
          t.out.getLast? = some (.pri link (page * 4096))) ∧
      (∀ e, bitN (s.partLinks p) link = true → Config.atsEnabled link (s.partFN p) = true → s.ats = [e] → e.link = link → e.fn = s.partFN p → e.page = page →
        s.hostHome p ca pa = (.ok (.host link ca, e.out * 4096 + pa % 4096), s))) ∧
    (s.cur.i < 2 → exec .hostAtomicopReceived s = .next (if s.linkUp s.cur.i then { s with out := s.out ++ [.hostCpl s.cur.i (s.cur.j % 2 ^ 14) 1 []] } else s)) ∧
    (∀ fn va n tag, s.linkUp h.link = true → (s.function h.link fn).isSome = true → s.invs = [] →
      ∃ t, exec (.atsInvalidate h.link fn va n tag) s = .next t ∧ t = { s with ats := t.ats, invs := t.invs, out := t.out } ∧
        (∀ e, e ∈ t.ats ↔ e ∈ s.ats ∧ ¬ (e.link = h.link ∧ e.fn = fn ∧ va / 4096 ≤ e.page ∧ e.page * 4096 < va + n)) ∧
        (s.atsUsers h.link fn va n = [] → t.invs = [] ∧ t.out = s.out ++ [.atsDone h.link tag])) ∧
    (∀ fn va ok, s.function h.link fn = none → exec (.prgResponse h.link fn va ok) s = .next s) ∧
    (∀ fn va ok p, s.function h.link fn = some p →
      ∃ rs, exec (.prgResponse h.link fn va ok) s =
          .next (({ s with refused := rs } : State).log (some p) (faultQ p) 64 (faultWords s (va / 4096 * 4096) Xlt.HOST 0 0 0 0 0 p 0)) ∧
        ∀ e, e ∈ rs ↔ (e = (h.link, fn, va / 4096) ∧ ok = false) ∨ (e ≠ (h.link, fn, va / 4096) ∧ e ∈ s.refused)) ∧
    (s.cur.i < 2 → (s.cur.j = 1 → ∃ t, exec .perst s = .next t ∧ t.linkUp s.cur.i = false ∧ (∀ e ∈ t.ats, e.link ≠ s.cur.i) ∧ t = { s with perst := t.perst, ats := t.ats }) ∧
      (s.cur.j ≠ 1 → ∃ t, exec .perst s = .next t ∧ t.linkUp s.cur.i = s.powered ∧ t = { s with perst := t.perst })) ∧
    (∀ j ok, j < 2 → exec (.flitReceived (.pcie j) ok) s = .next (if ok then s else { s with out := s.out ++ [.resend j] })) ∧
    (∀ k ok, k < 16 → exec (.flitReceived (.rootlink k) ok) s = .next (if ok then s else { s with out := s.out ++ [.resend (2 + k)] }))

/-- R74, R302, R304, R308, R309, R310, R311, R409, R410, R415, R417: a far node reaches the aperture's blocks that its partition owns, and nothing else, and an unpopulated one is
recorded; its reads and writes go sector by sector, its atomics read and
write in one event; its wait is answered, aborted where its counter fails its check, or parked. A port fails, with the bulk commands and collectives that use it, or is trained. The time base goes on by 10/19 ns a cycle and follows its source. Attributes, the flag
byte and the slew are the model's (log entries 64 and 65). -/
def Obligations.FarNodesAndTime : Prop :=
  ∀ (s : State) (f : FabricReq) (u : Upset), f.port < 16 →
    let ans (t : State) (ok : Bool) (d : List Byte) : State := { t with out := t.out ++ [.fabCpl f.port f.tag ok d] }
    (s.live = false → exec (.fabricRequest f u) s = .next s) ∧
    (∀ o n pa, s.aperture o n = some pa ↔ o + n ≤ s.rwF (rpage 0xB008) 10 10 * 2 ^ 31 ∧ o % 2 ^ 31 + n ≤ 2 ^ 31 ∧ s.rwF (rpage 0xB008) 0 10 + o / 2 ^ 31 < 768 ∧
      s.owns (s.rwF (rpage 0xB008) 20 4) (s.rwF (rpage 0xB008) 0 10 + o / 2 ^ 31) = true ∧ pa = blockBase (s.rwF (rpage 0xB008) 0 10 + o / 2 ^ 31) + o % 2 ^ 31) ∧
    (s.live = true → s.aperture f.off (farLen f.op) = none ∨ (f.off % farLen f.op ≠ 0 ∧ (∀ n, f.op ≠ .read n) ∧ ∀ bs, f.op ≠ .write bs) →
      exec (.fabricRequest f u) s = .next (s.farAbort f)) ∧
    (∀ (r : Req) (pa b : Nat), blockOf pa = some b → s.populated b = false →
      s.admits r pa = (false, s.memErr pa { kind := 7, site := r.site, die := r.die, core := r.core } r.part)) ∧
    (let b := s.rwF (rpage 0xB008) 0 10 + f.off / 2 ^ 31
     let absent : Prop := f.off < s.rwF (rpage 0xB008) 10 10 * 2 ^ 31 ∧ b < 768 ∧ s.populated b = false
     (absent → s.farAbort f = ans (s.admits (s.farReq f.port) (blockBase b + f.off % 2 ^ 31)).2 false []) ∧ (¬ absent → s.farAbort f = ans s false [])) ∧
    (∀ pa, s.live = true → s.aperture f.off (farLen f.op) = some pa →
      let r := s.readMain (s.farReq f.port) 0 false pa 8 true u
      (f.op = .rrd → f.off % 8 = 0 → exec (.fabricRequest f u) s = .next (match r.1 with | some bs => ans r.2 true bs | none => ans r.2 false [])) ∧
      (∀ v, f.op = .rwait v → f.off % 8 = 0 → (r.1 = none → exec (.fabricRequest f u) s = .next (ans r.2 false [])) ∧
        (∀ bs, r.1 = some bs → exec (.fabricRequest f u) s = .next (r.2.farCompare { port := f.port, tag := f.tag, pa := pa, target := v.toNat, due := none }))) ∧
      (∀ n t, f.op = .read n → (∀ bs, s.readSectors (s.farReq f.port) (fun s a => (some (a, 0, false), s)) pa n u = (some bs, t) →
          exec (.fabricRequest f u) s = .next (ans t true bs)) ∧
        (s.readSectors (s.farReq f.port) (fun s a => (some (a, 0, false), s)) pa n u = (none, t) → exec (.fabricRequest f u) s = .next (ans t false []))) ∧
      (∀ bs ok t, f.op = .write bs → s.writeSectors (s.farReq f.port) (fun s a => (some (a, 0, false), s)) pa bs u = (ok, t) →
        exec (.fabricRequest f u) s = .next (ans t ok [])) ∧
      (∀ v old w, f.op = .radd v → f.off % 8 = 0 → r.1 = some old → natLE old + v.toNat < 2 ^ 64 → r.2.putMain false pa (bytesLE 8 (natLE old + v.toNat)) = some w →
        exec (.fabricRequest f u) s = .next (ans w true [])) ∧
      (∀ v old w, f.op = .aadd true v → f.off % 8 = 0 → r.1 = some old → old.length = 8 → r.2.putMain false pa (bytesLE 8 ((natLE old + v.toNat) % 2 ^ 64)) = some w →
        exec (.fabricRequest f u) s = .next (ans w true (old ++ [0])))) ∧
    (∀ w : FarWait, let x := ({ s with farWaits := s.farWaits.filter (· != w) } : State).correct (s.farReq w.port) false w.pa 8
      let said (t : State) (ok : Bool) : State := { t with out := t.out ++ [.fabCpl w.port w.tag ok []] }
      (x.sectorBad false (w.pa / 32) = true → s.farCompare w = said (x.failRecord (x.farReq w.port) false w.pa) false) ∧
      (x.sectorBad false (w.pa / 32) = false → w.target ≤ x.gran false w.pa → s.farCompare w = said x true) ∧
      (x.sectorBad false (w.pa / 32) = false → x.gran false w.pa < w.target → s.farCompare w =
        { x with farWaits := x.farWaits ++ [{ w with due := if x.parkedNear w.pa < 512 then none else some (x.wall + 64) }] })) ∧
    (∀ (x : Chunk) (q : Cmd), (s.core x.core).head x.ch = some q → q.seq = x.seq → q.phase = 1 →
      s.chunkLost x = ({ s with chunks := s.chunks.filter (· != x) } : State).complete x.core { q with phase := 2, code := 6, chunk := 0 }) ∧
    (∀ r : Coll, s.colls = [r] → s.collsLost = if r.matched = true ∧ s.collReach r = false then s.collEnd r 6 r.wrote else s) ∧
    (s.cur.i < 16 → (∀ c, s.onPort c s.cur.i = []) → (∀ x ∈ s.chunks, s.cur.i ∉ x.ports) → s.colls = [] → ∃ t, exec .portFailure s = .next t ∧ bitN (t.rw (rpage 0xB010)).toNat s.cur.i = false ∧
      t = { s with win := t.win, farWaits := s.farWaits.filter fun w => w.port != s.cur.i }) ∧
    (s.cur.i < 16 → s.powered = true → ∃ t, exec .portTrained s = .next t ∧ RegsSet s t [(rpage 0xB010, setF (s.rw (rpage 0xB010)) s.cur.i 1 1)]) ∧
    (∀ j o, j < 2 → exec (.ptmDialogue j o) s = .next (if s.linkUp j = true ∧ getF (s.rw (rpage 0xB800)) 0 2 = j + 1 then s.measure o else s)) ∧
    exec .ppsEdge s = .next (if s.powered = true ∧ getF (s.rw (rpage 0xB800)) 0 2 = 3 then s.measure ((s.rw (rpage 0xB808) - s.time).toInt) else s) ∧
    (∀ o : Int, (-1000 ≤ o → o ≤ 1000 → (s.measure o).time = s.time ∧ (s.measure o).slew = o ∧ bitN ((s.measure o).rw (rpage 0xB818)).toNat 0 = true) ∧
      (1000 < o → (s.measure o).time = s.time + BitVec.ofInt 64 o ∧ (s.measure o).slew = 0) ∧
      (o < -1000 → (s.measure o).time = s.time ∧ (s.measure o).slew = o ∧ bitN ((s.measure o).rw (rpage 0xB818)).toNat 0 = false)) ∧
    (s.timeLost = true → ∃ t, exec .holdover s = .next t ∧ t = { s with win := t.win, slew := 0 } ∧ bitN (t.rw (rpage 0xB818)).toNat 1 = true) ∧
    (s.slew = 0 → s.frac < 19 → s.tickTime = { s with time := s.time + BitVec.ofNat 64 ((s.frac + 10) / 19), frac := (s.frac + 10) % 19 })

/-- R415, R418, R432, R433, R434, R435, R436, R437: a reset leaves the part as the reset sequence leaves it but for the wall clock, the time base, what is outside and the
Ranger's data, IO alone is powered and READY 0 until it ends; the input lost holds everything but the Ranger in reset, below 36 V the Ranger too, and the Ranger logs and
reports it; a domain's power-good signal counts while the domain is powered; the power controller's level is the smallest that keeps the expected power within the limit, at least 12
where the pin or a missing measurement asks for it. The time of a reset, and what power to expect, are free values (log entries 68, 69, 71 and 123). -/
def Obligations.PowerAndReset : Prop :=
  ∀ (s : State) (mv : Nat) (ok : Bool) (v : Word),
    (∀ ds boot, let t := s.blank ds boot
      (∀ c, t.core c = {}) ∧ t.mem = [] ∧ t.l2 = [] ∧ t.tlb = [] ∧ t.launches = [] ∧ t.turn = [] ∧ t.level = 0 ∧ t.domains = ds ∧ t.boot = none ∧ t.wall = s.wall ∧ t.time = s.time ∧
      t.auth = s.auth ∧ t.subs = s.subs ∧ t.rangerLog = s.rangerLog ∧ t.out = s.out ∧ t.rw (rpage 0xC018) = boot ∧ ∀ o, o ≠ rpage 0xC018 → t.rw o = winReset o) ∧
    (s.deviceReset ok = { s.freeTime.2.blank [.ranger, .io] 0 with boot := some (s.wall + s.freeTime.1, ok) }) ∧
    exec (.resetN ok) s = .next (if .io ∈ s.domains then s.deviceReset ok else s) ∧
    s.booted true = (({ s with boot := none, domains := [.ranger, .io, .die0, .die1, .mem] } : State).ww (rpage 0xC018) 1).pmqHw none 7 0x10 ∧
    (s.subs = [] → s.booted false = ({ s with boot := none } : State).ww (rpage 0xC018) 2) ∧
    (let told (t : State) (out : Bool) : State := { t with rangerLog := t.rangerLog ++ [(mv, out)] }
     (mv < 36000 → s.inputLost mv = if s.domains = [] then s else { s.blank [] 0 with auth := [], subs := [], jobs := [] }) ∧
     (36000 ≤ mv → .io ∉ s.domains → s.inputLost mv = s) ∧
     (36000 ≤ mv → .io ∈ s.domains → s.subs = [] → s.inputLost mv = told (s.blank [.ranger] 0) true) ∧
     (.io ∉ s.domains → s.subs = [] → exec (.powerInputRestored mv ok) s = .next ((told { s with domains := [.ranger] } false).deviceReset ok))) ∧
    (.io ∈ s.domains → exec (.powerInputRestored mv ok) s = .next s) ∧
    exec .powerInputOutOfRange s = .next (s.inputLost s.cur.i) ∧
    (s.cur.j < 4 → exec .pwrgdFall s = .next (if [PwrDomain.io, .die0, .die1, .mem].getD s.cur.j .io ∈ s.domains then s.inputLost s.cur.i else s)) ∧
    exec (.throtN ok) s = .next { s with throtLow := ok } ∧
    (s.live = true → ∃ t, exec .powerMeasurement s = .next t ∧
      t = { s with lastMeas := t.lastMeas, level := t.level, measDue := s.wall + 19000, floors := t.floors, freeCtr := s.freeCtr + 2 } ∧
      (∀ p, p < 16 → Sparse.get 0 t.floors p = s.rwF (rpage (0xC100 + 8 * p)) 0 4) ∧
      (let power (l : Nat) : Nat := Config.powerAt (s.freeCtr + 1) t.lastMeas t.floors l
       let limit := min (s.rwF (rpage 0xC000) 0 12) 2800
       ∃ l, l < 16 ∧ t.level = (if s.throtLow = true ∨ s.measLost = true then max 12 l else l) ∧ (∀ k, k < l → limit < power k) ∧ (l < 15 → power l ≤ limit)) ∧ (bitN (s.rw (rpage 0xC030)).toNat 12 = true → t.lastMeas = getF (s.rw (rpage 0xC030)) 0 12)) ∧
    (∃ t, exec (.pwrMeasWrite v) s = .next t ∧ t = { s with win := t.win, pwrMeasAt := s.wall } ∧
      ∀ o, t.rw o = if o = rpage 0xC030 then v &&& (if s.jx9p then 0x1FFF else 0xFFF) else s.rw o) ∧
    exec .pwrMeasTimeout s = .next (if s.measLost then { s with level := max 12 s.level } else s)

/-- R418, R419, R420, R433: an unpowered Ranger does nothing; it discards a request that is short or of another vendor, but for GET_ID's; it refuses a wrong version, an unknown code, a
wrong scope or length, an endpoint that has not authenticated, a target that does not exist, is unpowered or is busy; and acts else: it stops the cores of its target or quarantines one,
answers, and tells the subscribers of an event. A requester with a command under way gets its later answers after that one's. The order of the checks, the echoed SCOPE and TARGET
and the answer to a wrong LEN are the model's reading (log entries 67, 70 and 120). -/
def Obligations.TheRangerAnswers : Prop :=
  ∀ (s : State) (r : RangerReq),
    let ans (t : State) (code st : Nat) (d : List Byte) : State :=
      if t.jobs.any fun j => j.ep == some r.ep then
        { t with jobs := t.jobs ++ [{ ep := some r.ep, code := code, tag := r.tag.toNat, scope := r.scope.toNat, target := r.target.toNat, cores := [], parts := []
                                      said := some (st, d) }] }
      else { t with out := t.out ++ [.ranger { ep := r.ep, vendor := Config.rangerVendor, ver := 1, code := code + 0x80, tag := r.tag.toNat, scope := r.scope.toNat
                                               target := r.target.toNat, len := d.length + 1, payload := BitVec.ofNat 8 st :: d }] }
    let same (i : Instr) (code : Nat) : Prop := ∃ t, exec i s = .next t ∧ (∀ k, t.core k = s.core k) ∧ t = { ans s code 0 [] with cores := t.cores }
    let acts : List (Instr × Nat × Nat) := [(.stop r, 0x10, 0), (.save r, 0x11, 0), (.reset r, 0x12, 0), (.quarantine r, 0x13, 1)]
    let row (i : Instr) (code len : Nat) : Prop :=
      (i, code, len) ∈ acts ∨ i = .read r ∧ code = 2 ∧ len = 8 ∨ i = .subscribe r ∧ code = 3 ∧ len = 1
    let exists_ : Prop := r.scope = 0 ∧ r.target.toNat < 128 ∨ r.scope = 1 ∧ r.target.toNat < 16 ∨ r.scope = 2 ∧ r.target.toNat < 2 ∨ r.scope = 3 ∧ r.target = 0
    let whole (len : Nat) : Prop := r.ver = 1 ∧ r.other = none ∧ r.scope.toNat ≤ 3 ∧ r.payload.length = len ∧ r.len.toNat = len
    (∀ i code len, row i code len ∨ i = .getId r ∧ code = 1 ∧ len = 0 →
      (.ranger ∉ s.domains ∨ r.short = true → exec i s = .next s) ∧
      (r.vendor ≠ Config.rangerVendor → row i code len → exec i s = .next s) ∧
      (.ranger ∈ s.domains → r.short = false → r.vendor = Config.rangerVendor →
        (r.ver ≠ 1 → r.other = none → exec i s = .next (ans s code 4 [])) ∧
        (∀ x, r.ver = 1 → r.other = some x → x.toNat ∉ [0x01, 0x02, 0x03, 0x10, 0x11, 0x12, 0x13] → exec i s = .next (ans s x.toNat 2 [])) ∧
        (r.ver = 1 → r.other = none → 3 < r.scope.toNat → exec i s = .next (ans s code 3 [])) ∧
        (r.ver = 1 → r.other = none → r.scope.toNat ≤ 3 → r.payload.length ≠ len ∨ r.len.toNat ≠ len → exec i s = .next (ans s code 2 [])))) ∧
    (.ranger ∈ s.domains → r.short = false → whole 0 →
      (exists_ → exec (.getId r) s = .next (ans s 1 0 (wordBytes [winRead s (rpage 0xC020), s.rw (rpage 0xC018)]))) ∧
      (¬ exists_ → exec (.getId r) s = .next (ans s 1 3 []))) ∧
    (.ranger ∈ s.domains → r.short = false → r.vendor = Config.rangerVendor →
      (∀ d u, whole 8 → s.readData (r.payload.getD 0 0).toNat (natLE (r.payload.drop 4)) r.scope.toNat r.target.toNat = (.ok d, u) →
        exec (.read r) s = .next (ans u.tickFree 2 0 d)) ∧
      (∀ st u, whole 8 → s.readData (r.payload.getD 0 0).toNat (natLE (r.payload.drop 4)) r.scope.toNat r.target.toNat = (.error st, u) →
        exec (.read r) s = .next (ans u 2 st [])) ∧
      (∀ m, whole 1 → r.payload = [m] → (s.recovery = true → exec (.subscribe r) s = .next (ans s 3 7 [])) ∧
        (s.recovery = false → ¬ exists_ → exec (.subscribe r) s = .next (ans s 3 3 [])) ∧
        (s.recovery = false → exists_ → exec (.subscribe r) s =
          .next (ans { s with subs := (r.ep, m.toNat) :: s.subs.filter fun e => e.1 != r.ep } 3 0 []))) ∧
      (∀ i code len, (i, code, len) ∈ acts → whole len →
        let absorbed : Prop := code = 0x12 ∧ r.scope = 1 ∧ s.resetting = true
        let needs : List PwrDomain := match r.scope.toNat with
          | 0 => [if r.target.toNat < 64 then .die0 else .die1]
          | 2 => [if r.target = 0 then .die0 else .die1]
          | 3 => [.io]
          | _ => [.die0, .die1]
        let target : Prop := exists_ ∧ (r.scope ≠ 0 → code ≠ 0x13) ∧ (r.scope = 3 → code = 0x12)
        (r.ep ∉ s.auth → exec i s = .next (ans s code 1 [])) ∧
        (r.ep ∈ s.auth → 1 < (r.payload.getD 0 0).toNat → exec i s = .next (ans s code 2 [])) ∧
        (r.ep ∈ s.auth → (r.payload.getD 0 0).toNat ≤ 1 → s.recovery = true → exec i s = .next (ans s code 7 [])) ∧
        (r.ep ∈ s.auth → (r.payload.getD 0 0).toNat ≤ 1 → s.recovery = false → ¬ target → exec i s = .next (ans s code 3 [])) ∧
        (r.ep ∈ s.auth → (r.payload.getD 0 0).toNat ≤ 1 → s.recovery = false → target → ¬ absorbed → (∃ d ∈ needs, d ∉ s.domains) →
          exec i s = .next (ans s code 6 [])) ∧
        (r.ep ∈ s.auth → (r.payload.getD 0 0).toNat ≤ 1 → s.recovery = false → target → r.scope = 0 → (∀ d ∈ needs, d ∈ s.domains) →
          (∃ j ∈ s.jobs, r.target.toNat ∈ j.cores) → exec i s = .next (ans s code 5 []))) ∧
      (whole 0 → r.ep ∈ s.auth → s.recovery = false → (if r.target.toNat < 64 then .die0 else .die1) ∈ s.domains → .io ∈ s.domains → s.resetting = false → s.jobs = [] →
        r.scope = 0 → r.target.toNat < 128 →
        let c := r.target.toNat
        let job (code : Nat) : Job := { ep := some r.ep, code := code, tag := r.tag.toNat, scope := 0, target := c, cores := [c], wait := [c], parts := [] }
        (∀ i code, (i, code) ∈ [(Instr.stop r, 0x10), (.save r, 0x11)] →
          ((s.core c).run = .running ∨ (s.core c).run = .ended → ∃ t, exec i s = .next t ∧ OnlyCore { s with jobs := t.jobs } t c ∧
            t.core c = { s.core c with ext := (s.core c).ext ++ [0x8C] } ∧ t.jobs = [job code]) ∧
          ((s.core c).run = .free → (s.core c).ext = [] → same i code)) ∧
        (∀ (t : State) (run : Run), (t.core c).ext = [] → (t.core c).run = run → t.jobDone (job 0x11) =
          match run with | .saving _ 0 => none | .saving _ _ => some 8 | _ => some 0) ∧
        (s.launches = [] → s.subs = [] → (s.core c).run = .free → (s.core c).sr = [] → same (.reset r) 0x12) ∧
        (∀ l, s.launches = [l] → l.cores = [c] → l.parent = none → l.hashed = false → l.places = [] → (s.core c).run ≠ .free → (s.core c).chans = [] → s.reds = [] →
          s.colls = [] → ∃ t, exec (.reset r) s = .next t ∧ OnlyCore { s with jobs := t.jobs, launches := t.launches } t c ∧
            t.launches = [{ l with st := .ending, status := 3, tiles := [], nextTile := l.ntiles }] ∧ t.jobs = [job 0x12] ∧
            (t.core c).run = .ended ∧ (t.core c).pipe = [] ∧ (t.core c).handler = false ∧ (t.core c).ext = [] ∧
            (∀ n, (t.core c).rx n = (s.core c).rx n) ∧ ∀ m, (t.core c).rsr m = if 0x144 ≤ m ∧ m < 0x150 then 0 else (s.core c).rsr m)) ∧
      (∀ q, whole 1 → r.payload = [q] → q.toNat ≤ 1 → r.ep ∈ s.auth → s.recovery = false → (if r.target.toNat < 64 then .die0 else .die1) ∈ s.domains → s.jobs = [] →
        r.scope = 0 → r.target.toNat < 128 →
        (∀ c, (s.core c).fullStopped = false) → exec (.quarantine r) s = .next (ans (s.ww (rpage (0x9800 + 8 * (r.target.toNat / 64)))
          (setF (s.rw (rpage (0x9800 + 8 * (r.target.toNat / 64)))) (r.target.toNat % 64) 1 q.toNat)) 0x13 0 []))) ∧
    (∀ (event : Nat) (data : List Byte), s.announce event data =
      if .ranger ∈ s.domains then
        { s with out := s.out ++ (s.subs.filter fun e => bitN e.2 (event - 1)).map fun e =>
            .ranger { ep := e.1, vendor := Config.rangerVendor, ver := 1, code := 0xFF, tag := 0, scope := 3, target := 0, len := data.length + 1
                      payload := BitVec.ofNat 8 event :: data } }
      else s) ∧
    (∀ (t : State) (j k : Job) (x : Nat × List Byte), t.jobs = [j, k] → j.ep = k.ep → j.said = none → k.said = some x →
      t.jobDone j = none → t.settleJobs = t) ∧
    exec .rangerAuthentication s = .next (if s.cur.i ∈ s.auth ∨ .ranger ∉ s.domains then s else { s with auth := s.cur.i :: s.auth }) ∧
    exec .rangerSupplyLost s = .next { s.blank [] 0 with auth := [], subs := [], jobs := [] }

/-- R421, R437: an agent reads and writes root's registers and gets a status; MGMT.CMD starts its operation, and is busy until it has finished; the identity mailbox answers
each request on a link that is up. The codes and fixed bytes of the mailbox are PRESUMED (log entry 17), and what is fused or measured is a free value (log entry 14). -/
def Obligations.AgentsAndIdentity : Prop :=
  ∀ (s : State) (d off : Nat) (v : Word) (nonce : BitVec 256), d < 2 →
    (s.cur.i = d → s.cur.j ≠ 0xA000 → s.cur.j ≠ 0xA008 →
      exec .agentRegisterRead s = .next { s with out := s.out ++ [.agent d (s.agentStatus s.cur.j) (if s.agentStatus s.cur.j = 0 then winRead s (rpage s.cur.j) else 0)] }) ∧
    (∀ o, s.cur.i = d → s.cur.j = o → o = 0xA000 ∨ o = 0xA008 → s.agentStatus o = 0 → ∃ t, exec .agentRegisterRead s = .next t ∧
      t = { s with alertAt := t.alertAt, out := s.out ++ [.agent d 0 (winRead s (rpage o))] } ∧
      ∀ k, Sparse.get 0 t.alertAt k = if k = 2 * d + (if o = 0xA000 then 0 else 1) then s.logWord o else Sparse.get 0 s.alertAt k) ∧
    (∀ o, s.agentStatus o = if (rootReg o).isNone then 2
      else if .io ∈ s.domains ∧ (0xB000 ≤ o ∨ (.die0 ∈ s.domains ∧ .die1 ∈ s.domains ∧ .mem ∈ s.domains)) then 0 else 1) ∧
    (s.agentStatus off ≠ 0 → exec (.agentRegisterWrite d off v) s = .next s) ∧
    (s.agentStatus off = 0 → off ≠ 0xC028 → off ≠ 0xC030 → exec (.agentRegisterWrite d off v) s =
      .next { s with turn := { cur := (winWrite (rpage off) .root v).1, act := (winWrite (rpage off) .root v).2 } :: s.turn }) ∧
    (s.agentStatus 0xC028 = 0 → bitN (s.rw (rpage 0xC028)).toNat 12 = true →
      exec (.agentRegisterWrite d 0xC028 v) s = .next (s.ww (rpage 0xC028) (setF (s.rw (rpage 0xC028)) 16 4 5))) ∧
    (∀ i op code arg, (i, op, code, arg) ∈ [(Instr.mgmtStop, 1, 0x10, 0), (.mgmtSave, 2, 0x11, 0), (.mgmtReset, 3, 0x12, 0), (.mgmtQuarantineSet, 4, 0x13, 1), (.mgmtQuarantineClear, 5, 0x13, 0)] →
      (s.agentStatus 0xC028 = 0 → bitN (s.rw (rpage 0xC028)).toNat 12 = false → getF v 0 3 = op → exec (.agentRegisterWrite d 0xC028 v) s =
        .next { s.ww (rpage 0xC028) (setF ((s.rw (rpage 0xC028) &&& ~~~(0xFFF : Word)) ||| (v &&& 0xFFF)) 12 1 1) with turn := { cur := {}, act := i } :: s.turn }) ∧
      (bitN (s.rw (rpage 0xC028)).toNat 12 = true → getF (s.rw (rpage 0xC028)) 0 3 = op →
        exec i s = .next (s.begin_ none code 0 (getF (s.rw (rpage 0xC028)) 3 2) (getF (s.rw (rpage 0xC028)) 5 7) arg (s.cur.j != 1)) ∧
        (s.recovery = false → targetOk code (getF (s.rw (rpage 0xC028)) 3 2) (getF (s.rw (rpage 0xC028)) 5 7) = false → exec i s =
          .next (s.ww (rpage 0xC028) (setF (setF (s.rw (rpage 0xC028)) 12 1 0) 16 4 3))))) ∧
    (s.cur.i < 2 → s.linkUp s.cur.i = true →
      let replies (k : Nat) (bs : List Byte) : Out := .next { s with out := s.out ++ [.doe k bs] }
      exec .getVersion s = replies 4 [0x13] ∧ exec .getMeasurements s = replies 0x60 (Config.measurement 1 ++ Config.measurement 2 ++ Config.measurement 3) ∧
      (s.recovery = false → exec .getCapabilities s = replies 0x61 [0x16, 0, 0, 0] ∧ exec .negotiateAlgorithms s = replies 0x63 [0, 2, 0, 0, 0x40, 0, 0, 0] ∧
        exec .getDigests s = replies 1 (Sm3.digest Config.certChain) ∧
        exec .getCertificate s = (if s.cur.j = 0 then replies 2 Config.certChain else replies 0x7F [1]) ∧
        exec (.challenge 0 nonce) s = replies 3 (Config.sign (bytesLE 32 nonce.toNat)) ∧ exec (.challenge 1 nonce) s = replies 0x7F [1]) ∧
      (s.recovery = true → exec .getDigests s = .next s ∧ exec (.challenge 0 nonce) s = .next s))
end

