-- ==== Sys2Proof/Laws/Sparse.lean ====
section
/-! SUPPORT. Sparse maps: reading after a write, and the canonical form that every write keeps. -/
namespace Sys2Proof.Sparse

open Sys2Proof

variable {α : Type}

@[simp] theorem get_nil (d : α) (k : Nat) : get d [] k = d := rfl

theorem get_del (d : α) (m : Sparse α) (k j : Nat) : get d (del m k) j = if j = k then d else get d m j := by
  induction m with
  | nil => simp [del]
  | cons e m ih =>
    obtain ⟨i, v⟩ := e
    simp only [del, List.filter_cons] at *
    by_cases h : i = k
    · subst h; simp [ih, get]; split <;> rfl
    · simp [h, get, ih]; split
      · rename_i h2; subst h2; simp [h]
      · rfl

theorem get_ins (d : α) (m : Sparse α) (k j : Nat) (v : α) (h : ∀ e ∈ m, e.1 ≠ k) :
    get d (ins m k v) j = if j = k then v else get d m j := by
  induction m with
  | nil => simp [ins, get]
  | cons e m ih =>
    obtain ⟨i, w⟩ := e
    have hi : i ≠ k := h (i, w) (by simp)
    have ih := ih fun e he => h e (by simp [he])
    simp only [ins]
    split
    · simp [get]
    · simp only [get, ih]
      split
      · rename_i h2; subst h2; simp [hi]
      · rfl

theorem del_ne (m : Sparse α) (k : Nat) : ∀ e ∈ del m k, e.1 ≠ k := by
  intro e he; simp [del] at he; exact he.2

/-- A read after a write: the value written at its key, and every other key as it was. -/
@[simp] theorem get_set [DecidableEq α] (d : α) (m : Sparse α) (k j : Nat) (v : α) :
    get d (set d m k v) j = if j = k then v else get d m j := by
  unfold set
  split
  · rename_i h; subst h; exact get_del v m k j
  · rw [get_ins _ _ _ _ _ (del_ne m k), get_del]; split <;> rfl

/-- A write elsewhere does not change what a key reads, whatever the two defaults. -/
theorem get_set_other [DecidableEq α] (d e : α) (m : Sparse α) (k j : Nat) (v : α) (h : j ≠ k) :
    get e (set d m k v) j = get e m j := by
  unfold set
  split
  · rw [get_del, if_neg h]
  · rw [get_ins _ _ _ _ _ (del_ne m k), if_neg h, get_del, if_neg h]

/-! ## The canonical form -/

/-- The canonical form as a proposition: keys rise strictly and no entry holds the default. -/
theorem wf_iff [DecidableEq α] (d : α) (m : Sparse α) :
    wf d m = true ↔ m.Pairwise (fun a b => a.1 < b.1) ∧ ∀ e ∈ m, e.2 ≠ d := by
  induction m with
  | nil => simp [wf]
  | cons e m ih =>
    obtain ⟨k, v⟩ := e
    simp only [wf, Bool.and_eq_true, decide_eq_true_eq, List.all_eq_true, List.pairwise_cons, ih, List.mem_cons]
    constructor
    · rintro ⟨⟨hv, hk⟩, hp, hd⟩
      exact ⟨⟨hk, hp⟩, fun e he => he.elim (fun h => h ▸ hv) (hd e)⟩
    · rintro ⟨⟨hk, hp⟩, hd⟩
      exact ⟨⟨hd _ (.inl rfl), hk⟩, hp, fun e he => hd e (.inr he)⟩

/-- Leaving entries out keeps the canonical form. -/
theorem wf_filter [DecidableEq α] (d : α) (m : Sparse α) (p : Nat × α → Bool) (h : wf d m = true) :
    wf d (m.filter p) = true := by
  rw [wf_iff] at *
  exact ⟨h.1.filter p, fun e he => h.2 e (List.mem_filter.1 he).1⟩

theorem wf_del [DecidableEq α] (d : α) (m : Sparse α) (k : Nat) (h : wf d m = true) : wf d (del m k) = true :=
  wf_filter d m _ h

theorem mem_ins (m : Sparse α) (k : Nat) (v : α) (e : Nat × α) : e ∈ ins m k v ↔ e = (k, v) ∨ e ∈ m := by
  induction m with
  | nil => simp [ins]
  | cons f m ih =>
    simp only [ins]
    split
    · simp
    · simp only [List.mem_cons, ih]; exact or_left_comm

theorem wf_ins [DecidableEq α] (d : α) (m : Sparse α) (k : Nat) (v : α) (hv : v ≠ d) (hk : ∀ e ∈ m, e.1 ≠ k)
    (h : wf d m = true) : wf d (ins m k v) = true := by
  rw [wf_iff] at *
  obtain ⟨hp, hd⟩ := h
  refine ⟨?_, fun e he => ?_⟩
  · clear hd
    induction m with
    | nil => simp [ins]
    | cons f m ih =>
      have hf := hk f (by simp)
      rw [List.pairwise_cons] at hp
      simp only [ins]
      split
      · rename_i hlt
        refine List.pairwise_cons.2 ⟨fun e he => ?_, List.pairwise_cons.2 hp⟩
        rcases List.mem_cons.1 he with rfl | he
        · exact hlt
        · exact Nat.lt_trans hlt (hp.1 e he)
      · refine List.pairwise_cons.2 ⟨fun e he => ?_, ih (fun e he => hk e (by simp [he])) hp.2⟩
        rcases (mem_ins m k v e).1 he with rfl | he
        · show f.1 < k; omega
        · exact hp.1 e he
  · rcases (mem_ins m k v e).1 he with rfl | he
    · exact hv
    · exact hd e he

/-- A write keeps the canonical form. -/
theorem wf_set [DecidableEq α] (d : α) (m : Sparse α) (k : Nat) (v : α) (h : wf d m = true) : wf d (set d m k v) = true := by
  unfold set
  split
  · exact wf_del d m k h
  · rename_i hv; exact wf_ins d _ k v hv (del_ne m k) (wf_del d m k h)

/-- A write of several bytes keeps the canonical form. -/
theorem wf_setBytes (m : Sparse Byte) (a : Nat) (bs : List Byte) (h : wf 0 m = true) : wf 0 (setBytes m a bs) = true := by
  induction bs generalizing m a with
  | nil => exact h
  | cons b bs ih => exact ih _ _ (wf_set 0 m a b h)

/-- A read of one byte after a write of several: the byte written there, or what was there. -/
theorem get_setBytes (m : Sparse Byte) (a j : Nat) (bs : List Byte) :
    get 0 (setBytes m a bs) j = if a ≤ j ∧ j < a + bs.length then bs.getD (j - a) 0 else get 0 m j := by
  induction bs generalizing m a with
  | nil =>
    have h : ¬ (a ≤ j ∧ j < a + ([] : List Byte).length) := by simp only [List.length_nil]; omega
    rw [if_neg h]; rfl
  | cons b bs ih =>
    simp only [setBytes, ih, List.length_cons, get_set]
    by_cases h1 : j = a
    · subst h1
      rw [if_neg (by omega), if_pos rfl, if_pos (by omega), Nat.sub_self]; rfl
    · by_cases h2 : a + 1 ≤ j ∧ j < a + 1 + bs.length
      · have h3 : a ≤ j ∧ j < a + (bs.length + 1) := by omega
        have h4 : j - a = (j - (a + 1)) + 1 := by omega
        rw [if_pos h2, if_pos h3, h4]; rfl
      · have h3 : ¬ (a ≤ j ∧ j < a + (bs.length + 1)) := by omega
        rw [if_neg h2, if_neg h1, if_neg h3]

theorem within_bounds [DecidableEq α] (d : α) (a b : Nat) (x : Sparse α) : ∀ e ∈ within d a b x, a ≤ e.1 ∧ e.1 < b := by
  induction x generalizing a with
  | nil => simp [within]
  | cons f x ih =>
    intro e he
    simp only [within] at he
    split at he
    · rename_i h
      rcases List.mem_cons.1 he with rfl | he
      · exact ⟨h.1, h.2.1⟩
      · have := ih _ e he; omega
    · exact ih _ e he

theorem wf_within [DecidableEq α] (d : α) (a b : Nat) (x : Sparse α) : wf d (within d a b x) = true := by
  induction x generalizing a with
  | nil => rfl
  | cons f x ih =>
    simp only [within]
    split
    · rename_i h
      have hb := within_bounds d (f.1 + 1) b x
      have hi := (wf_iff d _).1 (ih (f.1 + 1))
      exact (wf_iff d _).2 ⟨List.pairwise_cons.2 ⟨fun e he => by have := hb e he; omega, hi.1⟩, fun e he => by
        rcases List.mem_cons.1 he with rfl | he
        · exact h.2.2
        · exact hi.2 e he⟩
    · exact ih a

/-- Replacing a range keeps the canonical form, whatever replaces it. -/
theorem wf_splice [DecidableEq α] (d : α) (m : Sparse α) (a b : Nat) (x : Sparse α) (hab : a ≤ b) (h : wf d m = true) :
    wf d (splice d m a b x) = true := by
  have hm := (wf_iff d m).1 h
  have hw := (wf_iff d _).1 (wf_within d a b x)
  have hb := within_bounds d a b x
  have hl : ∀ e ∈ m.filter (fun e => decide (e.1 < a)), e ∈ m ∧ e.1 < a := fun e he => by simpa using he
  have hr : ∀ e ∈ m.filter (fun e => decide (b ≤ e.1)), e ∈ m ∧ b ≤ e.1 := fun e he => by simpa using he
  refine (wf_iff d _).2 ⟨?_, fun e he => ?_⟩
  · refine List.pairwise_append.2 ⟨List.pairwise_append.2 ⟨hm.1.filter _, hw.1, fun e he f hf => ?_⟩, hm.1.filter _, fun e he f hf => ?_⟩
    · have := (hl e he).2; have := hb f hf; omega
    · have := (hr f hf).2
      rcases List.mem_append.1 he with he | he
      · have := (hl e he).2; omega
      · have := hb e he; omega
  · rcases List.mem_append.1 he with he | he
    · rcases List.mem_append.1 he with he | he
      · exact hm.2 e (hl e he).1
      · exact hw.2 e he
    · exact hm.2 e (hr e he).1

/-- Two canonical maps that read alike are equal: equal memories are equal data. -/
theorem ext [DecidableEq α] (d : α) (m n : Sparse α) (hm : wf d m = true) (hn : wf d n = true)
    (h : ∀ k, get d m k = get d n k) : m = n := by
  have low : ∀ (m : Sparse α) (k : Nat), (∀ e ∈ m, k < e.1) → get d m k = d := by
    intro m k hk
    induction m with
    | nil => rfl
    | cons e m ih =>
      obtain ⟨j, v⟩ := e
      have hj : k < j := hk (j, v) (by simp)
      simp only [get, if_neg (Nat.ne_of_lt hj)]
      exact ih fun e he => hk e (by simp [he])
  induction m generalizing n with
  | nil =>
    cases n with
    | nil => rfl
    | cons e n =>
      obtain ⟨k, v⟩ := e
      have := h k
      rw [wf_iff] at hn
      simp [get] at this
      exact absurd this.symm (hn.2 (k, v) (by simp))
  | cons e m ih =>
    obtain ⟨k, v⟩ := e
    have wm := (wf_iff d _).1 hm
    cases n with
    | nil =>
      have := h k
      simp [get] at this
      exact absurd this (wm.2 (k, v) (by simp))
    | cons f n =>
      obtain ⟨j, w⟩ := f
      have wn := (wf_iff d _).1 hn
      have pm := List.pairwise_cons.1 wm.1
      have pn := List.pairwise_cons.1 wn.1
      have hkj : k = j := by
        rcases Nat.lt_trichotomy k j with hlt | heq | hlt
        · have h1 := h k
          rw [low ((j, w) :: n) k fun e he => by
            rcases List.mem_cons.1 he with rfl | he
            · exact hlt
            · exact Nat.lt_trans hlt (pn.1 e he)] at h1
          simp [get] at h1
          exact absurd h1 (wm.2 (k, v) (by simp))
        · exact heq
        · have h1 := h j
          rw [low ((k, v) :: m) j fun e he => by
            rcases List.mem_cons.1 he with rfl | he
            · exact hlt
            · exact Nat.lt_trans hlt (pm.1 e he)] at h1
          simp [get] at h1
          exact absurd h1.symm (wn.2 (j, w) (by simp))
      subst hkj
      have hv := h k
      simp [get] at hv
      subst hv
      have : m = n := by
        apply ih
        · exact (wf_iff d m).2 ⟨pm.2, fun e he => wm.2 e (by simp [he])⟩
        · exact (wf_iff d n).2 ⟨pn.2, fun e he => wn.2 e (by simp [he])⟩
        · intro i
          by_cases hi : i = k
          · subst hi; rw [low m i pm.1, low n i pn.1]
          · have := h i; simpa [get, hi] using this
      rw [this]

end Sys2Proof.Sparse
end

