-- ==== Sys2Proof/Laws/MemWf.lean ====
section
/-! SUPPORT. What the lemmas about the canonical form of memory share: folds over states keep it, and what a next outcome of a core's
or an item's happening is. -/
namespace Sys2Proof.Machine

open Sys2Proof

/-- A fold keeps what each of its steps keeps. -/
theorem foldl_keeps {α β : Type} (P : β → Prop) (g : β → α → β) (hg : ∀ b a, P b → P (g b a)) (l : List α) (b : β) (h : P b) : P (l.foldl g b) := by
  induction l generalizing b with
  | nil => exact h
  | cons a l ih => exact ih _ (hg b a h)
/-- A fold over states keeps the canonical form that each of its steps keeps. -/
theorem foldl_wf {α : Type} (g : State → α → State) (l : List α) (s : State) (h : State.memWf s) (hg : ∀ s a, State.memWf s → State.memWf (g s a)) : State.memWf (l.foldl g s) := foldl_keeps State.memWf g hg l s h
theorem foldl_wf2 {α β : Type} (g : β × State → α → β × State) (l : List α) (p : β × State) (h : State.memWf p.2) (hg : ∀ p a, State.memWf p.2 → State.memWf (g p a).2) : State.memWf (l.foldl g p).2 := foldl_keeps (fun p => State.memWf p.2) g hg l p h
theorem foldl_wf1 {α β : Type} (g : State × β → α → State × β) (l : List α) (p : State × β) (h : State.memWf p.1) (hg : ∀ p a, State.memWf p.1 → State.memWf (g p a).1) : State.memWf (l.foldl g p).1 := foldl_keeps (fun p => State.memWf p.1) g hg l p h
theorem getD_wf (o : Option State) (s : State) (h : State.memWf s) (ho : ∀ z, o = some z → State.memWf z) : State.memWf (o.getD s) := by cases o <;> grind
theorem onCore_eq (s t : State) (f : State → State) (h : onCore s f = .next t) : t = f s := by
  unfold onCore at h; split at h
  · injection h with h; exact h.symm
  · cases h
theorem onItem_eq (i n : Nat) (s t : State) (f : State → State) (h : onItem i n s f = .next t) : t = f s := by
  unfold onItem at h; split at h
  · injection h with h; exact h.symm
  · cases h
theorem next_eq (s t : State) (h : (.next s : Out) = .next t) : t = s := by injection h with h; exact h.symm
/-- What a core's happening leaves. -/
theorem onCore_wf (s : State) (f : State → State) (hs : State.memWf s) (hf : ∀ s, State.memWf s → State.memWf (f s)) : ∀ z, onCore s f = .next z → State.memWf z := by
  intro z h; rw [onCore_eq _ _ _ h]; exact hf s hs
/-- What an item's happening leaves. -/
theorem onItem_wf (i : Nat) (n : Nat) (s : State) (f : State → State) (hs : State.memWf s) (hf : ∀ s, State.memWf s → State.memWf (f s)) : ∀ z, onItem i n s f = .next z → State.memWf z := by
  intro z h; rw [onItem_eq _ _ _ _ _ h]; exact hf s hs

end Sys2Proof.Machine
end

