-- ==== Sys2Proof/Laws/MemAccess.lean ====
section
/-! SUPPORT. Memory stays in its canonical form (State.memWf): one lemma for each of
every operation of the registers, the window, the accesses, the atomics, the moves and the array. -/
namespace Sys2Proof.Machine

open Sys2Proof

theorem State.setCore_wf (s : State) (c : Nat) (k : Core) (hs : State.memWf s) : State.memWf (State.setCore s c k) := by
  unfold State.setCore
  assumption
theorem State.modCore_wf (s : State) (c : Nat) (f : Core → Core) (hs : State.memWf s) : State.memWf (State.modCore s c f) := by
  unfold State.modCore
  repeat' (first | with_reducible assumption | with_reducible apply State.setCore_wf)
theorem State.modMe_wf (s : State) (f : Core → Core) (hs : State.memWf s) : State.memWf (State.modMe s f) := by
  unfold State.modMe
  repeat' (first | with_reducible assumption | with_reducible apply State.modCore_wf)
theorem State.tickFree_wf (s : State) (hs : State.memWf s) : State.memWf (State.tickFree s) := by
  unfold State.tickFree
  assumption
theorem State.freeTime_wf (s : State) (hs : State.memWf s) : State.memWf (State.freeTime s).2 := by
  unfold State.freeTime
  repeat' (first | with_reducible assumption | with_reducible apply State.tickFree_wf)
theorem State.pick_wf (s : State) (n : Nat) (hs : State.memWf s) : State.memWf (State.pick s n).2 := by
  unfold State.pick
  repeat' (first | with_reducible assumption | with_reducible apply State.tickFree_wf)
theorem State.coin_wf (s : State) (hs : State.memWf s) : State.memWf (State.coin s).2 := by
  unfold State.coin
  repeat' (first | with_reducible assumption | with_reducible apply State.tickFree_wf)
theorem State.outside_wf (s : State) (n : Nat) (hs : State.memWf s) : State.memWf (State.outside s n).2 := by
  unfold State.outside
  assumption
theorem State.send_wf (s : State) (m : Msg) (hs : State.memWf s) : State.memWf (State.send s m) := by
  unfold State.send
  assumption
theorem State.ww_wf (s : State) (o : Nat) (v : Word) (hs : State.memWf s) : State.memWf (State.ww s o v) := by
  unfold State.ww
  assumption
theorem State.wwF_wf (s : State) (o : Nat) (lo : Nat) (n : Nat) (v : Nat) (hs : State.memWf s) : State.memWf (State.wwF s o lo n v) := by
  unfold State.wwF
  repeat' (first | with_reducible assumption | with_reducible apply State.ww_wf)
theorem State.wp_wf (s : State) (p : Nat) (i : Nat) (v : Word) (hs : State.memWf s) : State.memWf (State.wp s p i v) := by
  unfold State.wp
  assumption
theorem State.setWu_wf (s : State) (n : Nat) (v : Word) (hs : State.memWf s) : State.memWf (State.setWu s n v) := by
  unfold State.setWu
  repeat' (first | with_reducible assumption | with_reducible apply State.ww_wf)
theorem State.putLine_wf (s : State) (l : L2Line) (hs : State.memWf s) : State.memWf (State.putLine s l) := by
  refine ⟨hs.1, ?_⟩
  have e : (s.putLine l).l2.map (·.line) = s.l2.map (·.line) := by
    unfold State.putLine; simp only [List.map_map]; apply List.map_congr_left; intro m _; simp only [Function.comp]; split <;> simp_all
  rw [e]; exact hs.2
theorem State.dropLine_wf (s : State) (line : Nat) (hs : State.memWf s) : State.memWf (State.dropLine s line) := by
  exact ⟨hs.1, hs.2.sublist (List.filter_sublist.map _)⟩
theorem State.countAccess_wf (s : State) (pa : Nat) (hs : State.memWf s) : State.memWf (State.countAccess s pa) := by
  unfold State.countAccess
  assumption
theorem State.writeBack_wf (s : State) (l : L2Line) (hs : State.memWf s) : State.memWf (State.writeBack s l) := by
  unfold State.writeBack; dsimp only
  split
  · exact State.countAccess_wf _ _ (State.putLine_wf _ _ ⟨Sparse.wf_setBytes _ _ _ hs.1, hs.2⟩)
  · exact hs
theorem State.evict_wf (s : State) (l : L2Line) (hs : State.memWf s) : State.memWf (State.evict s l) := by
  unfold State.evict
  repeat' (first | with_reducible assumption | with_reducible apply State.dropLine_wf | with_reducible apply State.writeBack_wf)
theorem State.setL2occ_wf (s : State) (p : Nat) (t : Nat) (v : Word) (hs : State.memWf s) : State.memWf (State.setL2occ s p t v) := by
  unfold State.setL2occ
  assumption
/-- The lines left by an eviction were there before. -/
theorem State.evict_lines (s : State) (v l : L2Line) (h : l ∈ (s.evict v).l2) : l.line ∈ s.l2.map (·.line) := by
  unfold State.evict State.dropLine at h
  have h := (List.mem_filter.1 h).1
  unfold State.writeBack at h
  split at h
  · simp only [State.countAccess, State.putLine, List.mem_map] at h
    obtain ⟨m, hm, rfl⟩ := h
    refine List.mem_map.2 ⟨m, hm, ?_⟩
    split
    · rename_i e; exact e
    · rfl
  · exact List.mem_map.2 ⟨l, h, rfl⟩
theorem State.takeWay_wf (s : State) (p : Nat) (tag : Nat) (line : Nat) (hs : State.memWf s) : State.memWf (State.takeWay s p tag line).2 := by
  unfold State.takeWay; dsimp only
  repeat' (first | with_reducible assumption | with_reducible apply State.evict_wf | with_reducible apply State.pick_wf | split)
theorem State.putWay_wf (s : State) (p : Nat) (tag : Nat) (line : Nat) (stream : Bool) (n : Nat) (hs : State.memWf s) (hn : line ∉ s.l2.map (·.line)) : State.memWf (State.putWay s p tag line stream n) :=
  ⟨hs.1, List.nodup_cons.2 ⟨hn, hs.2⟩⟩
/-- The lines that are left where a way is made free were there before. -/
theorem State.takeWay_lines (s : State) (p tag line : Nat) (l : L2Line) (h : l ∈ (s.takeWay p tag line).2.l2) : l.line ∈ s.l2.map (·.line) := by
  have mem (h : l ∈ s.l2) : l.line ∈ s.l2.map (·.line) := List.mem_map.2 ⟨l, h, rfl⟩
  unfold State.takeWay at h; dsimp only at h
  split at h
  · exact mem h
  · split at h
    · exact mem h
    · split at h
      · exact State.evict_lines (s.pick _).2 _ _ h
      · exact mem h
theorem State.allocate_wf (s : State) (p : Nat) (tag : Nat) (line : Nat) (stream : Bool) (hs : State.memWf s) : State.memWf (State.allocate s p tag line stream) := by
  unfold State.allocate
  split
  · exact hs
  · rename_i h
    have hn : line ∉ s.l2.map (·.line) := by
      simp only [State.lineOf, List.find?_isSome] at h
      intro hm; obtain ⟨l, hl, he⟩ := List.mem_map.1 hm; exact h ⟨l, hl, by simp [he]⟩
    have ht := State.takeWay_wf s p tag line hs
    have hl := State.takeWay_lines s p tag line
    generalize s.takeWay p tag line = w at ht hl
    obtain ⟨o, t⟩ := w
    cases o with
    | none => exact ht
    | some n =>
      refine State.putWay_wf _ _ _ _ _ _ ht fun hm => hn ?_
      obtain ⟨l, h2, rfl⟩ := List.mem_map.1 hm
      exact hl l h2
theorem State.touch_wf (s : State) (p : Nat) (tag : Nat) (pa : Nat) (ca : Nat) (count : Bool) (hs : State.memWf s) : State.memWf (State.touch s p tag pa ca count) := by
  unfold State.touch; dsimp only
  repeat' (first | with_reducible assumption | with_reducible apply State.allocate_wf | with_reducible apply State.countAccess_wf | split)
theorem State.markBad_wf (s : State) (ms : Bool) (sec : Nat) (hs : State.memWf s) : State.memWf (State.markBad s ms sec) := by
  unfold State.markBad
  repeat' (first | with_reducible assumption | with_reducible apply State.putLine_wf | split)
theorem State.poke_wf (s : State) (ms : Bool) (a : Nat) (bs : List Byte) (hs : State.memWf s) : State.memWf (State.poke s ms a bs) := by
  unfold State.poke; split
  · exact State.putLine_wf _ _ hs
  · exact ⟨Sparse.wf_setBytes _ _ _ hs.1, hs.2⟩
theorem State.unstrike_wf (s : State) (sec : Nat) (hs : State.memWf s) : State.memWf (State.unstrike s sec) := by
  unfold State.unstrike
  repeat' (first | with_reducible assumption | split)
theorem State.mend_wf (s : State) (ms : Bool) (sec : Nat) (hs : State.memWf s) : State.memWf (State.mend s ms sec) := by
  unfold State.mend; dsimp only
  repeat' (first | with_reducible assumption | with_reducible apply State.putLine_wf | with_reducible apply State.unstrike_wf | split)
theorem State.writeSector_wf (s : State) (ms : Bool) (a : Nat) (bs : List Byte) (hs : State.memWf s) : ∀ z, State.writeSector s ms a bs = some z → State.memWf z := by
  unfold State.writeSector; try dsimp only
  repeat' (first | with_reducible assumption | with_reducible apply State.mend_wf | with_reducible apply State.poke_wf | with_reducible apply foldl_wf | with_reducible apply foldl_wf2 | with_reducible apply foldl_wf1 | split | intro _)
  all_goals grind [State.mend_wf, State.poke_wf, foldl_wf, foldl_wf2, foldl_wf1, Sparse.wf_setBytes]
theorem State.writeBytes_wf (s : State) (ms : Bool) (a : Nat) (bs : List Byte) (hs : State.memWf s) : ∀ z, State.writeBytes s ms a bs = some z → State.memWf z := by
  intro z
  exact foldl_keeps (fun o : Option State => ∀ z, o = some z → State.memWf z) _ (by intro o e ho z hz; cases o <;> grind [State.writeSector_wf]) _ (some s) (by grind) z
theorem State.addWalk_wf (s : State) (die : Nat) (p : Nat) (asid : Nat) (root : Nat) (level : Nat) (pre : Nat) (table : Nat) (hs : State.memWf s) : State.memWf (State.addWalk s die p asid root level pre table) := by
  unfold State.addWalk; dsimp only
  repeat' (first | with_reducible assumption | with_reducible apply State.pick_wf | split)
theorem State.enter_wf (s : State) (e : TlbEntry) (hs : State.memWf s) : State.memWf (State.enter s e) := by
  unfold State.enter; dsimp only
  repeat' (first | with_reducible assumption | with_reducible apply State.coin_wf | with_reducible apply State.pick_wf | split)
theorem State.learn_wf (s : State) (cx : Ctx) (va : Nat) (hs : State.memWf s) : State.memWf (State.learn s cx va) := by
  unfold State.learn; dsimp only
  repeat' (first | with_reducible assumption | with_reducible apply State.addWalk_wf | split)
theorem tlbLook_wf (s : State) (cx : Ctx) (need : Need) (va : Nat) (hs : State.memWf s) : State.memWf (tlbLook s cx need va).2 := by
  unfold tlbLook; dsimp only
  repeat' (first | with_reducible assumption | with_reducible apply State.enter_wf | with_reducible apply State.pick_wf | split)
theorem missWalk_wf (s : State) (cx : Ctx) (va : Nat) (hs : State.memWf s) : State.memWf (missWalk s cx va).2 := by
  unfold missWalk; dsimp only
  repeat' (first | with_reducible assumption | with_reducible apply State.coin_wf | split)
theorem State.walkAnswer_wf (s : State) (cx : Ctx) (need : Need) (va : Nat) (r : Except Nat (Leaf × Leaf × TlbEntry)) (hs : State.memWf s) : State.memWf (State.walkAnswer s cx need va r).2 := by
  unfold State.walkAnswer
  repeat' (first | with_reducible assumption | with_reducible apply State.enter_wf | with_reducible apply State.learn_wf | split)
theorem State.invalidateVa_wf (s : State) (cx : Ctx) (asid : Nat) (va : Nat) (hs : State.memWf s) : State.memWf (State.invalidateVa s cx asid va) := by
  unfold State.invalidateVa
  assumption
theorem State.invalidateAll_wf (s : State) (p : Option Nat) (hs : State.memWf s) : State.memWf (State.invalidateAll s p) := by
  unfold State.invalidateAll
  repeat' (first | with_reducible assumption | split)
theorem State.msixSend_wf (s : State) (j : Nat) (fn : Nat) (v : Nat) (hs : State.memWf s) : State.memWf (State.msixSend s j fn v) := by
  unfold State.msixSend; dsimp only
  repeat' (first | with_reducible assumption | with_reducible apply State.send_wf | split)
theorem State.irq_wf (s : State) (p : Nat) (v : Nat) (hs : State.memWf s) : State.memWf (State.irq s p v) := by
  unfold State.irq
  repeat' (first | with_reducible assumption | with_reducible apply State.msixSend_wf | with_reducible apply foldl_wf | with_reducible apply foldl_wf2 | with_reducible apply foldl_wf1 | split | intro _)
theorem State.resetCfg_wf (s : State) (fn : Nat) (hs : State.memWf s) : State.memWf (State.resetCfg s fn) := by
  unfold State.resetCfg
  assumption
theorem State.wake_wf (s : State) (h : Home) (a : Nat) (n : Nat) (val : Nat → Nat) (hs : State.memWf s) : State.memWf (State.wake s h a n val) := by
  unfold State.wake; dsimp only
  repeat' (first | with_reducible assumption | split)
theorem State.putMain_wf (s : State) (ms : Bool) (a : Nat) (bs : List Byte) (hs : State.memWf s) : ∀ z, State.putMain s ms a bs = some z → State.memWf z := by
  intro z h; simp only [State.putMain, Option.map_eq_some_iff] at h; obtain ⟨t, ht, rfl⟩ := h; exact State.wake_wf _ _ _ _ _ (State.writeBytes_wf s ms a bs hs t ht)
theorem State.putParts_wf (s : State) (ms : Bool) (a : Nat) (bs : List Byte) (hs : State.memWf s) : State.memWf (State.putParts s ms a bs).2 := by
  unfold State.putParts
  refine foldl_wf2 _ _ _ hs fun p e hp => ?_
  split
  · exact State.putMain_wf _ _ _ _ hp _ (by assumption)
  · exact hp
theorem State.putClr_wf (s : State) (u : Nat) (a : Nat) (bs : List Byte) (hs : State.memWf s) : ∀ z, State.putClr s u a bs = some z → State.memWf z := by
  unfold State.putClr; try dsimp only
  repeat' (first | with_reducible assumption | with_reducible apply State.wake_wf | with_reducible apply foldl_wf | with_reducible apply foldl_wf2 | with_reducible apply foldl_wf1 | split | intro _)
  all_goals grind [State.wake_wf, foldl_wf, foldl_wf2, foldl_wf1, Sparse.wf_setBytes]
theorem State.flushLine_wf (s : State) (a : Nat) (hs : State.memWf s) : State.memWf (State.flushLine s a) := by
  unfold State.flushLine
  repeat' (first | with_reducible assumption | with_reducible apply State.evict_wf | split)
theorem State.reach_wf (s : State) (ms : Bool) (pa : Nat) (hs : State.memWf s) : State.memWf (State.reach s ms pa) := by
  unfold State.reach
  repeat' (first | with_reducible assumption | with_reducible apply State.countAccess_wf | split)
theorem State.reachRange_wf (s : State) (ms : Bool) (pa : Nat) (n : Nat) (hs : State.memWf s) : State.memWf (State.reachRange s ms pa n) := by
  unfold State.reachRange
  repeat' (first | with_reducible assumption | with_reducible apply State.countAccess_wf | with_reducible apply foldl_wf | with_reducible apply foldl_wf2 | with_reducible apply foldl_wf1 | split | intro _)
theorem State.agentTouch_wf (s : State) (p : Option Nat) (a : Nat) (hs : State.memWf s) : State.memWf (State.agentTouch s p a) := by
  unfold State.agentTouch
  repeat' (first | with_reducible assumption | with_reducible apply State.touch_wf | with_reducible apply foldl_wf | with_reducible apply foldl_wf2 | with_reducible apply foldl_wf1 | split | intro _)
theorem State.overrun_wf (s : State) (p : Nat) (pa : Nat) (src : Nat) (core : Nat) (hs : State.memWf s) : State.memWf (State.overrun s p pa src core) := by
  unfold State.overrun; dsimp only
  repeat' (first | with_reducible assumption | with_reducible apply State.irq_wf | with_reducible apply State.ww_wf | split)
theorem State.ringAddMain_wf (s : State) (ms : Bool) (pa : Nat) (v : Nat) (src : Nat) (core : Nat) (hs : State.memWf s) : ∀ z, State.ringAddMain s ms pa v src core = some z → State.memWf z := by
  unfold State.ringAddMain; try dsimp only
  all_goals grind [State.flushLine_wf, State.overrun_wf, State.putMain_wf, State.reach_wf, foldl_wf, foldl_wf2, foldl_wf1, Sparse.wf_setBytes]
theorem State.ringAddClr_wf (s : State) (u : Nat) (a : Nat) (v : Nat) (src : Nat) (core : Nat) (hs : State.memWf s) : ∀ z, State.ringAddClr s u a v src core = some z → State.memWf z := by
  unfold State.ringAddClr
  dsimp only
  split
  · simp
  · cases h : s.putClr u a (bytesLE 8 (ringSum (s.clrGran u a) v).1) with
    | none => simp
    | some t =>
      have ht := State.putClr_wf s u a _ hs t h
      intro z hz; cases hz
      split
      · exact State.overrun_wf _ _ _ _ _ ht
      · exact ht
theorem State.logMeet_wf (s : State) (p : Option Nat) (reg : Nat) (a : Nat) (pa : Nat) (n : Nat) (hs : State.memWf s) : State.memWf (State.logMeet s p reg a pa n) := by
  unfold State.logMeet
  repeat' (first | with_reducible assumption | with_reducible apply State.agentTouch_wf | with_reducible apply State.reachRange_wf | split)
theorem State.logStore_wf (s : State) (p : Option Nat) (reg : Nat) (a : Nat) (bs : List Byte) (hs : State.memWf s) : State.memWf (State.logStore s p reg a bs).2 := by
  unfold State.logStore; dsimp only
  repeat' (first | with_reducible assumption | with_reducible apply State.logMeet_wf | with_reducible apply State.putParts_wf | with_reducible apply foldl_wf | with_reducible apply foldl_wf2 | with_reducible apply foldl_wf1 | split | intro _)
theorem State.logEntry_wf (s : State) (p : Option Nat) (reg : Nat) (ws : List Word) (hs : State.memWf s) : State.memWf (State.logEntry s p reg ws).1 := by
  unfold State.logEntry; try dsimp only
  all_goals grind [State.logMeet_wf, State.logStore_wf, State.ringAddMain_wf, foldl_wf, foldl_wf2, foldl_wf1, Sparse.wf_setBytes]
theorem State.logIrq_wf (s : State) (p : Option Nat) (reg : Nat) (v : Nat) (hs : State.memWf s) : State.memWf (State.logIrq s p reg v) := by
  unfold State.logIrq
  repeat' (first | with_reducible assumption | with_reducible apply State.irq_wf | split)
theorem State.relEntry_wf (s : State) (p : Option Nat) (ws : List Word) (hs : State.memWf s) : State.memWf (State.relEntry s p ws).1 := by
  unfold State.relEntry
  repeat' (first | with_reducible assumption | with_reducible apply State.logEntry_wf | with_reducible apply State.logIrq_wf)
theorem State.agentFaultN_wf (a : Nat) (a' : State) (a'' : Nat) (a''' : Nat) (a'''' : Nat) (a''''' : Option Nat) (ha' : State.memWf a') : State.memWf (State.agentFaultN a a' a'' a''' a'''' a''''') := by
  induction a generalizing a' a'' a''' a'''' a''''' with
  | zero => exact ha'
  | succ n ih =>
    have put : ∀ (t : State) (q : Option Nat) (ws : List Word), State.memWf t → State.memWf
        (if a''''' = some (relLog q) then t else match t.relEntry q ws with
          | (s, none) => s
          | (s, some x) => State.agentFaultN n s x.addr 5 a'''' (some (relLog q))) := by
      intro t q ws ht
      have hr := State.relEntry_wf t q ws ht
      split
      · exact ht
      · split <;> rename_i e <;> rw [e] at hr
        · exact hr
        · exact ih _ _ _ _ _ hr
    exact put _ _ _ (put _ _ _ ha')
theorem State.agentFault_wf (s : State) (addr : Nat) (code : Nat) (part : Nat) (skip : Option Nat) (hs : State.memWf s) : State.memWf (State.agentFault s addr code part skip) := by
  unfold State.agentFault
  repeat' (first | with_reducible assumption | with_reducible apply State.agentFaultN_wf | split)
theorem State.logPlain_wf (s : State) (p : Option Nat) (reg : Nat) (vec : Option Nat) (ws : List Word) (hs : State.memWf s) : State.memWf (State.logPlain s p reg vec ws).2 := by
  unfold State.logPlain; dsimp only
  repeat' (first | with_reducible assumption | with_reducible apply State.agentFault_wf | with_reducible apply State.logEntry_wf | with_reducible apply State.logIrq_wf | split)
theorem State.bumpRecord_wf (s : State) (p : Option Nat) (kind : Nat) (hs : State.memWf s) : State.memWf (State.bumpRecord s p kind) := by
  unfold State.bumpRecord; dsimp only
  split
  · exact hs
  · split
    · exact hs
    · split
      · exact hs
      · exact getD_wf _ _ hs (State.putMain_wf _ _ _ _ (State.reach_wf _ _ _ hs))
theorem State.memRecord_wf (s : State) (p : Option Nat) (ws : List Word) (kind : Nat) (hs : State.memWf s) : State.memWf (State.memRecord s p ws kind) := by
  unfold State.memRecord; dsimp only
  repeat' (first | with_reducible assumption | with_reducible apply State.bumpRecord_wf | with_reducible apply State.logIrq_wf | with_reducible apply State.logPlain_wf | split)
theorem State.record_wf (s : State) (owner : Option Nat) (addr : Nat) (stack : Nat) (d : Detect) (high : Nat) (hs : State.memWf s) : State.memWf (State.record s owner addr stack d high) := by
  unfold State.record
  repeat' (first | with_reducible assumption | with_reducible apply State.memRecord_wf | split)
theorem State.memErr_wf (s : State) (pa : Nat) (d : Detect) (reqPart : Nat) (high : Nat) (hs : State.memWf s) : State.memWf (State.memErr s pa d reqPart high) := by
  unfold State.memErr
  repeat' (first | with_reducible assumption | with_reducible apply State.record_wf | split)
theorem State.failRecord_wf (s : State) (r : Req) (ms : Bool) (pa : Nat) (hs : State.memWf s) : State.memWf (State.failRecord s r ms pa) := by
  unfold State.failRecord
  repeat' (first | with_reducible assumption | with_reducible apply State.memErr_wf | split)
theorem State.correct_wf (s : State) (r : Req) (ms : Bool) (pa : Nat) (n : Nat) (hs : State.memWf s) : State.memWf (State.correct s r ms pa n) := by
  unfold State.correct
  repeat' (first | with_reducible assumption | with_reducible apply State.memErr_wf | with_reducible apply foldl_wf | with_reducible apply foldl_wf2 | with_reducible apply foldl_wf1 | split | intro _)
theorem State.admits_wf (s : State) (r : Req) (pa : Nat) (hs : State.memWf s) : State.memWf (State.admits s r pa).2 := by
  unfold State.admits
  repeat' (first | with_reducible assumption | with_reducible apply State.memErr_wf | split)
theorem State.agentMet_wf (s : State) (p : Option Nat) (met : Option Nat) (hs : State.memWf s) : State.memWf (State.agentMet s p met) := by
  unfold State.agentMet; dsimp only
  repeat' (first | with_reducible assumption | with_reducible apply State.admits_wf | with_reducible apply State.failRecord_wf | split)
theorem State.agentMeet_wf (s : State) (p : Option Nat) (a : Nat) (pa : Nat) (n : Nat) (hs : State.memWf s) : State.memWf (State.agentMeet s p a pa n) := by
  unfold State.agentMeet
  repeat' (first | with_reducible assumption | with_reducible apply State.agentTouch_wf | with_reducible apply State.correct_wf | with_reducible apply State.reachRange_wf | split)
theorem State.agentRead_wf (s : State) (p : Option Nat) (a : Nat) (n : Nat) (hs : State.memWf s) : State.memWf (State.agentRead s p a n).2 := by
  unfold State.agentRead; dsimp only
  repeat' (first | with_reducible assumption | with_reducible apply State.agentMeet_wf | with_reducible apply State.agentMet_wf | with_reducible apply State.agentTouch_wf | split)
theorem State.agentWrite_wf (s : State) (p : Option Nat) (a : Nat) (bs : List Byte) (hs : State.memWf s) : State.memWf (State.agentWrite s p a bs).2 := by
  unfold State.agentWrite; try dsimp only
  repeat' (first | with_reducible assumption | with_reducible apply State.agentMeet_wf | with_reducible apply State.agentMet_wf | with_reducible apply State.agentTouch_wf | with_reducible apply State.putParts_wf | with_reducible apply foldl_wf | with_reducible apply foldl_wf2 | with_reducible apply foldl_wf1 | split | intro _)
  all_goals grind [State.agentMeet_wf, State.agentMet_wf, State.agentTouch_wf, State.putParts_wf, foldl_wf, foldl_wf2, foldl_wf1, Sparse.wf_setBytes]
theorem State.agentAdd_wf (s : State) (p : Option Nat) (a : Nat) (v : Nat) (hs : State.memWf s) : State.memWf (State.agentAdd s p a v).2 := by
  unfold State.agentAdd; try dsimp only
  all_goals grind [State.agentMeet_wf, State.agentMet_wf, State.agentTouch_wf, State.ringAddMain_wf, foldl_wf, foldl_wf2, foldl_wf1, Sparse.wf_setBytes]
theorem State.log_wf (s : State) (p : Option Nat) (reg : Nat) (vec : Nat) (ws : List Word) (hs : State.memWf s) : State.memWf (State.log s p reg vec ws) := by
  unfold State.log
  repeat' (first | with_reducible assumption | with_reducible apply State.agentMet_wf | with_reducible apply State.logPlain_wf | split)
theorem State.rel_wf (s : State) (p : Option Nat) (ws : List Word) (hs : State.memWf s) : State.memWf (State.rel s p ws) := by
  unfold State.rel
  repeat' (first | with_reducible assumption | with_reducible apply State.log_wf)
theorem State.pmq_wf (s : State) (whom : Option Nat) (word : Word) (frm : Nat) (root : Bool) (hw : Bool) (hs : State.memWf s) : State.memWf (State.pmq s whom word frm root hw) := by
  unfold State.pmq
  repeat' (first | with_reducible assumption | with_reducible apply State.log_wf)
theorem State.pmqHw_wf (s : State) (whom : Option Nat) (type : Nat) (arg : Nat) (hs : State.memWf s) : State.memWf (State.pmqHw s whom type arg) := by
  unfold State.pmqHw
  repeat' (first | with_reducible assumption | with_reducible apply State.pmq_wf)
theorem State.hotCheck_wf (s : State) (pa : Nat) (hs : State.memWf s) : State.memWf (State.hotCheck s pa) := by
  unfold State.hotCheck; dsimp only
  repeat' (first | with_reducible assumption | with_reducible apply State.memErr_wf | split)
theorem State.hotChecks_wf (s : State) (hs : State.memWf s) : State.memWf (State.hotChecks s) := by
  unfold State.hotChecks
  repeat' (first | with_reducible assumption | with_reducible apply State.hotCheck_wf | with_reducible apply foldl_wf | with_reducible apply foldl_wf2 | with_reducible apply foldl_wf1 | split | intro _)
theorem State.countAtomic_wf (s : State) (pa : Nat) (q : Nat) (hs : State.memWf s) : State.memWf (State.countAtomic s pa q) := by
  unfold State.countAtomic; dsimp only
  repeat' (first | with_reducible assumption | with_reducible apply State.log_wf | split)
theorem State.newEpoch_wf (s : State) (p : Nat) (hs : State.memWf s) : State.memWf (State.newEpoch s p) := by
  unfold State.newEpoch
  repeat' (first | with_reducible assumption | split)
theorem State.arrayRead_wf (s : State) (c : Nat) (arr : Nat) (places : List (Nat × Nat)) (hs : State.memWf s) : State.memWf (State.arrayRead s c arr places).2 := by
  unfold State.arrayRead
  repeat' (first | with_reducible assumption | with_reducible apply State.record_wf | with_reducible apply foldl_wf | with_reducible apply foldl_wf2 | with_reducible apply foldl_wf1 | split | intro _)
theorem State.arrayWritten_wf (s : State) (c : Nat) (arr : Nat) (places : List (Nat × Nat)) (hs : State.memWf s) : State.memWf (State.arrayWritten s c arr places) := by
  unfold State.arrayWritten
  repeat' (first | with_reducible assumption | split)
theorem State.scrubArrays_wf (s : State) (hs : State.memWf s) : State.memWf (State.scrubArrays s) := by
  unfold State.scrubArrays
  repeat' (first | with_reducible assumption | with_reducible apply State.markBad_wf | with_reducible apply State.record_wf | with_reducible apply foldl_wf | with_reducible apply foldl_wf2 | with_reducible apply foldl_wf1 | split | intro _)
theorem State.strikeClr_wf (s : State) (r : Req) (u : Nat) (a : Nat) (x : Upset) (hs : State.memWf s) : State.memWf (State.strikeClr s r u a x) := by
  unfold State.strikeClr
  repeat' (first | with_reducible assumption | with_reducible apply State.record_wf | split)
theorem State.failClr_wf (s : State) (r : Req) (u : Nat) (a : Nat) (hs : State.memWf s) : State.memWf (State.failClr s r u a) := by
  unfold State.failClr
  repeat' (first | with_reducible assumption | with_reducible apply State.record_wf | split)
theorem State.strike_wf (s : State) (r : Req) (ms : Bool) (pa : Nat) (l2 : Bool) (u : Upset) (hs : State.memWf s) : State.memWf (State.strike s r ms pa l2 u) := by
  unfold State.strike
  repeat' (first | with_reducible assumption | with_reducible apply State.markBad_wf | with_reducible apply State.memErr_wf | split)
theorem State.meet_wf (s : State) (r : Req) (ca : Nat) (ms : Bool) (pa : Nat) (first : Bool) (hs : State.memWf s) : State.memWf (State.meet s r ca ms pa first) := by
  unfold State.meet
  repeat' (first | with_reducible assumption | with_reducible apply State.correct_wf | with_reducible apply State.countAccess_wf | with_reducible apply State.flushLine_wf | with_reducible apply State.touch_wf | split)
theorem State.readMain_wf (s : State) (r : Req) (ca : Nat) (ms : Bool) (pa : Nat) (n : Nat) (first : Bool) (u : Upset) (hs : State.memWf s) : State.memWf (State.readMain s r ca ms pa n first u).2 := by
  unfold State.readMain; dsimp only
  repeat' (first | with_reducible assumption | with_reducible apply State.admits_wf | with_reducible apply State.failRecord_wf | with_reducible apply State.hotCheck_wf | with_reducible apply State.meet_wf | with_reducible apply State.strike_wf | split)
theorem State.writeMain_wf (s : State) (r : Req) (ca : Nat) (ms : Bool) (pa : Nat) (bs : List Byte) (first : Bool) (u : Upset) (hs : State.memWf s) : State.memWf (State.writeMain s r ca ms pa bs first u).2 := by
  unfold State.writeMain; try dsimp only
  all_goals grind [State.admits_wf, State.failRecord_wf, State.hotCheck_wf, State.meet_wf, State.putMain_wf, State.strike_wf, foldl_wf, foldl_wf2, foldl_wf1, Sparse.wf_setBytes]
theorem State.walkedBy_wf (s : State) (r : Req) (reads : List (Nat × Bool)) (quiet : Bool) (hs : State.memWf s) : State.memWf (State.walkedBy s r reads quiet) := by
  unfold State.walkedBy; dsimp only
  repeat' (first | with_reducible assumption | with_reducible apply State.admits_wf | with_reducible apply State.failRecord_wf | with_reducible apply State.hotCheck_wf | with_reducible apply State.meet_wf | with_reducible apply foldl_wf | with_reducible apply foldl_wf2 | with_reducible apply foldl_wf1 | split | intro _)
theorem State.walked_wf (s : State) (cx : Ctx) (reads : List (Nat × Bool)) (quiet : Bool) (hs : State.memWf s) : State.memWf (State.walked s cx reads quiet) := by
  unfold State.walked
  repeat' (first | with_reducible assumption | with_reducible apply State.walkedBy_wf | split)
theorem State.dirtyKey_wf (s : State) (p : Nat) (key : Option Nat) (gpa : Nat) (hs : State.memWf s) : State.memWf (State.dirtyKey s p key gpa) := by
  unfold State.dirtyKey
  repeat' (first | with_reducible assumption | split)
theorem State.dirty_wf (s : State) (c : Nat) (gpa : Nat) (hs : State.memWf s) : State.memWf (State.dirty s c gpa) := by
  unfold State.dirty
  repeat' (first | with_reducible assumption | with_reducible apply State.dirtyKey_wf | split)
theorem State.dirtyCx_wf (s : State) (cx : Ctx) (gpa : Nat) (hs : State.memWf s) : State.memWf (State.dirtyCx s cx gpa) := by
  unfold State.dirtyCx
  repeat' (first | with_reducible assumption | with_reducible apply State.dirtyKey_wf | with_reducible apply State.dirty_wf | split)
theorem State.dirtyAt_wf (s : State) (c : Nat) (gpa : Nat) (h : Home) (hs : State.memWf s) : State.memWf (State.dirtyAt s c gpa h) := by
  unfold State.dirtyAt
  repeat' (first | with_reducible assumption | with_reducible apply State.dirty_wf | split)
theorem State.sysWrite_wf (s : State) (c : Nat) (i : Nat) (v : Word) (hs : State.memWf s) : State.memWf (State.sysWrite s c i v) := by
  unfold State.sysWrite; dsimp only
  repeat' (first | with_reducible assumption | with_reducible apply State.modCore_wf | with_reducible apply State.newEpoch_wf | with_reducible apply State.wp_wf | split)
theorem State.issue_wf (s : State) (i : Instr) (n : Nat) (f : Core → Op → Op) (hs : State.memWf s) : State.memWf (State.issue s i n f) := by
  unfold State.issue
  repeat' (first | with_reducible assumption | with_reducible apply State.modMe_wf)
theorem issueRR_wf (i : Instr) (n : Nat) (d : BitVec 6) (a : BitVec 6) (b : BitVec 6) (s : State) (hs : State.memWf s) : State.memWf (issueRR i n d a b s) := by
  unfold issueRR
  repeat' (first | with_reducible assumption | with_reducible apply State.issue_wf)
theorem issueRI_wf (i : Instr) (d : BitVec 6) (a : BitVec 6) (s : State) (hs : State.memWf s) : State.memWf (issueRI i d a s) := by
  unfold issueRI
  repeat' (first | with_reducible assumption | with_reducible apply State.issue_wf)
theorem issueDiv_wf (i : Instr) (d : BitVec 6) (a : BitVec 6) (b : BitVec 6) (s : State) (hs : State.memWf s) : State.memWf (issueDiv i d a b s) := by
  unfold issueDiv
  repeat' (first | with_reducible assumption | with_reducible apply State.modMe_wf | with_reducible apply issueRR_wf)
theorem issueVal_wf (i : Instr) (n : Nat) (d : BitVec 6) (w1 : Word) (v : Core → Word) (s : State) (hs : State.memWf s) : State.memWf (issueVal i n d w1 v s) := by
  unfold issueVal
  repeat' (first | with_reducible assumption | with_reducible apply State.issue_wf)
theorem branchIf_wf (cond : Word → Word → Bool) (a : BitVec 6) (b : BitVec 6) (off : BitVec 12) (s : State) (hs : State.memWf s) : State.memWf (branchIf cond a b off s) := by
  unfold branchIf
  repeat' (first | with_reducible assumption | with_reducible apply State.modMe_wf | split)
theorem guardLevel_wf (i : Instr) (s : State) (f : State → State) (hs : State.memWf s) (hf : ∀ (x0 : State), State.memWf x0 → State.memWf (f x0)) : State.memWf (guardLevel i s f) := by
  unfold guardLevel; try dsimp only
  repeat' (first | with_reducible assumption | with_reducible apply State.modMe_wf | with_reducible apply foldl_wf | with_reducible apply foldl_wf2 | with_reducible apply foldl_wf1 | split | intro _)
  all_goals grind [State.modMe_wf, foldl_wf, foldl_wf2, foldl_wf1, Sparse.wf_setBytes]
theorem execAdd_wf (d : BitVec 6) (a : BitVec 6) (b : BitVec 6) (s : State) (hs : State.memWf s) : ∀ z, execAdd d a b s = .next z → State.memWf z := by
  unfold execAdd
  refine onCore_wf _ _ hs fun _ _ => ?_
  repeat' (first | with_reducible assumption | with_reducible apply issueRR_wf)
theorem execSub_wf (d : BitVec 6) (a : BitVec 6) (b : BitVec 6) (s : State) (hs : State.memWf s) : ∀ z, execSub d a b s = .next z → State.memWf z := by
  unfold execSub
  refine onCore_wf _ _ hs fun _ _ => ?_
  repeat' (first | with_reducible assumption | with_reducible apply issueRR_wf)
theorem execAnd_wf (d : BitVec 6) (a : BitVec 6) (b : BitVec 6) (s : State) (hs : State.memWf s) : ∀ z, execAnd d a b s = .next z → State.memWf z := by
  unfold execAnd
  refine onCore_wf _ _ hs fun _ _ => ?_
  repeat' (first | with_reducible assumption | with_reducible apply issueRR_wf)
theorem execOr_wf (d : BitVec 6) (a : BitVec 6) (b : BitVec 6) (s : State) (hs : State.memWf s) : ∀ z, execOr d a b s = .next z → State.memWf z := by
  unfold execOr
  refine onCore_wf _ _ hs fun _ _ => ?_
  repeat' (first | with_reducible assumption | with_reducible apply issueRR_wf)
theorem execXor_wf (d : BitVec 6) (a : BitVec 6) (b : BitVec 6) (s : State) (hs : State.memWf s) : ∀ z, execXor d a b s = .next z → State.memWf z := by
  unfold execXor
  refine onCore_wf _ _ hs fun _ _ => ?_
  repeat' (first | with_reducible assumption | with_reducible apply issueRR_wf)
theorem execAndn_wf (d : BitVec 6) (a : BitVec 6) (b : BitVec 6) (s : State) (hs : State.memWf s) : ∀ z, execAndn d a b s = .next z → State.memWf z := by
  unfold execAndn
  refine onCore_wf _ _ hs fun _ _ => ?_
  repeat' (first | with_reducible assumption | with_reducible apply issueRR_wf)
theorem execSll_wf (d : BitVec 6) (a : BitVec 6) (b : BitVec 6) (s : State) (hs : State.memWf s) : ∀ z, execSll d a b s = .next z → State.memWf z := by
  unfold execSll
  refine onCore_wf _ _ hs fun _ _ => ?_
  repeat' (first | with_reducible assumption | with_reducible apply issueRR_wf)
theorem execSrl_wf (d : BitVec 6) (a : BitVec 6) (b : BitVec 6) (s : State) (hs : State.memWf s) : ∀ z, execSrl d a b s = .next z → State.memWf z := by
  unfold execSrl
  refine onCore_wf _ _ hs fun _ _ => ?_
  repeat' (first | with_reducible assumption | with_reducible apply issueRR_wf)
theorem execSra_wf (d : BitVec 6) (a : BitVec 6) (b : BitVec 6) (s : State) (hs : State.memWf s) : ∀ z, execSra d a b s = .next z → State.memWf z := by
  unfold execSra
  refine onCore_wf _ _ hs fun _ _ => ?_
  repeat' (first | with_reducible assumption | with_reducible apply issueRR_wf)
theorem execSlt_wf (d : BitVec 6) (a : BitVec 6) (b : BitVec 6) (s : State) (hs : State.memWf s) : ∀ z, execSlt d a b s = .next z → State.memWf z := by
  unfold execSlt
  refine onCore_wf _ _ hs fun _ _ => ?_
  repeat' (first | with_reducible assumption | with_reducible apply issueRR_wf)
theorem execSltu_wf (d : BitVec 6) (a : BitVec 6) (b : BitVec 6) (s : State) (hs : State.memWf s) : ∀ z, execSltu d a b s = .next z → State.memWf z := by
  unfold execSltu
  refine onCore_wf _ _ hs fun _ _ => ?_
  repeat' (first | with_reducible assumption | with_reducible apply issueRR_wf)
theorem execSeq_wf (d : BitVec 6) (a : BitVec 6) (b : BitVec 6) (s : State) (hs : State.memWf s) : ∀ z, execSeq d a b s = .next z → State.memWf z := by
  unfold execSeq
  refine onCore_wf _ _ hs fun _ _ => ?_
  repeat' (first | with_reducible assumption | with_reducible apply issueRR_wf)
theorem execMin_wf (d : BitVec 6) (a : BitVec 6) (b : BitVec 6) (s : State) (hs : State.memWf s) : ∀ z, execMin d a b s = .next z → State.memWf z := by
  unfold execMin
  refine onCore_wf _ _ hs fun _ _ => ?_
  repeat' (first | with_reducible assumption | with_reducible apply issueRR_wf)
theorem execMax_wf (d : BitVec 6) (a : BitVec 6) (b : BitVec 6) (s : State) (hs : State.memWf s) : ∀ z, execMax d a b s = .next z → State.memWf z := by
  unfold execMax
  refine onCore_wf _ _ hs fun _ _ => ?_
  repeat' (first | with_reducible assumption | with_reducible apply issueRR_wf)
theorem execMinu_wf (d : BitVec 6) (a : BitVec 6) (b : BitVec 6) (s : State) (hs : State.memWf s) : ∀ z, execMinu d a b s = .next z → State.memWf z := by
  unfold execMinu
  refine onCore_wf _ _ hs fun _ _ => ?_
  repeat' (first | with_reducible assumption | with_reducible apply issueRR_wf)
theorem execMaxu_wf (d : BitVec 6) (a : BitVec 6) (b : BitVec 6) (s : State) (hs : State.memWf s) : ∀ z, execMaxu d a b s = .next z → State.memWf z := by
  unfold execMaxu
  refine onCore_wf _ _ hs fun _ _ => ?_
  repeat' (first | with_reducible assumption | with_reducible apply issueRR_wf)
theorem execMul_wf (d : BitVec 6) (a : BitVec 6) (b : BitVec 6) (s : State) (hs : State.memWf s) : ∀ z, execMul d a b s = .next z → State.memWf z := by
  unfold execMul
  refine onCore_wf _ _ hs fun _ _ => ?_
  repeat' (first | with_reducible assumption | with_reducible apply issueRR_wf)
theorem execMulh_wf (d : BitVec 6) (a : BitVec 6) (b : BitVec 6) (s : State) (hs : State.memWf s) : ∀ z, execMulh d a b s = .next z → State.memWf z := by
  unfold execMulh
  refine onCore_wf _ _ hs fun _ _ => ?_
  repeat' (first | with_reducible assumption | with_reducible apply issueRR_wf)
theorem execMulhu_wf (d : BitVec 6) (a : BitVec 6) (b : BitVec 6) (s : State) (hs : State.memWf s) : ∀ z, execMulhu d a b s = .next z → State.memWf z := by
  unfold execMulhu
  refine onCore_wf _ _ hs fun _ _ => ?_
  repeat' (first | with_reducible assumption | with_reducible apply issueRR_wf)
theorem execDiv_wf (d : BitVec 6) (a : BitVec 6) (b : BitVec 6) (s : State) (hs : State.memWf s) : ∀ z, execDiv d a b s = .next z → State.memWf z := by
  unfold execDiv
  refine onCore_wf _ _ hs fun _ _ => ?_
  repeat' (first | with_reducible assumption | with_reducible apply issueDiv_wf)
theorem execDivu_wf (d : BitVec 6) (a : BitVec 6) (b : BitVec 6) (s : State) (hs : State.memWf s) : ∀ z, execDivu d a b s = .next z → State.memWf z := by
  unfold execDivu
  refine onCore_wf _ _ hs fun _ _ => ?_
  repeat' (first | with_reducible assumption | with_reducible apply issueDiv_wf)
theorem execRem_wf (d : BitVec 6) (a : BitVec 6) (b : BitVec 6) (s : State) (hs : State.memWf s) : ∀ z, execRem d a b s = .next z → State.memWf z := by
  unfold execRem
  refine onCore_wf _ _ hs fun _ _ => ?_
  repeat' (first | with_reducible assumption | with_reducible apply issueDiv_wf)
theorem execRemu_wf (d : BitVec 6) (a : BitVec 6) (b : BitVec 6) (s : State) (hs : State.memWf s) : ∀ z, execRemu d a b s = .next z → State.memWf z := by
  unfold execRemu
  refine onCore_wf _ _ hs fun _ _ => ?_
  repeat' (first | with_reducible assumption | with_reducible apply issueDiv_wf)
theorem execClz_wf (d : BitVec 6) (a : BitVec 6) (s : State) (hs : State.memWf s) : ∀ z, execClz d a s = .next z → State.memWf z := by
  unfold execClz
  refine onCore_wf _ _ hs fun _ _ => ?_
  repeat' (first | with_reducible assumption | with_reducible apply issueRI_wf)
theorem execCtz_wf (d : BitVec 6) (a : BitVec 6) (s : State) (hs : State.memWf s) : ∀ z, execCtz d a s = .next z → State.memWf z := by
  unfold execCtz
  refine onCore_wf _ _ hs fun _ _ => ?_
  repeat' (first | with_reducible assumption | with_reducible apply issueRI_wf)
theorem execPopc_wf (d : BitVec 6) (a : BitVec 6) (s : State) (hs : State.memWf s) : ∀ z, execPopc d a s = .next z → State.memWf z := by
  unfold execPopc
  refine onCore_wf _ _ hs fun _ _ => ?_
  repeat' (first | with_reducible assumption | with_reducible apply issueRI_wf)
theorem execAddi_wf (d : BitVec 6) (a : BitVec 6) (imm : BitVec 12) (s : State) (hs : State.memWf s) : ∀ z, execAddi d a imm s = .next z → State.memWf z := by
  unfold execAddi
  refine onCore_wf _ _ hs fun _ _ => ?_
  repeat' (first | with_reducible assumption | with_reducible apply issueRI_wf)
theorem execAndi_wf (d : BitVec 6) (a : BitVec 6) (imm : BitVec 12) (s : State) (hs : State.memWf s) : ∀ z, execAndi d a imm s = .next z → State.memWf z := by
  unfold execAndi
  refine onCore_wf _ _ hs fun _ _ => ?_
  repeat' (first | with_reducible assumption | with_reducible apply issueRI_wf)
theorem execOri_wf (d : BitVec 6) (a : BitVec 6) (imm : BitVec 12) (s : State) (hs : State.memWf s) : ∀ z, execOri d a imm s = .next z → State.memWf z := by
  unfold execOri
  refine onCore_wf _ _ hs fun _ _ => ?_
  repeat' (first | with_reducible assumption | with_reducible apply issueRI_wf)
theorem execXori_wf (d : BitVec 6) (a : BitVec 6) (imm : BitVec 12) (s : State) (hs : State.memWf s) : ∀ z, execXori d a imm s = .next z → State.memWf z := by
  unfold execXori
  refine onCore_wf _ _ hs fun _ _ => ?_
  repeat' (first | with_reducible assumption | with_reducible apply issueRI_wf)
theorem execSlti_wf (d : BitVec 6) (a : BitVec 6) (imm : BitVec 12) (s : State) (hs : State.memWf s) : ∀ z, execSlti d a imm s = .next z → State.memWf z := by
  unfold execSlti
  refine onCore_wf _ _ hs fun _ _ => ?_
  repeat' (first | with_reducible assumption | with_reducible apply issueRI_wf)
theorem execSltiu_wf (d : BitVec 6) (a : BitVec 6) (imm : BitVec 12) (s : State) (hs : State.memWf s) : ∀ z, execSltiu d a imm s = .next z → State.memWf z := by
  unfold execSltiu
  refine onCore_wf _ _ hs fun _ _ => ?_
  repeat' (first | with_reducible assumption | with_reducible apply issueRI_wf)
theorem execSlli_wf (d : BitVec 6) (a : BitVec 6) (sh : BitVec 6) (s : State) (hs : State.memWf s) : ∀ z, execSlli d a sh s = .next z → State.memWf z := by
  unfold execSlli
  refine onCore_wf _ _ hs fun _ _ => ?_
  repeat' (first | with_reducible assumption | with_reducible apply issueRI_wf)
theorem execSrli_wf (d : BitVec 6) (a : BitVec 6) (sh : BitVec 6) (s : State) (hs : State.memWf s) : ∀ z, execSrli d a sh s = .next z → State.memWf z := by
  unfold execSrli
  refine onCore_wf _ _ hs fun _ _ => ?_
  repeat' (first | with_reducible assumption | with_reducible apply issueRI_wf)
theorem execSrai_wf (d : BitVec 6) (a : BitVec 6) (sh : BitVec 6) (s : State) (hs : State.memWf s) : ∀ z, execSrai d a sh s = .next z → State.memWf z := by
  unfold execSrai
  refine onCore_wf _ _ hs fun _ _ => ?_
  repeat' (first | with_reducible assumption | with_reducible apply issueRI_wf)
theorem execLi_wf (d : BitVec 6) (imm : BitVec 18) (s : State) (hs : State.memWf s) : ∀ z, execLi d imm s = .next z → State.memWf z := by
  unfold execLi
  refine onCore_wf _ _ hs fun _ _ => ?_
  repeat' (first | with_reducible assumption | with_reducible apply issueVal_wf)
theorem execLui_wf (d : BitVec 6) (imm : BitVec 18) (s : State) (hs : State.memWf s) : ∀ z, execLui d imm s = .next z → State.memWf z := by
  unfold execLui
  refine onCore_wf _ _ hs fun _ _ => ?_
  repeat' (first | with_reducible assumption | with_reducible apply issueVal_wf)
theorem execLsh_wf (d : BitVec 6) (imm : BitVec 18) (s : State) (hs : State.memWf s) : ∀ z, execLsh d imm s = .next z → State.memWf z := by
  unfold execLsh
  refine onCore_wf _ _ hs fun _ _ => ?_
  repeat' (first | with_reducible assumption | with_reducible apply State.issue_wf)
theorem execBeq_wf (a : BitVec 6) (b : BitVec 6) (off : BitVec 12) (s : State) (hs : State.memWf s) : ∀ z, execBeq a b off s = .next z → State.memWf z := by
  unfold execBeq
  refine onCore_wf _ _ hs fun _ _ => ?_
  repeat' (first | with_reducible assumption | with_reducible apply branchIf_wf)
theorem execBne_wf (a : BitVec 6) (b : BitVec 6) (off : BitVec 12) (s : State) (hs : State.memWf s) : ∀ z, execBne a b off s = .next z → State.memWf z := by
  unfold execBne
  refine onCore_wf _ _ hs fun _ _ => ?_
  repeat' (first | with_reducible assumption | with_reducible apply branchIf_wf)
theorem execBlt_wf (a : BitVec 6) (b : BitVec 6) (off : BitVec 12) (s : State) (hs : State.memWf s) : ∀ z, execBlt a b off s = .next z → State.memWf z := by
  unfold execBlt
  refine onCore_wf _ _ hs fun _ _ => ?_
  repeat' (first | with_reducible assumption | with_reducible apply branchIf_wf)
theorem execBge_wf (a : BitVec 6) (b : BitVec 6) (off : BitVec 12) (s : State) (hs : State.memWf s) : ∀ z, execBge a b off s = .next z → State.memWf z := by
  unfold execBge
  refine onCore_wf _ _ hs fun _ _ => ?_
  repeat' (first | with_reducible assumption | with_reducible apply branchIf_wf)
theorem execBltu_wf (a : BitVec 6) (b : BitVec 6) (off : BitVec 12) (s : State) (hs : State.memWf s) : ∀ z, execBltu a b off s = .next z → State.memWf z := by
  unfold execBltu
  refine onCore_wf _ _ hs fun _ _ => ?_
  repeat' (first | with_reducible assumption | with_reducible apply branchIf_wf)
theorem execBgeu_wf (a : BitVec 6) (b : BitVec 6) (off : BitVec 12) (s : State) (hs : State.memWf s) : ∀ z, execBgeu a b off s = .next z → State.memWf z := by
  unfold execBgeu
  refine onCore_wf _ _ hs fun _ _ => ?_
  repeat' (first | with_reducible assumption | with_reducible apply branchIf_wf)
theorem execJ_wf (off : BitVec 24) (s : State) (hs : State.memWf s) : ∀ z, execJ off s = .next z → State.memWf z := by
  unfold execJ
  refine onCore_wf _ _ hs fun _ _ => ?_
  repeat' (first | with_reducible assumption | with_reducible apply State.modMe_wf)
theorem execJl_wf (d : BitVec 6) (off : BitVec 18) (s : State) (hs : State.memWf s) : ∀ z, execJl d off s = .next z → State.memWf z := by
  unfold execJl
  refine onCore_wf _ _ hs fun _ _ => ?_
  repeat' (first | with_reducible assumption | with_reducible apply State.modMe_wf | with_reducible apply issueVal_wf)
theorem execJr_wf (a : BitVec 6) (s : State) (hs : State.memWf s) : ∀ z, execJr a s = .next z → State.memWf z := by
  unfold execJr
  refine onCore_wf _ _ hs fun _ _ => ?_
  repeat' (first | with_reducible assumption | with_reducible apply State.modMe_wf)
theorem execJlr_wf (d : BitVec 6) (a : BitVec 6) (s : State) (hs : State.memWf s) : ∀ z, execJlr d a s = .next z → State.memWf z := by
  unfold execJlr
  refine onCore_wf _ _ hs fun _ _ => ?_
  repeat' (first | with_reducible assumption | with_reducible apply State.modMe_wf | with_reducible apply issueVal_wf)
theorem issueLoop_wf (i : Instr) (xa : Word) (cnt : Nat) (s : State) (hs : State.memWf s) : State.memWf (issueLoop i xa cnt s) := by
  unfold issueLoop
  repeat' (first | with_reducible assumption | with_reducible apply State.issue_wf | split)
theorem execLoop_wf (n : BitVec 2) (a : BitVec 6) (off : BitVec 12) (s : State) (hs : State.memWf s) : ∀ z, execLoop n a off s = .next z → State.memWf z := by
  unfold execLoop
  refine onCore_wf _ _ hs fun _ _ => ?_
  repeat' (first | with_reducible assumption | with_reducible apply issueLoop_wf)
theorem execLoopi_wf (n : BitVec 2) (cnt : BitVec 10) (off : BitVec 12) (s : State) (hs : State.memWf s) : ∀ z, execLoopi n cnt off s = .next z → State.memWf z := by
  unfold execLoopi
  refine onCore_wf _ _ hs fun _ _ => ?_
  repeat' (first | with_reducible assumption | with_reducible apply issueLoop_wf)
theorem execLcrd_wf (d : BitVec 6) (n : BitVec 2) (s : State) (hs : State.memWf s) : ∀ z, execLcrd d n s = .next z → State.memWf z := by
  unfold execLcrd
  refine onCore_wf _ _ hs fun _ _ => ?_
  repeat' (first | with_reducible assumption | with_reducible apply issueVal_wf)
theorem execAgbase_wf (n : BitVec 2) (a : BitVec 6) (s : State) (hs : State.memWf s) : ∀ z, execAgbase n a s = .next z → State.memWf z := by
  unfold execAgbase
  refine onCore_wf _ _ hs fun _ _ => ?_
  repeat' (first | with_reducible assumption | with_reducible apply State.issue_wf)
theorem execAgstep_wf (n : BitVec 2) (a : BitVec 6) (s : State) (hs : State.memWf s) : ∀ z, execAgstep n a s = .next z → State.memWf z := by
  unfold execAgstep
  refine onCore_wf _ _ hs fun _ _ => ?_
  repeat' (first | with_reducible assumption | with_reducible apply State.issue_wf)
theorem execAgwrap_wf (n : BitVec 2) (a : BitVec 6) (s : State) (hs : State.memWf s) : ∀ z, execAgwrap n a s = .next z → State.memWf z := by
  unfold execAgwrap
  refine onCore_wf _ _ hs fun _ _ => ?_
  repeat' (first | with_reducible assumption | with_reducible apply State.issue_wf)
theorem execAgrd_wf (d : BitVec 6) (n : BitVec 2) (s : State) (hs : State.memWf s) : ∀ z, execAgrd d n s = .next z → State.memWf z := by
  unfold execAgrd
  refine onCore_wf _ _ hs fun _ _ => ?_
  repeat' (first | with_reducible assumption | with_reducible apply issueVal_wf)
theorem execSrrd_wf (d : BitVec 6) (sys : BitVec 12) (s : State) (hs : State.memWf s) : ∀ z, execSrrd d sys s = .next z → State.memWf z := by
  intro z h; unfold execSrrd at h
  have h := (onCore_eq _ _ _ h : z = _)
  subst h; try dsimp only
  repeat' (first | with_reducible assumption | with_reducible apply guardLevel_wf | with_reducible apply issueVal_wf | with_reducible apply foldl_wf | with_reducible apply foldl_wf2 | with_reducible apply foldl_wf1 | split | intro _)
theorem execCntrdLoRead_wf (s : State) (hs : State.memWf s) : ∀ z, execCntrdLoRead s = .next z → State.memWf z := by
  unfold execCntrdLoRead
  refine onCore_wf _ _ hs fun _ _ => ?_
  repeat' (first | with_reducible assumption | with_reducible apply State.modMe_wf)
theorem execSrwr_wf (sys : BitVec 12) (a : BitVec 6) (s : State) (hs : State.memWf s) : ∀ z, execSrwr sys a s = .next z → State.memWf z := by
  intro z h; unfold execSrwr at h
  have h := (onCore_eq _ _ _ h : z = _)
  subst h; try dsimp only
  repeat' (first | with_reducible assumption | with_reducible apply State.issue_wf | with_reducible apply guardLevel_wf | with_reducible apply foldl_wf | with_reducible apply foldl_wf2 | with_reducible apply foldl_wf1 | split | intro _)
theorem execSrset_wf (sys : BitVec 12) (a : BitVec 6) (s : State) (hs : State.memWf s) : ∀ z, execSrset sys a s = .next z → State.memWf z := by
  intro z h; unfold execSrset at h
  have h := (onCore_eq _ _ _ h : z = _)
  subst h; try dsimp only
  repeat' (first | with_reducible assumption | with_reducible apply State.issue_wf | with_reducible apply guardLevel_wf | with_reducible apply foldl_wf | with_reducible apply foldl_wf2 | with_reducible apply foldl_wf1 | split | intro _)
theorem execSrclr_wf (sys : BitVec 12) (a : BitVec 6) (s : State) (hs : State.memWf s) : ∀ z, execSrclr sys a s = .next z → State.memWf z := by
  intro z h; unfold execSrclr at h
  have h := (onCore_eq _ _ _ h : z = _)
  subst h; try dsimp only
  repeat' (first | with_reducible assumption | with_reducible apply State.issue_wf | with_reducible apply guardLevel_wf | with_reducible apply foldl_wf | with_reducible apply foldl_wf2 | with_reducible apply foldl_wf1 | split | intro _)
theorem execTrap_wf (imm : BitVec 12) (s : State) (hs : State.memWf s) : ∀ z, execTrap imm s = .next z → State.memWf z := by
  unfold execTrap
  refine onCore_wf _ _ hs fun _ _ => ?_
  repeat' (first | with_reducible assumption | with_reducible apply State.modMe_wf)
theorem execBrk_wf (imm : BitVec 12) (s : State) (hs : State.memWf s) : ∀ z, execBrk imm s = .next z → State.memWf z := by
  unfold execBrk
  refine onCore_wf _ _ hs fun _ _ => ?_
  repeat' (first | with_reducible assumption | with_reducible apply State.modMe_wf)
theorem execDone_wf (s : State) (hs : State.memWf s) : ∀ z, execDone s = .next z → State.memWf z := by
  unfold execDone
  refine onCore_wf _ _ hs fun _ _ => ?_
  repeat' (first | with_reducible assumption | with_reducible apply State.modMe_wf)
theorem execResume_wf (s : State) (hs : State.memWf s) : ∀ z, execResume s = .next z → State.memWf z := by
  intro z h; unfold execResume at h
  have h := (onCore_eq _ _ _ h : z = _)
  subst h; try dsimp only
  repeat' (first | with_reducible assumption | with_reducible apply State.modMe_wf | with_reducible apply guardLevel_wf | with_reducible apply foldl_wf | with_reducible apply foldl_wf2 | with_reducible apply foldl_wf1 | split | intro _)
theorem gsFault_wf (i : Instr) (xa : Word) (s : State) (hs : State.memWf s) : State.memWf (gsFault i xa s) := by
  unfold gsFault
  repeat' (first | with_reducible assumption | with_reducible apply State.issue_wf)
theorem execGsres_wf (a : BitVec 6) (s : State) (hs : State.memWf s) : ∀ z, execGsres a s = .next z → State.memWf z := by
  unfold execGsres
  refine onCore_wf _ _ hs fun _ _ => ?_
  repeat' (first | with_reducible assumption | with_reducible apply gsFault_wf | split)
theorem execGsend_wf (s : State) (hs : State.memWf s) : ∀ z, execGsend s = .next z → State.memWf z := by
  unfold execGsend
  refine onCore_wf _ _ hs fun _ _ => ?_
  repeat' (first | with_reducible assumption | with_reducible apply State.modMe_wf | with_reducible apply gsFault_wf | split)
theorem State.setOp_wf (s : State) (c : Nat) (o : Op) (hs : State.memWf s) : State.memWf (State.setOp s c o) := by
  unfold State.setOp
  repeat' (first | with_reducible assumption | with_reducible apply State.modCore_wf | split)
theorem State.dropOp_wf (s : State) (c : Nat) (id : Nat) (hs : State.memWf s) : State.memWf (State.dropOp s c id) := by
  unfold State.dropOp
  repeat' (first | with_reducible assumption | with_reducible apply State.modCore_wf)
theorem State.failOp_wf (s : State) (c : Nat) (o : Op) (cause : Nat) (hs : State.memWf s) : State.memWf (State.failOp s c o cause) := by
  unfold State.failOp
  repeat' (first | with_reducible assumption | with_reducible apply State.setOp_wf)
theorem State.addAts_wf (s : State) (e : AtsEntry) (hs : State.memWf s) : State.memWf (State.addAts s e) := by
  unfold State.addAts; dsimp only
  repeat' (first | with_reducible assumption | with_reducible apply State.pick_wf | split)
theorem State.denyPage_wf (s : State) (link : Nat) (page : Nat) (hs : State.memWf s) : State.memWf (State.denyPage s link page).2 := by
  unfold State.denyPage
  assumption
theorem State.hostHome_wf (s : State) (p : Nat) (ca : Nat) (pa : Nat) (hs : State.memWf s) : State.memWf (State.hostHome s p ca pa).2 := by
  unfold State.hostHome; dsimp only
  repeat' (first | with_reducible assumption | with_reducible apply State.addAts_wf | with_reducible apply State.coin_wf | with_reducible apply State.denyPage_wf | with_reducible apply State.outside_wf | with_reducible apply State.send_wf | split)
theorem State.homeOf_wf (s : State) (p : Nat) (e : TlbEntry) (pa : Nat) (hs : State.memWf s) : State.memWf (State.homeOf s p e pa).2 := by
  unfold State.homeOf
  repeat' (first | with_reducible assumption | with_reducible apply State.hostHome_wf | split)
theorem State.mergeMisses_wf (s : State) (cx : Ctx) (va : Nat) (r : Except Nat (Leaf × Leaf × TlbEntry)) (hs : State.memWf s) : State.memWf (State.mergeMisses s cx va r) := by
  unfold State.mergeMisses; dsimp only
  repeat' (first | with_reducible assumption | split)
theorem State.xlate_wf (s : State) (cx : Ctx) (need : Need) (va : Nat) (quiet : Bool) (hs : State.memWf s) : State.memWf (State.xlate s cx need va quiet).2 := by
  unfold State.xlate; try dsimp only
  repeat' (first | with_reducible assumption | with_reducible apply State.mergeMisses_wf | with_reducible apply State.walkAnswer_wf | with_reducible apply State.walked_wf | with_reducible apply missWalk_wf | with_reducible apply tlbLook_wf | with_reducible apply foldl_wf | with_reducible apply foldl_wf2 | with_reducible apply foldl_wf1 | split | intro _)
  all_goals grind [State.mergeMisses_wf, State.walkAnswer_wf, State.walked_wf, missWalk_wf, tlbLook_wf, foldl_wf, foldl_wf2, foldl_wf1, Sparse.wf_setBytes]
theorem State.route_wf (s : State) (cx : Ctx) (need : Need) (va : Nat) (hs : State.memWf s) : State.memWf (State.route s cx need va).2 := by
  unfold State.route; try dsimp only
  repeat' (first | with_reducible assumption | with_reducible apply State.homeOf_wf | with_reducible apply State.xlate_wf | with_reducible apply foldl_wf | with_reducible apply foldl_wf2 | with_reducible apply foldl_wf1 | split | intro _)
  all_goals grind [State.homeOf_wf, State.xlate_wf, foldl_wf, foldl_wf2, foldl_wf1, Sparse.wf_setBytes]
theorem routePart_wf (cx : Ctx) (need : Need) (store : Bool) (t : Nat) (st : Routing × State) (e : Nat × Nat × Nat) (hst : State.memWf st.2) : State.memWf (routePart cx need store t st e).2 := by
  unfold routePart; dsimp only
  repeat' (first | with_reducible assumption | with_reducible apply State.freeTime_wf | with_reducible apply State.route_wf | split)
theorem State.routeParts_wf (s : State) (cx : Ctx) (need : Need) (store : Bool) (t : Nat) (wait : Nat) (parts : List (Nat × Nat × Nat)) (hs : State.memWf s) : State.memWf (State.routeParts s cx need store t wait parts).2 := by
  unfold State.routeParts
  repeat' (first | with_reducible assumption | with_reducible apply routePart_wf | with_reducible apply foldl_wf | with_reducible apply foldl_wf2 | with_reducible apply foldl_wf1 | split | intro _)
theorem State.issueAccess_wf (s : State) (i : Instr) (f : Form) (a : Word) (fill : Op → Op) (hs : State.memWf s) : State.memWf (State.issueAccess s i f a fill) := by
  unfold State.issueAccess
  repeat' (first | with_reducible assumption | with_reducible apply State.arrayRead_wf | with_reducible apply State.freeTime_wf | with_reducible apply State.modCore_wf | split)
theorem State.heldWay_wf (s : State) (c : Nat) (n : Nat) (tag : Nat) (line : Nat) (hs : State.memWf s) : State.memWf (State.heldWay s c n tag line).2 := by
  unfold State.heldWay; try dsimp only
  repeat' (first | with_reducible assumption | with_reducible apply State.reach_wf | with_reducible apply State.takeWay_wf | with_reducible apply foldl_wf | with_reducible apply foldl_wf2 | with_reducible apply foldl_wf1 | split | intro _)
  all_goals grind [State.reach_wf, State.takeWay_wf, foldl_wf, foldl_wf2, foldl_wf1, Sparse.wf_setBytes]
theorem State.hold_wf (s : State) (c : Nat) (n : Nat) (tag : Nat) (pa : Nat) (gpa : Nat) (bs : List Byte) (stamp : Nat) (hs : State.memWf s) : State.memWf (State.hold s c n tag pa gpa bs stamp) := by
  unfold State.hold; try dsimp only
  repeat' (first | with_reducible assumption | with_reducible apply State.heldWay_wf | with_reducible apply State.modCore_wf | with_reducible apply foldl_wf | with_reducible apply foldl_wf2 | with_reducible apply foldl_wf1 | split | intro _)
  all_goals grind [State.heldWay_wf, State.modCore_wf, foldl_wf, foldl_wf2, foldl_wf1, Sparse.wf_setBytes]
theorem State.poisoned_wf (s : State) (r : Req) (l : Nat) (pa : Nat) (hs : State.memWf s) : State.memWf (State.poisoned s r l pa) := by
  unfold State.poisoned
  repeat' (first | with_reducible assumption | with_reducible apply State.memErr_wf | split)
theorem State.readClr_wf (s : State) (r : Req) (w : Nat) (a : Nat) (n : Nat) (u : Upset) (hs : State.memWf s) : State.memWf (State.readClr s r w a n u).2 := by
  unfold State.readClr; dsimp only
  repeat' (first | with_reducible assumption | with_reducible apply State.failClr_wf | with_reducible apply State.strikeClr_wf | split)
theorem State.writeClr_wf (s : State) (r : Req) (w : Nat) (a : Nat) (bs : List Byte) (u : Upset) (hs : State.memWf s) : State.memWf (State.writeClr s r w a bs u).2 := by
  unfold State.writeClr; try dsimp only
  all_goals grind [State.failClr_wf, State.putClr_wf, State.strikeClr_wf, foldl_wf, foldl_wf2, foldl_wf1, Sparse.wf_setBytes]
theorem State.readPart_wf (s : State) (cx : Ctx) (i : Instr) (q : Piece) (first : Bool) (u : Upset) (hs : State.memWf s) : State.memWf (State.readPart s cx i q first u).2 := by
  unfold State.readPart; dsimp only
  repeat' (first | with_reducible assumption | with_reducible apply State.arrayRead_wf | with_reducible apply State.outside_wf | with_reducible apply State.poisoned_wf | with_reducible apply State.readClr_wf | with_reducible apply State.readMain_wf | with_reducible apply State.send_wf | split)
theorem State.writeGrv_wf (s : State) (k : Nat) (a : Nat) (bs : List Byte) (hs : State.memWf s) : State.memWf (State.writeGrv s k a bs) := by
  unfold State.writeGrv
  repeat' (first | with_reducible assumption | with_reducible apply State.arrayWritten_wf | with_reducible apply State.modCore_wf | split)
theorem State.writePart_wf (s : State) (cx : Ctx) (i : Instr) (q : Piece) (bs : List Byte) (first : Bool) (u : Upset) (hs : State.memWf s) : State.memWf (State.writePart s cx i q bs first u).2 := by
  unfold State.writePart
  repeat' (first | with_reducible assumption | with_reducible apply State.send_wf | with_reducible apply State.writeClr_wf | with_reducible apply State.writeGrv_wf | with_reducible apply State.writeMain_wf | split)
theorem State.grantAt_wf (s : State) (k : Nat) (p : Nat) (write : Bool) (hs : State.memWf s) : ∀ z, State.grantAt s k p write = some z → State.memWf z := by
  unfold State.grantAt; try dsimp only
  repeat' (first | with_reducible assumption | with_reducible apply State.modCore_wf | with_reducible apply foldl_wf | with_reducible apply foldl_wf2 | with_reducible apply foldl_wf1 | split | intro _)
  all_goals grind [State.modCore_wf, foldl_wf, foldl_wf2, foldl_wf1, Sparse.wf_setBytes]
theorem State.grant_wf (s : State) (q : Piece) (c : Nat) (write : Bool) (hs : State.memWf s) : ∀ z, State.grant s q c write = some z → State.memWf z := by
  unfold State.grant; try dsimp only
  all_goals grind [State.grantAt_wf, foldl_wf, foldl_wf2, foldl_wf1, Sparse.wf_setBytes]
theorem State.loadPart_wf (s : State) (c : Nat) (o : Op) (i : Instr) (k : Nat) (u : Upset) (hs : State.memWf s) : State.memWf (State.loadPart s c o i k u) := by
  unfold State.loadPart; try dsimp only
  repeat' (first | with_reducible assumption | with_reducible apply State.failOp_wf | with_reducible apply State.readPart_wf | with_reducible apply State.setOp_wf | with_reducible apply foldl_wf | with_reducible apply foldl_wf2 | with_reducible apply foldl_wf1 | split | intro _)
  all_goals grind [State.failOp_wf, State.grant_wf, State.readPart_wf, State.setOp_wf, foldl_wf, foldl_wf2, foldl_wf1, Sparse.wf_setBytes]
theorem State.loadParts_wf (s : State) (c : Nat) (id : Nat) (i : Instr) (ks : List Nat) (u : Upset) (hs : State.memWf s) : State.memWf (State.loadParts s c id i ks u) := by
  unfold State.loadParts
  repeat' (first | with_reducible assumption | with_reducible apply State.loadPart_wf | with_reducible apply foldl_wf | with_reducible apply foldl_wf2 | with_reducible apply foldl_wf1 | split | intro _)
theorem State.storeDone_wf (s : State) (c : Nat) (o : Op) (f : Form) (k : Nat) (cnt : Bool) (hs : State.memWf s) : State.memWf (State.storeDone s c o f k cnt) := by
  unfold State.storeDone; dsimp only
  repeat' (first | with_reducible assumption | with_reducible apply State.dropOp_wf | with_reducible apply State.reach_wf | with_reducible apply State.setOp_wf | split)
theorem State.storeHeld_wf (s : State) (c : Nat) (o : Op) (f : Form) (n : Nat) (k : Nat) (q : Piece) (u : Upset) (hs : State.memWf s) : State.memWf (State.storeHeld s c o f n k q u) := by
  unfold State.storeHeld; try dsimp only
  repeat' (first | with_reducible assumption | with_reducible apply State.admits_wf | with_reducible apply State.failOp_wf | with_reducible apply State.failRecord_wf | with_reducible apply State.hold_wf | with_reducible apply State.storeDone_wf | with_reducible apply State.strike_wf | with_reducible apply foldl_wf | with_reducible apply foldl_wf2 | with_reducible apply foldl_wf1 | split | intro _)
  all_goals grind [State.admits_wf, State.failOp_wf, State.failRecord_wf, State.hold_wf, State.storeDone_wf, State.strike_wf, foldl_wf, foldl_wf2, foldl_wf1, Sparse.wf_setBytes]
theorem State.storeAt_wf (s : State) (c : Nat) (o : Op) (i : Instr) (f : Form) (k : Nat) (q : Piece) (u : Upset) (hs : State.memWf s) : State.memWf (State.storeAt s c o i f k q u) := by
  unfold State.storeAt; try dsimp only
  all_goals grind [State.dirtyAt_wf, State.failOp_wf, State.grant_wf, State.storeDone_wf, State.storeHeld_wf, State.writePart_wf, foldl_wf, foldl_wf2, foldl_wf1, Sparse.wf_setBytes]
theorem State.storeGrv_wf (s : State) (c : Nat) (o : Op) (k : Nat) (q : Piece) (hs : State.memWf s) : State.memWf (State.storeGrv s c o k q) := by
  unfold State.storeGrv
  repeat' (first | with_reducible assumption | with_reducible apply State.setOp_wf | with_reducible apply State.writeGrv_wf | split)
theorem wf_of_pair {p : Bool × State} {b : Bool} {z : State} (h : p = (b, z)) (hp : State.memWf p.2) : State.memWf z := by subst h; exact hp
theorem State.storePart_wf (s : State) (c : Nat) (o : Op) (i : Instr) (f : Form) (u : Upset) (hs : State.memWf s) : State.memWf (State.storePart s c o i f u) := by
  unfold State.storePart
  repeat' (first | with_reducible assumption | with_reducible apply State.storeAt_wf | with_reducible apply State.storeGrv_wf | split)
theorem State.settleRemote_wf (s : State) (hs : State.memWf s) : State.memWf (State.settleRemote s) := by
  unfold State.settleRemote
  repeat' (first | with_reducible assumption | split)
theorem loadM_wf (i : Instr) (m : MArgs) (dest : Nat) (s : State) (hs : State.memWf s) : State.memWf (loadM i m dest s) := by
  unfold loadM
  repeat' (first | with_reducible assumption | with_reducible apply State.issueAccess_wf | split)
theorem storeM_wf (i : Instr) (m : MArgs) (s : State) (hs : State.memWf s) : State.memWf (storeM i m s) := by
  unfold storeM
  repeat' (first | with_reducible assumption | with_reducible apply State.issueAccess_wf | split)
theorem loadMS_wf (i : Instr) (m : MSArgs) (s : State) (hs : State.memWf s) : State.memWf (loadMS i m s) := by
  unfold loadMS
  repeat' (first | with_reducible assumption | with_reducible apply State.issueAccess_wf | split)
theorem storeImg_wf (i : Instr) (a : Word) (img : Sparse Byte) (s : State) (hs : State.memWf s) : State.memWf (storeImg i a img s) := by
  unfold storeImg
  repeat' (first | with_reducible assumption | with_reducible apply State.issueAccess_wf | split)
theorem accessG_wf (i : Instr) (m : GArgs) (s : State) (hs : State.memWf s) : State.memWf (accessG i m s) := by
  unfold accessG
  repeat' (first | with_reducible assumption | with_reducible apply State.issueAccess_wf | split)
theorem execLdb_wf (m : MArgs) (s : State) (hs : State.memWf s) : ∀ z, execLdb m s = .next z → State.memWf z := by
  unfold execLdb
  refine onCore_wf _ _ hs fun _ _ => ?_
  repeat' (first | with_reducible assumption | with_reducible apply loadM_wf)
theorem execLdh_wf (m : MArgs) (s : State) (hs : State.memWf s) : ∀ z, execLdh m s = .next z → State.memWf z := by
  unfold execLdh
  refine onCore_wf _ _ hs fun _ _ => ?_
  repeat' (first | with_reducible assumption | with_reducible apply loadM_wf)
theorem execLdw_wf (m : MArgs) (s : State) (hs : State.memWf s) : ∀ z, execLdw m s = .next z → State.memWf z := by
  unfold execLdw
  refine onCore_wf _ _ hs fun _ _ => ?_
  repeat' (first | with_reducible assumption | with_reducible apply loadM_wf)
theorem execLdd_wf (m : MArgs) (s : State) (hs : State.memWf s) : ∀ z, execLdd m s = .next z → State.memWf z := by
  unfold execLdd
  refine onCore_wf _ _ hs fun _ _ => ?_
  repeat' (first | with_reducible assumption | with_reducible apply loadM_wf)
theorem execLdbs_wf (m : MArgs) (s : State) (hs : State.memWf s) : ∀ z, execLdbs m s = .next z → State.memWf z := by
  unfold execLdbs
  refine onCore_wf _ _ hs fun _ _ => ?_
  repeat' (first | with_reducible assumption | with_reducible apply loadM_wf)
theorem execLdhs_wf (m : MArgs) (s : State) (hs : State.memWf s) : ∀ z, execLdhs m s = .next z → State.memWf z := by
  unfold execLdhs
  refine onCore_wf _ _ hs fun _ _ => ?_
  repeat' (first | with_reducible assumption | with_reducible apply loadM_wf)
theorem execLdws_wf (m : MArgs) (s : State) (hs : State.memWf s) : ∀ z, execLdws m s = .next z → State.memWf z := by
  unfold execLdws
  refine onCore_wf _ _ hs fun _ _ => ?_
  repeat' (first | with_reducible assumption | with_reducible apply loadM_wf)
theorem execStb_wf (m : MArgs) (s : State) (hs : State.memWf s) : ∀ z, execStb m s = .next z → State.memWf z := by
  unfold execStb
  refine onCore_wf _ _ hs fun _ _ => ?_
  repeat' (first | with_reducible assumption | with_reducible apply storeM_wf)
theorem execSth_wf (m : MArgs) (s : State) (hs : State.memWf s) : ∀ z, execSth m s = .next z → State.memWf z := by
  unfold execSth
  refine onCore_wf _ _ hs fun _ _ => ?_
  repeat' (first | with_reducible assumption | with_reducible apply storeM_wf)
theorem execStw_wf (m : MArgs) (s : State) (hs : State.memWf s) : ∀ z, execStw m s = .next z → State.memWf z := by
  unfold execStw
  refine onCore_wf _ _ hs fun _ _ => ?_
  repeat' (first | with_reducible assumption | with_reducible apply storeM_wf)
theorem execStd_wf (m : MArgs) (s : State) (hs : State.memWf s) : ∀ z, execStd m s = .next z → State.memWf z := by
  unfold execStd
  refine onCore_wf _ _ hs fun _ _ => ?_
  repeat' (first | with_reducible assumption | with_reducible apply storeM_wf)
theorem execVld_wf (m : MArgs) (s : State) (hs : State.memWf s) : ∀ z, execVld m s = .next z → State.memWf z := by
  unfold execVld
  refine onCore_wf _ _ hs fun _ _ => ?_
  repeat' (first | with_reducible assumption | with_reducible apply loadM_wf)
theorem execVst_wf (m : MArgs) (s : State) (hs : State.memWf s) : ∀ z, execVst m s = .next z → State.memWf z := by
  unfold execVst
  refine onCore_wf _ _ hs fun _ _ => ?_
  repeat' (first | with_reducible assumption | with_reducible apply storeImg_wf)
theorem execVld16_wf (m : MSArgs) (s : State) (hs : State.memWf s) : ∀ z, execVld16 m s = .next z → State.memWf z := by
  unfold execVld16
  refine onCore_wf _ _ hs fun _ _ => ?_
  repeat' (first | with_reducible assumption | with_reducible apply loadMS_wf)
theorem execVld32_wf (m : MSArgs) (s : State) (hs : State.memWf s) : ∀ z, execVld32 m s = .next z → State.memWf z := by
  unfold execVld32
  refine onCore_wf _ _ hs fun _ _ => ?_
  repeat' (first | with_reducible assumption | with_reducible apply loadMS_wf)
theorem execVst16_wf (m : MSArgs) (s : State) (hs : State.memWf s) : ∀ z, execVst16 m s = .next z → State.memWf z := by
  unfold execVst16
  refine onCore_wf _ _ hs fun _ _ => ?_
  repeat' (first | with_reducible assumption | with_reducible apply storeImg_wf)
theorem execVst32_wf (m : MSArgs) (s : State) (hs : State.memWf s) : ∀ z, execVst32 m s = .next z → State.memWf z := by
  unfold execVst32
  refine onCore_wf _ _ hs fun _ _ => ?_
  repeat' (first | with_reducible assumption | with_reducible apply storeImg_wf)
theorem execVgath_wf (m : GArgs) (s : State) (hs : State.memWf s) : ∀ z, execVgath m s = .next z → State.memWf z := by
  unfold execVgath
  refine onCore_wf _ _ hs fun _ _ => ?_
  repeat' (first | with_reducible assumption | with_reducible apply accessG_wf)
theorem execVscat_wf (m : GArgs) (s : State) (hs : State.memWf s) : ∀ z, execVscat m s = .next z → State.memWf z := by
  unfold execVscat
  refine onCore_wf _ _ hs fun _ _ => ?_
  repeat' (first | with_reducible assumption | with_reducible apply accessG_wf)
theorem execVlut_wf (m : GArgs) (s : State) (hs : State.memWf s) : ∀ z, execVlut m s = .next z → State.memWf z := by
  unfold execVlut
  refine onCore_wf _ _ hs fun _ _ => ?_
  repeat' (first | with_reducible assumption | with_reducible apply accessG_wf)
theorem execVlst_wf (m : GArgs) (s : State) (hs : State.memWf s) : ∀ z, execVlst m s = .next z → State.memWf z := by
  unfold execVlst
  refine onCore_wf _ _ hs fun _ _ => ?_
  repeat' (first | with_reducible assumption | with_reducible apply accessG_wf)
theorem execQld_wf (m : MArgs) (s : State) (hs : State.memWf s) : ∀ z, execQld m s = .next z → State.memWf z := by
  unfold execQld
  refine onCore_wf _ _ hs fun _ _ => ?_
  repeat' (first | with_reducible assumption | with_reducible apply State.modMe_wf | with_reducible apply loadM_wf)
theorem issuePref_wf (i : Instr) (m : MArgs) (s : State) (hs : State.memWf s) : State.memWf (issuePref i m s) := by
  unfold issuePref
  repeat' (first | with_reducible assumption | with_reducible apply State.freeTime_wf | with_reducible apply State.issue_wf | split)
theorem execPref_wf (m : MArgs) (s : State) (hs : State.memWf s) : ∀ z, execPref m s = .next z → State.memWf z := by
  unfold execPref
  refine onCore_wf _ _ hs fun _ _ => ?_
  repeat' (first | with_reducible assumption | with_reducible apply issuePref_wf)
theorem execIpref_wf (m : MArgs) (s : State) (hs : State.memWf s) : ∀ z, execIpref m s = .next z → State.memWf z := by
  unfold execIpref
  refine onCore_wf _ _ hs fun _ _ => ?_
  repeat' (first | with_reducible assumption | with_reducible apply issuePref_wf)
theorem State.fetchLine_wf (s : State) (c : Nat) (line : Nat) (u : Upset) (hs : State.memWf s) : State.memWf (State.fetchLine s c line u).2 := by
  unfold State.fetchLine; try dsimp only
  repeat' (first | with_reducible assumption | with_reducible apply State.correct_wf | with_reducible apply State.outside_wf | with_reducible apply State.poisoned_wf | with_reducible apply State.readMain_wf | with_reducible apply State.route_wf | with_reducible apply State.send_wf | with_reducible apply foldl_wf | with_reducible apply foldl_wf2 | with_reducible apply foldl_wf1 | split | intro _)
  all_goals grind [State.correct_wf, State.outside_wf, State.poisoned_wf, State.readMain_wf, State.route_wf, State.send_wf, foldl_wf, foldl_wf2, foldl_wf1, Sparse.wf_setBytes]
theorem execLineFill_wf (line : Nat) (u : Upset) (s : State) (hs : State.memWf s) : ∀ z, execLineFill line u s = .next z → State.memWf z := by
  intro z h; unfold execLineFill at h
  have h := (onCore_eq _ _ _ h : z = _)
  subst h; try dsimp only
  repeat' (first | with_reducible assumption | with_reducible apply State.fetchLine_wf | with_reducible apply State.modCore_wf | with_reducible apply foldl_wf | with_reducible apply foldl_wf2 | with_reducible apply foldl_wf1 | split | intro _)
  all_goals grind [State.fetchLine_wf, State.modCore_wf, onCore_wf, foldl_wf, foldl_wf2, foldl_wf1, Sparse.wf_setBytes]
theorem State.arrivals_wf (s : State) (o : Op) (f : Form) (ks : List Nat) (hs : State.memWf s) : State.memWf (State.arrivals s o f ks).2 := by
  unfold State.arrivals; dsimp only
  repeat' (first | with_reducible assumption | with_reducible apply State.coin_wf | with_reducible apply foldl_wf | with_reducible apply foldl_wf2 | with_reducible apply foldl_wf1 | split | intro _)
theorem execQldFill_wf (u : Upset) (s : State) (hs : State.memWf s) : ∀ z, execQldFill u s = .next z → State.memWf z := by
  unfold execQldFill
  refine onCore_wf _ _ hs fun _ _ => ?_
  dsimp only
  repeat' (first | with_reducible assumption | with_reducible apply State.arrivals_wf | with_reducible apply State.dropOp_wf | with_reducible apply State.loadParts_wf | with_reducible apply State.modCore_wf | split)
theorem State.maintain_wf (s : State) (i : Instr) (pa : Nat) (hs : State.memWf s) : State.memWf (State.maintain s i pa) := by
  unfold State.maintain
  repeat' (first | with_reducible assumption | with_reducible apply State.dropLine_wf | with_reducible apply State.evict_wf | with_reducible apply State.writeBack_wf | split)
theorem State.invalidate_wf (s : State) (c : Nat) (o : Op) (va : Option Nat) (hs : State.memWf s) : State.memWf (State.invalidate s c o va) := by
  unfold State.invalidate
  repeat' (first | with_reducible assumption | with_reducible apply State.invalidateAll_wf | with_reducible apply State.invalidateVa_wf | with_reducible apply State.setOp_wf | split)
theorem State.linePart_wf (s : State) (c : Nat) (o : Op) (i : Instr) (hs : State.memWf s) : State.memWf (State.linePart s c o i) := by
  unfold State.linePart; try dsimp only
  repeat' (first | with_reducible assumption | with_reducible apply State.admits_wf | with_reducible apply State.dropOp_wf | with_reducible apply State.failOp_wf | with_reducible apply State.invalidate_wf | with_reducible apply State.maintain_wf | with_reducible apply foldl_wf | with_reducible apply foldl_wf2 | with_reducible apply foldl_wf1 | split | intro _)
  all_goals grind [State.admits_wf, State.dropOp_wf, State.failOp_wf, State.invalidate_wf, State.maintain_wf, foldl_wf, foldl_wf2, foldl_wf1, Sparse.wf_setBytes]
theorem execStorePerforms_wf (u : Upset) (s : State) (hs : State.memWf s) : ∀ z, execStorePerforms u s = .next z → State.memWf z := by
  unfold execStorePerforms
  refine onCore_wf _ _ hs fun _ _ => ?_
  dsimp only
  repeat' (first | with_reducible assumption | with_reducible apply State.linePart_wf | with_reducible apply State.storePart_wf | split)
theorem execRequestEntryFreed_wf (s : State) (hs : State.memWf s) : ∀ z, execRequestEntryFreed s = .next z → State.memWf z := by
  unfold execRequestEntryFreed
  refine onCore_wf _ _ hs fun _ _ => ?_
  repeat' (first | with_reducible assumption | with_reducible apply State.modMe_wf | split)
theorem State.prefetch_wf (s : State) (cx : Ctx) (va : Nat) (hs : State.memWf s) : State.memWf (State.prefetch s cx va) := by
  unfold State.prefetch; try dsimp only
  repeat' (first | with_reducible assumption | with_reducible apply State.touch_wf | with_reducible apply State.xlate_wf | with_reducible apply foldl_wf | with_reducible apply foldl_wf2 | with_reducible apply foldl_wf1 | split | intro _)
  all_goals grind [State.touch_wf, State.xlate_wf, foldl_wf, foldl_wf2, foldl_wf1, Sparse.wf_setBytes]
theorem State.prefetchCode_wf (s : State) (c : Nat) (va : Nat) (hs : State.memWf s) : State.memWf (State.prefetchCode s c va) := by
  unfold State.prefetchCode; try dsimp only
  repeat' (first | with_reducible assumption | with_reducible apply State.fetchLine_wf | with_reducible apply State.modCore_wf | with_reducible apply State.xlate_wf | with_reducible apply foldl_wf | with_reducible apply foldl_wf2 | with_reducible apply foldl_wf1 | split | intro _)
  all_goals grind [State.fetchLine_wf, State.modCore_wf, State.xlate_wf, foldl_wf, foldl_wf2, foldl_wf1, Sparse.wf_setBytes]
theorem State.setOut_wf (s : State) (c : Nat) (o : Op) (i : Instr) (f : Form) (hs : State.memWf s) : State.memWf (State.setOut s c o i f) := by
  unfold State.setOut; dsimp only
  repeat' (first | with_reducible assumption | with_reducible apply State.failOp_wf | with_reducible apply State.freeTime_wf | with_reducible apply State.routeParts_wf | with_reducible apply State.setOp_wf | split)
theorem execTranslationWalkDone_wf (s : State) (hs : State.memWf s) : ∀ z, execTranslationWalkDone s = .next z → State.memWf z := by
  unfold execTranslationWalkDone
  refine onCore_wf _ _ hs fun _ _ => ?_
  dsimp only
  repeat' (first | with_reducible assumption | with_reducible apply State.dropOp_wf | with_reducible apply State.failOp_wf | with_reducible apply State.invalidate_wf | with_reducible apply State.prefetchCode_wf | with_reducible apply State.prefetch_wf | with_reducible apply State.setOp_wf | with_reducible apply State.setOut_wf | split)
theorem issueAtomic_wf (i : Instr) (m : AArgs) (dest : Nat) (s : State) (hs : State.memWf s) : State.memWf (issueAtomic i m dest s) := by
  unfold issueAtomic
  repeat' (first | with_reducible assumption | with_reducible apply State.issueAccess_wf | split)
theorem execAincW_wf (m : AArgs) (s : State) (hs : State.memWf s) : ∀ z, execAincW m s = .next z → State.memWf z := by
  unfold execAincW
  refine onCore_wf _ _ hs fun _ _ => ?_
  repeat' (first | with_reducible assumption | with_reducible apply issueAtomic_wf)
theorem execAincD_wf (m : AArgs) (s : State) (hs : State.memWf s) : ∀ z, execAincD m s = .next z → State.memWf z := by
  unfold execAincD
  refine onCore_wf _ _ hs fun _ _ => ?_
  repeat' (first | with_reducible assumption | with_reducible apply issueAtomic_wf)
theorem execAaddW_wf (m : AArgs) (s : State) (hs : State.memWf s) : ∀ z, execAaddW m s = .next z → State.memWf z := by
  unfold execAaddW
  refine onCore_wf _ _ hs fun _ _ => ?_
  repeat' (first | with_reducible assumption | with_reducible apply issueAtomic_wf)
theorem execAaddD_wf (m : AArgs) (s : State) (hs : State.memWf s) : ∀ z, execAaddD m s = .next z → State.memWf z := by
  unfold execAaddD
  refine onCore_wf _ _ hs fun _ _ => ?_
  repeat' (first | with_reducible assumption | with_reducible apply issueAtomic_wf)
theorem execAaddfW_wf (m : AArgs) (s : State) (hs : State.memWf s) : ∀ z, execAaddfW m s = .next z → State.memWf z := by
  unfold execAaddfW
  refine onCore_wf _ _ hs fun _ _ => ?_
  repeat' (first | with_reducible assumption | with_reducible apply issueAtomic_wf)
theorem execAcasW_wf (m : AArgs) (s : State) (hs : State.memWf s) : ∀ z, execAcasW m s = .next z → State.memWf z := by
  unfold execAcasW
  refine onCore_wf _ _ hs fun _ _ => ?_
  repeat' (first | with_reducible assumption | with_reducible apply issueAtomic_wf)
theorem execAcasD_wf (m : AArgs) (s : State) (hs : State.memWf s) : ∀ z, execAcasD m s = .next z → State.memWf z := by
  unfold execAcasD
  refine onCore_wf _ _ hs fun _ _ => ?_
  repeat' (first | with_reducible assumption | with_reducible apply issueAtomic_wf)
theorem execAxchgW_wf (m : AArgs) (s : State) (hs : State.memWf s) : ∀ z, execAxchgW m s = .next z → State.memWf z := by
  unfold execAxchgW
  refine onCore_wf _ _ hs fun _ _ => ?_
  repeat' (first | with_reducible assumption | with_reducible apply issueAtomic_wf)
theorem execAxchgD_wf (m : AArgs) (s : State) (hs : State.memWf s) : ∀ z, execAxchgD m s = .next z → State.memWf z := by
  unfold execAxchgD
  refine onCore_wf _ _ hs fun _ _ => ?_
  repeat' (first | with_reducible assumption | with_reducible apply issueAtomic_wf)
theorem execAmaxW_wf (m : AArgs) (s : State) (hs : State.memWf s) : ∀ z, execAmaxW m s = .next z → State.memWf z := by
  unfold execAmaxW
  refine onCore_wf _ _ hs fun _ _ => ?_
  repeat' (first | with_reducible assumption | with_reducible apply issueAtomic_wf)
theorem execAmaxD_wf (m : AArgs) (s : State) (hs : State.memWf s) : ∀ z, execAmaxD m s = .next z → State.memWf z := by
  unfold execAmaxD
  refine onCore_wf _ _ hs fun _ _ => ?_
  repeat' (first | with_reducible assumption | with_reducible apply issueAtomic_wf)
theorem execAminW_wf (m : AArgs) (s : State) (hs : State.memWf s) : ∀ z, execAminW m s = .next z → State.memWf z := by
  unfold execAminW
  refine onCore_wf _ _ hs fun _ _ => ?_
  repeat' (first | with_reducible assumption | with_reducible apply issueAtomic_wf)
theorem execAminD_wf (m : AArgs) (s : State) (hs : State.memWf s) : ∀ z, execAminD m s = .next z → State.memWf z := by
  unfold execAminD
  refine onCore_wf _ _ hs fun _ _ => ?_
  repeat' (first | with_reducible assumption | with_reducible apply issueAtomic_wf)
theorem execAfaddbW_wf (m : AArgs) (s : State) (hs : State.memWf s) : ∀ z, execAfaddbW m s = .next z → State.memWf z := by
  unfold execAfaddbW
  refine onCore_wf _ _ hs fun _ _ => ?_
  repeat' (first | with_reducible assumption | with_reducible apply issueAtomic_wf)
theorem execAfaddbD_wf (m : AArgs) (s : State) (hs : State.memWf s) : ∀ z, execAfaddbD m s = .next z → State.memWf z := by
  unfold execAfaddbD
  refine onCore_wf _ _ hs fun _ _ => ?_
  repeat' (first | with_reducible assumption | with_reducible apply issueAtomic_wf)
theorem execRadd_wf (m : AArgs) (s : State) (hs : State.memWf s) : ∀ z, execRadd m s = .next z → State.memWf z := by
  unfold execRadd
  refine onCore_wf _ _ hs fun _ _ => ?_
  repeat' (first | with_reducible assumption | with_reducible apply issueAtomic_wf)
theorem execRwait_wf (m : AArgs) (s : State) (hs : State.memWf s) : ∀ z, execRwait m s = .next z → State.memWf z := by
  unfold execRwait
  refine onCore_wf _ _ hs fun _ _ => ?_
  repeat' (first | with_reducible assumption | with_reducible apply issueAtomic_wf)
theorem execRrd_wf (m : AArgs) (s : State) (hs : State.memWf s) : ∀ z, execRrd m s = .next z → State.memWf z := by
  unfold execRrd
  refine onCore_wf _ _ hs fun _ _ => ?_
  repeat' (first | with_reducible assumption | with_reducible apply issueAtomic_wf)
theorem State.answered_wf (s : State) (c : Nat) (o : Op) (i : Instr) (got : List Byte) (flag : Bool) (hs : State.memWf s) : State.memWf (State.answered s c o i got flag) := by
  unfold State.answered
  repeat' (first | with_reducible assumption | with_reducible apply State.dropOp_wf | with_reducible apply State.setOp_wf | split)
theorem State.compareWait_wf (s : State) (c : Nat) (o : Op) (i : Instr) (q : Piece) (val : Nat) (hs : State.memWf s) : State.memWf (State.compareWait s c o i q val) := by
  unfold State.compareWait
  repeat' (first | with_reducible assumption | with_reducible apply State.answered_wf | with_reducible apply State.setOp_wf | split)
theorem State.atomicStore_wf (s : State) (c : Nat) (o : Op) (i : Instr) (q : Piece) (ms : Bool) (old : List Byte) (r : Option (List Byte) × Bool) (hs : State.memWf s) : State.memWf (State.atomicStore s c o i q ms old r) := by
  unfold State.atomicStore
  apply State.answered_wf
  have h1 : State.memWf (match r.1 with | some bs => (s.putMain ms q.at_ bs).getD s | none => s) := by
    split
    · exact getD_wf _ _ hs (State.putMain_wf _ _ _ _ hs)
    · exact hs
  have h2 := State.dirty_wf _ c q.gpa h1
  split
  · exact State.overrun_wf _ _ _ _ _ h2
  · exact h2
theorem State.atomicStoreClr_wf (s : State) (c : Nat) (o : Op) (i : Instr) (q : Piece) (w : Nat) (old : List Byte) (r : Option (List Byte) × Bool) (hs : State.memWf s) : State.memWf (State.atomicStoreClr s c o i q w old r) := by
  unfold State.atomicStoreClr
  apply State.answered_wf
  have h1 : State.memWf (match r.1 with | some bs => (s.putClr w q.at_ bs).getD s | none => s) := by
    split
    · exact getD_wf _ _ hs (State.putClr_wf _ _ _ _ hs)
    · exact hs
  split
  · exact State.overrun_wf _ _ _ _ _ h1
  · exact h1
theorem State.atomicMain_wf (s : State) (c : Nat) (o : Op) (i : Instr) (q : Piece) (ca : Nat) (ms : Bool) (u : Upset) (hs : State.memWf s) : State.memWf (State.atomicMain s c o i q ca ms u) := by
  unfold State.atomicMain; try dsimp only
  repeat' (first | with_reducible assumption | with_reducible apply State.answered_wf | with_reducible apply State.atomicStore_wf | with_reducible apply State.compareWait_wf | with_reducible apply State.countAtomic_wf | with_reducible apply State.failOp_wf | with_reducible apply State.readMain_wf | with_reducible apply foldl_wf | with_reducible apply foldl_wf2 | with_reducible apply foldl_wf1 | split | intro _)
  all_goals grind [State.answered_wf, State.atomicStore_wf, State.compareWait_wf, State.countAtomic_wf, State.failOp_wf, State.readMain_wf, foldl_wf, foldl_wf2, foldl_wf1, Sparse.wf_setBytes]
theorem State.atomicClr_wf (s : State) (c : Nat) (o : Op) (i : Instr) (q : Piece) (w : Nat) (u : Upset) (hs : State.memWf s) : State.memWf (State.atomicClr s c o i q w u) := by
  unfold State.atomicClr; try dsimp only
  repeat' (first | with_reducible assumption | with_reducible apply State.answered_wf | with_reducible apply State.atomicStoreClr_wf | with_reducible apply State.compareWait_wf | with_reducible apply State.failOp_wf | with_reducible apply State.readClr_wf | with_reducible apply foldl_wf | with_reducible apply foldl_wf2 | with_reducible apply foldl_wf1 | split | intro _)
  all_goals grind [State.answered_wf, State.atomicStoreClr_wf, State.compareWait_wf, State.failOp_wf, State.readClr_wf, foldl_wf, foldl_wf2, foldl_wf1, Sparse.wf_setBytes]
theorem execAtomicPerforms_wf (u : Upset) (s : State) (hs : State.memWf s) : ∀ z, execAtomicPerforms u s = .next z → State.memWf z := by
  unfold execAtomicPerforms
  refine onCore_wf _ _ hs fun _ _ => ?_
  dsimp only
  repeat' (first | with_reducible assumption | with_reducible apply State.answered_wf | with_reducible apply State.atomicClr_wf | with_reducible apply State.atomicMain_wf | with_reducible apply State.coin_wf | with_reducible apply State.failOp_wf | with_reducible apply State.outside_wf | with_reducible apply State.send_wf | split)
theorem State.watchedNow_wf (s : State) (r : Req) (q : Piece) (hs : State.memWf s) : State.memWf (State.watchedNow s r q).2 := by
  unfold State.watchedNow; dsimp only
  repeat' (first | with_reducible assumption | with_reducible apply State.correct_wf | with_reducible apply State.failClr_wf | with_reducible apply State.failRecord_wf | split)
theorem execRingWaitSatisfied_wf (s : State) (hs : State.memWf s) : ∀ z, execRingWaitSatisfied s = .next z → State.memWf z := by
  unfold execRingWaitSatisfied
  refine onCore_wf _ _ hs fun _ _ => ?_
  dsimp only
  repeat' (first | with_reducible assumption | with_reducible apply State.answered_wf | split)
theorem execRingWaitRecheck_wf (s : State) (hs : State.memWf s) : ∀ z, execRingWaitRecheck s = .next z → State.memWf z := by
  unfold execRingWaitRecheck
  refine onCore_wf _ _ hs fun _ _ => ?_
  try dsimp only
  repeat' (first | with_reducible assumption | with_reducible apply State.compareWait_wf | with_reducible apply State.failOp_wf | with_reducible apply State.watchedNow_wf | with_reducible apply foldl_wf | with_reducible apply foldl_wf2 | with_reducible apply foldl_wf1 | split | intro _)
  all_goals grind [State.compareWait_wf, State.failOp_wf, State.watchedNow_wf, foldl_wf, foldl_wf2, foldl_wf1, Sparse.wf_setBytes]
theorem execFence_wf (mask : BitVec 16) (scope : Scope) (s : State) (hs : State.memWf s) : ∀ z, execFence mask scope s = .next z → State.memWf z := by
  unfold execFence
  refine onCore_wf _ _ hs fun _ _ => ?_
  repeat' (first | with_reducible assumption | with_reducible apply State.issue_wf | split)
theorem execGopen_wf (g : BitVec 2) (s : State) (hs : State.memWf s) : ∀ z, execGopen g s = .next z → State.memWf z := by
  unfold execGopen
  refine onCore_wf _ _ hs fun _ _ => ?_
  repeat' (first | with_reducible assumption | with_reducible apply State.modMe_wf | split)
theorem closeGroup_wf (i : Instr) (g : BitVec 2) (s : State) (hs : State.memWf s) : State.memWf (closeGroup i g s) := by
  unfold closeGroup; dsimp only
  repeat' (first | with_reducible assumption | with_reducible apply State.issue_wf | with_reducible apply State.modMe_wf | split)
theorem execGcommit_wf (g : BitVec 2) (s : State) (hs : State.memWf s) : ∀ z, execGcommit g s = .next z → State.memWf z := by
  unfold execGcommit
  refine onCore_wf _ _ hs fun _ _ => ?_
  repeat' (first | with_reducible assumption | with_reducible apply closeGroup_wf)
theorem execGabort_wf (g : BitVec 2) (s : State) (hs : State.memWf s) : ∀ z, execGabort g s = .next z → State.memWf z := by
  unfold execGabort
  refine onCore_wf _ _ hs fun _ _ => ?_
  repeat' (first | with_reducible assumption | with_reducible apply closeGroup_wf)
theorem State.commitSector_wf (s : State) (r : Req) (held : Sparse (Nat × Byte)) (sec : Nat) (hs : State.memWf s) : State.memWf (State.commitSector s r held sec).1 := by
  unfold State.commitSector; dsimp only
  split
  · exact hs
  · split
    · exact State.failRecord_wf _ _ _ _ hs
    · exact getD_wf _ _ hs (State.putMain_wf _ _ _ _ hs)
theorem State.commitGroup_wf (s : State) (c : Nat) (n : Nat) (hs : State.memWf s) : State.memWf (State.commitGroup s c n) := by
  unfold State.commitGroup
  repeat' (first | with_reducible assumption | with_reducible apply State.commitSector_wf | with_reducible apply State.countAccess_wf | with_reducible apply State.dirty_wf | with_reducible apply State.modCore_wf | with_reducible apply foldl_wf | with_reducible apply foldl_wf2 | with_reducible apply foldl_wf1 | split | intro _)
theorem State.settleGroup_wf (s : State) (c : Nat) (o : Op) (hs : State.memWf s) : State.memWf (State.settleGroup s c o) := by
  unfold State.settleGroup
  repeat' (first | with_reducible assumption | with_reducible apply State.commitGroup_wf | with_reducible apply State.dropOp_wf | with_reducible apply State.modCore_wf | split)
theorem State.settle_wf (s : State) (c : Nat) (hs : State.memWf s) : State.memWf (State.settle s c) := by
  unfold State.settle; dsimp only
  repeat' (first | with_reducible assumption | with_reducible apply State.dropOp_wf | with_reducible apply State.freeTime_wf | with_reducible apply State.setOp_wf | with_reducible apply State.settleGroup_wf | with_reducible apply foldl_wf | with_reducible apply foldl_wf2 | with_reducible apply foldl_wf1 | split | intro _)
theorem execTlbiva_wf (m : MArgs) (s : State) (hs : State.memWf s) : ∀ z, execTlbiva m s = .next z → State.memWf z := by
  unfold execTlbiva
  refine onCore_wf _ _ hs fun _ _ => ?_
  repeat' (first | with_reducible assumption | with_reducible apply guardLevel_wf | with_reducible apply loadM_wf)
theorem execTlbiall_wf (s : State) (hs : State.memWf s) : ∀ z, execTlbiall s = .next z → State.memWf z := by
  intro z h; unfold execTlbiall at h
  have h := (onCore_eq _ _ _ h : z = _)
  subst h; try dsimp only
  repeat' (first | with_reducible assumption | with_reducible apply State.freeTime_wf | with_reducible apply State.issue_wf | with_reducible apply guardLevel_wf | with_reducible apply foldl_wf | with_reducible apply foldl_wf2 | with_reducible apply foldl_wf1 | split | intro _)
theorem execL2wb_wf (m : MArgs) (s : State) (hs : State.memWf s) : ∀ z, execL2wb m s = .next z → State.memWf z := by
  unfold execL2wb
  refine onCore_wf _ _ hs fun _ _ => ?_
  repeat' (first | with_reducible assumption | with_reducible apply loadM_wf)
theorem execL2inv_wf (m : MArgs) (s : State) (hs : State.memWf s) : ∀ z, execL2inv m s = .next z → State.memWf z := by
  unfold execL2inv
  refine onCore_wf _ _ hs fun _ _ => ?_
  repeat' (first | with_reducible assumption | with_reducible apply guardLevel_wf | with_reducible apply loadM_wf)
theorem execL2wbinv_wf (m : MArgs) (s : State) (hs : State.memWf s) : ∀ z, execL2wbinv m s = .next z → State.memWf z := by
  unfold execL2wbinv
  refine onCore_wf _ _ hs fun _ _ => ?_
  repeat' (first | with_reducible assumption | with_reducible apply loadM_wf)
theorem execMove_wf (src : Src) (dst : Dst) (s : State) (hs : State.memWf s) : ∀ z, execMove src dst s = .next z → State.memWf z := by
  unfold execMove
  refine onCore_wf _ _ hs fun _ _ => ?_
  repeat' (first | with_reducible assumption | with_reducible apply State.issue_wf | with_reducible apply State.modMe_wf | split)
theorem trigger_wf (i : Instr) (src : Src) (u : VUnit) (n : Nat) (extra : Core → List Vec → List Word × List Vec) (s : State) (hs : State.memWf s) : State.memWf (trigger i src u n extra s) := by
  unfold trigger
  repeat' (first | with_reducible assumption | with_reducible apply State.modMe_wf)
theorem trigger0_wf (i : Instr) (src : Src) (u : VUnit) (n : Nat) (s : State) (hs : State.memWf s) : State.memWf (trigger0 i src u n s) := by
  unfold trigger0
  repeat' (first | with_reducible assumption | with_reducible apply trigger_wf)
theorem execVaMov_wf (src : Src) (u : VaUnit) (f : Fmt) (s : State) (hs : State.memWf s) : ∀ z, execVaMov src u f s = .next z → State.memWf z := by
  unfold execVaMov
  refine onCore_wf _ _ hs fun _ _ => ?_
  repeat' (first | with_reducible assumption | with_reducible apply trigger0_wf)
theorem execVaAdd_wf (src : Src) (u : VaUnit) (f : Fmt) (s : State) (hs : State.memWf s) : ∀ z, execVaAdd src u f s = .next z → State.memWf z := by
  unfold execVaAdd
  refine onCore_wf _ _ hs fun _ _ => ?_
  repeat' (first | with_reducible assumption | with_reducible apply trigger0_wf)
theorem execVaSub_wf (src : Src) (u : VaUnit) (f : Fmt) (s : State) (hs : State.memWf s) : ∀ z, execVaSub src u f s = .next z → State.memWf z := by
  unfold execVaSub
  refine onCore_wf _ _ hs fun _ _ => ?_
  repeat' (first | with_reducible assumption | with_reducible apply trigger0_wf)
theorem execVaMul_wf (src : Src) (u : VaUnit) (f : Fmt) (s : State) (hs : State.memWf s) : ∀ z, execVaMul src u f s = .next z → State.memWf z := by
  unfold execVaMul
  refine onCore_wf _ _ hs fun _ _ => ?_
  repeat' (first | with_reducible assumption | with_reducible apply trigger0_wf)
theorem execVaFma_wf (src : Src) (u : VaUnit) (f : Fmt) (s : State) (hs : State.memWf s) : ∀ z, execVaFma src u f s = .next z → State.memWf z := by
  unfold execVaFma
  refine onCore_wf _ _ hs fun _ _ => ?_
  repeat' (first | with_reducible assumption | with_reducible apply trigger0_wf)
theorem execVaFms_wf (src : Src) (u : VaUnit) (f : Fmt) (s : State) (hs : State.memWf s) : ∀ z, execVaFms src u f s = .next z → State.memWf z := by
  unfold execVaFms
  refine onCore_wf _ _ hs fun _ _ => ?_
  repeat' (first | with_reducible assumption | with_reducible apply trigger0_wf)
theorem execVaFnma_wf (src : Src) (u : VaUnit) (f : Fmt) (s : State) (hs : State.memWf s) : ∀ z, execVaFnma src u f s = .next z → State.memWf z := by
  unfold execVaFnma
  refine onCore_wf _ _ hs fun _ _ => ?_
  repeat' (first | with_reducible assumption | with_reducible apply trigger0_wf)
theorem execVaMin_wf (src : Src) (u : VaUnit) (f : Fmt) (s : State) (hs : State.memWf s) : ∀ z, execVaMin src u f s = .next z → State.memWf z := by
  unfold execVaMin
  refine onCore_wf _ _ hs fun _ _ => ?_
  repeat' (first | with_reducible assumption | with_reducible apply trigger0_wf)
theorem execVaMax_wf (src : Src) (u : VaUnit) (f : Fmt) (s : State) (hs : State.memWf s) : ∀ z, execVaMax src u f s = .next z → State.memWf z := by
  unfold execVaMax
  refine onCore_wf _ _ hs fun _ _ => ?_
  repeat' (first | with_reducible assumption | with_reducible apply trigger0_wf)
theorem execVaAbs_wf (src : Src) (u : VaUnit) (f : Fmt) (s : State) (hs : State.memWf s) : ∀ z, execVaAbs src u f s = .next z → State.memWf z := by
  unfold execVaAbs
  refine onCore_wf _ _ hs fun _ _ => ?_
  repeat' (first | with_reducible assumption | with_reducible apply trigger0_wf)
theorem execVaNeg_wf (src : Src) (u : VaUnit) (f : Fmt) (s : State) (hs : State.memWf s) : ∀ z, execVaNeg src u f s = .next z → State.memWf z := by
  unfold execVaNeg
  refine onCore_wf _ _ hs fun _ _ => ?_
  repeat' (first | with_reducible assumption | with_reducible apply trigger0_wf)
theorem execVaAnd_wf (src : Src) (u : VaUnit) (f : Fmt) (s : State) (hs : State.memWf s) : ∀ z, execVaAnd src u f s = .next z → State.memWf z := by
  unfold execVaAnd
  refine onCore_wf _ _ hs fun _ _ => ?_
  repeat' (first | with_reducible assumption | with_reducible apply trigger0_wf)
theorem execVaOr_wf (src : Src) (u : VaUnit) (f : Fmt) (s : State) (hs : State.memWf s) : ∀ z, execVaOr src u f s = .next z → State.memWf z := by
  unfold execVaOr
  refine onCore_wf _ _ hs fun _ _ => ?_
  repeat' (first | with_reducible assumption | with_reducible apply trigger0_wf)
theorem execVaXor_wf (src : Src) (u : VaUnit) (f : Fmt) (s : State) (hs : State.memWf s) : ∀ z, execVaXor src u f s = .next z → State.memWf z := by
  unfold execVaXor
  refine onCore_wf _ _ hs fun _ _ => ?_
  repeat' (first | with_reducible assumption | with_reducible apply trigger0_wf)
theorem execVaAndn_wf (src : Src) (u : VaUnit) (f : Fmt) (s : State) (hs : State.memWf s) : ∀ z, execVaAndn src u f s = .next z → State.memWf z := by
  unfold execVaAndn
  refine onCore_wf _ _ hs fun _ _ => ?_
  repeat' (first | with_reducible assumption | with_reducible apply trigger0_wf)
theorem execVaNot_wf (src : Src) (u : VaUnit) (f : Fmt) (s : State) (hs : State.memWf s) : ∀ z, execVaNot src u f s = .next z → State.memWf z := by
  unfold execVaNot
  refine onCore_wf _ _ hs fun _ _ => ?_
  repeat' (first | with_reducible assumption | with_reducible apply trigger0_wf)
theorem execVaSll_wf (src : Src) (u : VaUnit) (f : Fmt) (s : State) (hs : State.memWf s) : ∀ z, execVaSll src u f s = .next z → State.memWf z := by
  unfold execVaSll
  refine onCore_wf _ _ hs fun _ _ => ?_
  repeat' (first | with_reducible assumption | with_reducible apply trigger0_wf)
theorem execVaSrl_wf (src : Src) (u : VaUnit) (f : Fmt) (s : State) (hs : State.memWf s) : ∀ z, execVaSrl src u f s = .next z → State.memWf z := by
  unfold execVaSrl
  refine onCore_wf _ _ hs fun _ _ => ?_
  repeat' (first | with_reducible assumption | with_reducible apply trigger0_wf)
theorem execVaSra_wf (src : Src) (u : VaUnit) (f : Fmt) (s : State) (hs : State.memWf s) : ∀ z, execVaSra src u f s = .next z → State.memWf z := by
  unfold execVaSra
  refine onCore_wf _ _ hs fun _ _ => ?_
  repeat' (first | with_reducible assumption | with_reducible apply trigger0_wf)
theorem execVaMulhi_wf (src : Src) (u : VaUnit) (f : Fmt) (s : State) (hs : State.memWf s) : ∀ z, execVaMulhi src u f s = .next z → State.memWf z := by
  unfold execVaMulhi
  refine onCore_wf _ _ hs fun _ _ => ?_
  repeat' (first | with_reducible assumption | with_reducible apply trigger0_wf)
theorem execVaSel_wf (src : Src) (u : VaUnit) (f : Fmt) (s : State) (hs : State.memWf s) : ∀ z, execVaSel src u f s = .next z → State.memWf z := by
  unfold execVaSel
  refine onCore_wf _ _ hs fun _ _ => ?_
  repeat' (first | with_reducible assumption | with_reducible apply trigger0_wf)
theorem execVaCeq_wf (src : Src) (u : VaUnit) (f : Fmt) (s : State) (hs : State.memWf s) : ∀ z, execVaCeq src u f s = .next z → State.memWf z := by
  unfold execVaCeq
  refine onCore_wf _ _ hs fun _ _ => ?_
  repeat' (first | with_reducible assumption | with_reducible apply trigger0_wf)
theorem execVaCne_wf (src : Src) (u : VaUnit) (f : Fmt) (s : State) (hs : State.memWf s) : ∀ z, execVaCne src u f s = .next z → State.memWf z := by
  unfold execVaCne
  refine onCore_wf _ _ hs fun _ _ => ?_
  repeat' (first | with_reducible assumption | with_reducible apply trigger0_wf)
theorem execVaClt_wf (src : Src) (u : VaUnit) (f : Fmt) (s : State) (hs : State.memWf s) : ∀ z, execVaClt src u f s = .next z → State.memWf z := by
  unfold execVaClt
  refine onCore_wf _ _ hs fun _ _ => ?_
  repeat' (first | with_reducible assumption | with_reducible apply trigger0_wf)
theorem execVaCle_wf (src : Src) (u : VaUnit) (f : Fmt) (s : State) (hs : State.memWf s) : ∀ z, execVaCle src u f s = .next z → State.memWf z := by
  unfold execVaCle
  refine onCore_wf _ _ hs fun _ _ => ?_
  repeat' (first | with_reducible assumption | with_reducible apply trigger0_wf)
theorem execVaCun_wf (src : Src) (u : VaUnit) (f : Fmt) (s : State) (hs : State.memWf s) : ∀ z, execVaCun src u f s = .next z → State.memWf z := by
  unfold execVaCun
  refine onCore_wf _ _ hs fun _ _ => ?_
  repeat' (first | with_reducible assumption | with_reducible apply trigger0_wf)
theorem execVaKand_wf (src : Src) (u : VaUnit) (f : Fmt) (s : State) (hs : State.memWf s) : ∀ z, execVaKand src u f s = .next z → State.memWf z := by
  unfold execVaKand
  refine onCore_wf _ _ hs fun _ _ => ?_
  repeat' (first | with_reducible assumption | with_reducible apply trigger0_wf)
theorem execVaKor_wf (src : Src) (u : VaUnit) (f : Fmt) (s : State) (hs : State.memWf s) : ∀ z, execVaKor src u f s = .next z → State.memWf z := by
  unfold execVaKor
  refine onCore_wf _ _ hs fun _ _ => ?_
  repeat' (first | with_reducible assumption | with_reducible apply trigger0_wf)
theorem execVaKxor_wf (src : Src) (u : VaUnit) (f : Fmt) (s : State) (hs : State.memWf s) : ∀ z, execVaKxor src u f s = .next z → State.memWf z := by
  unfold execVaKxor
  refine onCore_wf _ _ hs fun _ _ => ?_
  repeat' (first | with_reducible assumption | with_reducible apply trigger0_wf)
theorem execVaKandn_wf (src : Src) (u : VaUnit) (f : Fmt) (s : State) (hs : State.memWf s) : ∀ z, execVaKandn src u f s = .next z → State.memWf z := by
  unfold execVaKandn
  refine onCore_wf _ _ hs fun _ _ => ?_
  repeat' (first | with_reducible assumption | with_reducible apply trigger0_wf)
theorem execVaKnot_wf (src : Src) (u : VaUnit) (f : Fmt) (s : State) (hs : State.memWf s) : ∀ z, execVaKnot src u f s = .next z → State.memWf z := by
  unfold execVaKnot
  refine onCore_wf _ _ hs fun _ _ => ?_
  repeat' (first | with_reducible assumption | with_reducible apply trigger0_wf)
theorem execVaKcnt_wf (src : Src) (u : VaUnit) (f : Fmt) (s : State) (hs : State.memWf s) : ∀ z, execVaKcnt src u f s = .next z → State.memWf z := by
  unfold execVaKcnt
  refine onCore_wf _ _ hs fun _ _ => ?_
  repeat' (first | with_reducible assumption | with_reducible apply trigger0_wf)
theorem execVpRotr_wf (src : Src) (f : Fmt) (s : State) (hs : State.memWf s) : ∀ z, execVpRotr src f s = .next z → State.memWf z := by
  unfold execVpRotr
  refine onCore_wf _ _ hs fun _ _ => ?_
  repeat' (first | with_reducible assumption | with_reducible apply trigger0_wf)
theorem execVpBcr_wf (src : Src) (f : Fmt) (s : State) (hs : State.memWf s) : ∀ z, execVpBcr src f s = .next z → State.memWf z := by
  unfold execVpBcr
  refine onCore_wf _ _ hs fun _ _ => ?_
  repeat' (first | with_reducible assumption | with_reducible apply trigger0_wf)
theorem execVpSumr_wf (src : Src) (f : Fmt) (s : State) (hs : State.memWf s) : ∀ z, execVpSumr src f s = .next z → State.memWf z := by
  unfold execVpSumr
  refine onCore_wf _ _ hs fun _ _ => ?_
  repeat' (first | with_reducible assumption | with_reducible apply trigger0_wf)
theorem execVpMaxr_wf (src : Src) (f : Fmt) (s : State) (hs : State.memWf s) : ∀ z, execVpMaxr src f s = .next z → State.memWf z := by
  unfold execVpMaxr
  refine onCore_wf _ _ hs fun _ _ => ?_
  repeat' (first | with_reducible assumption | with_reducible apply trigger0_wf)
theorem execVpMinr_wf (src : Src) (f : Fmt) (s : State) (hs : State.memWf s) : ∀ z, execVpMinr src f s = .next z → State.memWf z := by
  unfold execVpMinr
  refine onCore_wf _ _ hs fun _ _ => ?_
  repeat' (first | with_reducible assumption | with_reducible apply trigger0_wf)
theorem execVpRotc_wf (src : Src) (f : Fmt) (s : State) (hs : State.memWf s) : ∀ z, execVpRotc src f s = .next z → State.memWf z := by
  unfold execVpRotc
  refine onCore_wf _ _ hs fun _ _ => ?_
  repeat' (first | with_reducible assumption | with_reducible apply trigger0_wf)
theorem execVpBcc_wf (src : Src) (f : Fmt) (s : State) (hs : State.memWf s) : ∀ z, execVpBcc src f s = .next z → State.memWf z := by
  unfold execVpBcc
  refine onCore_wf _ _ hs fun _ _ => ?_
  repeat' (first | with_reducible assumption | with_reducible apply trigger0_wf)
theorem execVpSumc_wf (src : Src) (f : Fmt) (s : State) (hs : State.memWf s) : ∀ z, execVpSumc src f s = .next z → State.memWf z := by
  unfold execVpSumc
  refine onCore_wf _ _ hs fun _ _ => ?_
  repeat' (first | with_reducible assumption | with_reducible apply trigger0_wf)
theorem execVpMaxc_wf (src : Src) (f : Fmt) (s : State) (hs : State.memWf s) : ∀ z, execVpMaxc src f s = .next z → State.memWf z := by
  unfold execVpMaxc
  refine onCore_wf _ _ hs fun _ _ => ?_
  repeat' (first | with_reducible assumption | with_reducible apply trigger0_wf)
theorem execVpMinc_wf (src : Src) (f : Fmt) (s : State) (hs : State.memWf s) : ∀ z, execVpMinc src f s = .next z → State.memWf z := by
  unfold execVpMinc
  refine onCore_wf _ _ hs fun _ _ => ?_
  repeat' (first | with_reducible assumption | with_reducible apply trigger0_wf)
theorem execVpTrn16_wf (src : Src) (f : Fmt) (s : State) (hs : State.memWf s) : ∀ z, execVpTrn16 src f s = .next z → State.memWf z := by
  unfold execVpTrn16
  refine onCore_wf _ _ hs fun _ _ => ?_
  repeat' (first | with_reducible assumption | with_reducible apply trigger0_wf)
theorem execVpShuf_wf (src : Src) (f : Fmt) (s : State) (hs : State.memWf s) : ∀ z, execVpShuf src f s = .next z → State.memWf z := by
  unfold execVpShuf
  refine onCore_wf _ _ hs fun _ _ => ?_
  repeat' (first | with_reducible assumption | with_reducible apply trigger0_wf)
theorem execSfExp2_wf (src : Src) (f : Fmt) (s : State) (hs : State.memWf s) : ∀ z, execSfExp2 src f s = .next z → State.memWf z := by
  unfold execSfExp2
  refine onCore_wf _ _ hs fun _ _ => ?_
  repeat' (first | with_reducible assumption | with_reducible apply trigger0_wf)
theorem execSfLog2_wf (src : Src) (f : Fmt) (s : State) (hs : State.memWf s) : ∀ z, execSfLog2 src f s = .next z → State.memWf z := by
  unfold execSfLog2
  refine onCore_wf _ _ hs fun _ _ => ?_
  repeat' (first | with_reducible assumption | with_reducible apply trigger0_wf)
theorem execSfRcp_wf (src : Src) (f : Fmt) (s : State) (hs : State.memWf s) : ∀ z, execSfRcp src f s = .next z → State.memWf z := by
  unfold execSfRcp
  refine onCore_wf _ _ hs fun _ _ => ?_
  repeat' (first | with_reducible assumption | with_reducible apply trigger0_wf)
theorem execSfRsqrt_wf (src : Src) (f : Fmt) (s : State) (hs : State.memWf s) : ∀ z, execSfRsqrt src f s = .next z → State.memWf z := by
  unfold execSfRsqrt
  refine onCore_wf _ _ hs fun _ _ => ?_
  repeat' (first | with_reducible assumption | with_reducible apply trigger0_wf)
theorem execSfSqrt_wf (src : Src) (f : Fmt) (s : State) (hs : State.memWf s) : ∀ z, execSfSqrt src f s = .next z → State.memWf z := by
  unfold execSfSqrt
  refine onCore_wf _ _ hs fun _ _ => ?_
  repeat' (first | with_reducible assumption | with_reducible apply trigger0_wf)
theorem execSfTanh_wf (src : Src) (f : Fmt) (s : State) (hs : State.memWf s) : ∀ z, execSfTanh src f s = .next z → State.memWf z := by
  unfold execSfTanh
  refine onCore_wf _ _ hs fun _ _ => ?_
  repeat' (first | with_reducible assumption | with_reducible apply trigger0_wf)
theorem execSfSin_wf (src : Src) (f : Fmt) (s : State) (hs : State.memWf s) : ∀ z, execSfSin src f s = .next z → State.memWf z := by
  unfold execSfSin
  refine onCore_wf _ _ hs fun _ _ => ?_
  repeat' (first | with_reducible assumption | with_reducible apply trigger0_wf)
theorem execSfCos_wf (src : Src) (f : Fmt) (s : State) (hs : State.memWf s) : ∀ z, execSfCos src f s = .next z → State.memWf z := by
  unfold execSfCos
  refine onCore_wf _ _ hs fun _ _ => ?_
  repeat' (first | with_reducible assumption | with_reducible apply trigger0_wf)
theorem execSfErf_wf (src : Src) (f : Fmt) (s : State) (hs : State.memWf s) : ∀ z, execSfErf src f s = .next z → State.memWf z := by
  unfold execSfErf
  refine onCore_wf _ _ hs fun _ _ => ?_
  repeat' (first | with_reducible assumption | with_reducible apply trigger0_wf)
theorem execCvDn_wf (src : Src) (t : CvFmt) (r : Rnd) (o : OvPol) (s : State) (hs : State.memWf s) : ∀ z, execCvDn src t r o s = .next z → State.memWf z := by
  unfold execCvDn
  refine onCore_wf _ _ hs fun _ _ => ?_
  repeat' (first | with_reducible assumption | with_reducible apply trigger0_wf)
theorem execCvUp_wf (src : Src) (t : CvFmt) (s : State) (hs : State.memWf s) : ∀ z, execCvUp src t s = .next z → State.memWf z := by
  unfold execCvUp
  refine onCore_wf _ _ hs fun _ _ => ?_
  repeat' (first | with_reducible assumption | with_reducible apply trigger0_wf)
theorem execCvUpRounding_wf (src : Src) (t : CvFmt) (r : Rnd) (s : State) (hs : State.memWf s) : ∀ z, execCvUpRounding src t r s = .next z → State.memWf z := by
  unfold execCvUpRounding
  refine onCore_wf _ _ hs fun _ _ => ?_
  repeat' (first | with_reducible assumption | with_reducible apply trigger0_wf)
theorem triggerWc_wf (i : Instr) (src : Src) (s : State) (hs : State.memWf s) : State.memWf (triggerWc i src s) := by
  unfold triggerWc
  repeat' (first | with_reducible assumption | with_reducible apply State.modMe_wf | with_reducible apply trigger_wf)
theorem execWcSig_wf (src : Src) (s : State) (hs : State.memWf s) : ∀ z, execWcSig src s = .next z → State.memWf z := by
  unfold execWcSig
  refine onCore_wf _ _ hs fun _ _ => ?_
  repeat' (first | with_reducible assumption | with_reducible apply triggerWc_wf)
theorem execWcSigclr_wf (src : Src) (s : State) (hs : State.memWf s) : ∀ z, execWcSigclr src s = .next z → State.memWf z := by
  unfold execWcSigclr
  refine onCore_wf _ _ hs fun _ _ => ?_
  repeat' (first | with_reducible assumption | with_reducible apply triggerWc_wf)
theorem execWcCmp_wf (src : Src) (s : State) (hs : State.memWf s) : ∀ z, execWcCmp src s = .next z → State.memWf z := by
  unfold execWcCmp
  refine onCore_wf _ _ hs fun _ _ => ?_
  repeat' (first | with_reducible assumption | with_reducible apply triggerWc_wf)
theorem execApRd_wf (src : Src) (s : State) (hs : State.memWf s) : ∀ z, execApRd src s = .next z → State.memWf z := by
  unfold execApRd
  refine onCore_wf _ _ hs fun _ _ => ?_
  repeat' (first | with_reducible assumption | with_reducible apply trigger_wf)
theorem execApWr_wf (src : Src) (s : State) (hs : State.memWf s) : ∀ z, execApWr src s = .next z → State.memWf z := by
  unfold execApWr
  refine onCore_wf _ _ hs fun _ _ => ?_
  repeat' (first | with_reducible assumption | with_reducible apply trigger0_wf)
theorem execApAcc_wf (src : Src) (s : State) (hs : State.memWf s) : ∀ z, execApAcc src s = .next z → State.memWf z := by
  unfold execApAcc
  refine onCore_wf _ _ hs fun _ _ => ?_
  repeat' (first | with_reducible assumption | with_reducible apply trigger0_wf)
theorem State.spmVerify_wf (st : State) (c : Nat) (ps : List (Nat × Nat)) (hst : State.memWf st) : State.memWf (State.spmVerify st c ps).2 := by
  unfold State.spmVerify
  repeat' (first | with_reducible assumption | with_reducible apply State.arrayRead_wf | split)
theorem execPush_wf (s : BitVec 2) (ga : BitVec 2) (gb : BitVec 2) (fa : ArrFmt) (fb : ArrFmt) (p : BitVec 3) (sp : Bool) (st : State) (hst : State.memWf st) : ∀ z, execPush s ga gb fa fb p sp st = .next z → State.memWf z :=
  onCore_wf _ _ hst fun _ ht => State.modMe_wf _ _ (State.spmVerify_wf _ _ _ ht)
theorem execAcc_wf (s : BitVec 2) (fa : ArrFmt) (fb : ArrFmt) (p : BitVec 3) (sp : Bool) (st : State) (hst : State.memWf st) : ∀ z, execAcc s fa fb p sp st = .next z → State.memWf z := by
  unfold execAcc
  refine onCore_wf _ _ hst fun _ _ => ?_
  repeat' (first | with_reducible assumption | with_reducible apply State.modMe_wf | split)
theorem execAccp_wf (s : BitVec 2) (ga : BitVec 2) (gb : BitVec 2) (fa : ArrFmt) (fb : ArrFmt) (p : BitVec 3) (sp : Bool) (t : BitVec 2) (st : State) (hst : State.memWf st) : ∀ z, execAccp s ga gb fa fb p sp t st = .next z → State.memWf z :=
  onCore_wf _ _ hst fun _ ht => State.modMe_wf _ _ (State.spmVerify_wf _ _ _ ht)
theorem execShift_wf (s : BitVec 2) (n : BitVec 3) (st : State) (hst : State.memWf st) : ∀ z, execShift s n st = .next z → State.memWf z := by
  unfold execShift
  refine onCore_wf _ _ hst fun _ _ => ?_
  repeat' (first | with_reducible assumption | with_reducible apply State.modMe_wf | split)
theorem execClear_wf (st : State) (hst : State.memWf st) : ∀ z, execClear st = .next z → State.memWf z := by
  unfold execClear
  refine onCore_wf _ _ hst fun _ _ => ?_
  repeat' (first | with_reducible assumption | with_reducible apply State.modMe_wf | split)
theorem execDchk_wf (st : State) (hst : State.memWf st) : ∀ z, execDchk st = .next z → State.memWf z := by
  unfold execDchk
  refine onCore_wf _ _ hst fun _ _ => ?_
  repeat' (first | with_reducible assumption | with_reducible apply State.modMe_wf)
theorem execDrain_wf (tile : BitVec 5) (grp : BitVec 4) (add : Bool) (final : Bool) (st : State) (hst : State.memWf st) : ∀ z, execDrain tile grp add final st = .next z → State.memWf z := by
  unfold execDrain
  refine onCore_wf _ _ hst fun _ _ => ?_
  repeat' (first | with_reducible assumption | with_reducible apply State.modMe_wf)
theorem execMloc_wf (vd : BitVec 8) (st : State) (hst : State.memWf st) : ∀ z, execMloc vd st = .next z → State.memWf z := by
  unfold execMloc
  refine onCore_wf _ _ hst fun _ _ => ?_
  repeat' (first | with_reducible assumption | with_reducible apply State.modMe_wf)
theorem execMfix_wf (i : BitVec 7) (j : BitVec 7) (st : State) (hst : State.memWf st) : ∀ z, execMfix i j st = .next z → State.memWf z := by
  unfold execMfix
  refine onCore_wf _ _ hst fun _ _ => ?_
  repeat' (first | with_reducible assumption | with_reducible apply State.modMe_wf)
theorem execMpass_wf (st : State) (hst : State.memWf st) : ∀ z, execMpass st = .next z → State.memWf z := by
  unfold execMpass
  refine onCore_wf _ _ hst fun _ _ => ?_
  repeat' (first | with_reducible assumption | with_reducible apply State.modMe_wf)
theorem execMretry_wf (st : State) (hst : State.memWf st) : ∀ z, execMretry st = .next z → State.memWf z := by
  intro z h; unfold execMretry at h
  have h := (onCore_eq _ _ _ h : z = _)
  subst h; try dsimp only
  repeat' (first | with_reducible assumption | with_reducible apply State.modMe_wf | with_reducible apply guardLevel_wf | with_reducible apply foldl_wf | with_reducible apply foldl_wf2 | with_reducible apply foldl_wf1 | split | intro _)
theorem execMclaim_wf (st : State) (hst : State.memWf st) : ∀ z, execMclaim st = .next z → State.memWf z := by
  intro z h; unfold execMclaim at h
  have h := (onCore_eq _ _ _ h : z = _)
  subst h; try dsimp only
  repeat' (first | with_reducible assumption | with_reducible apply State.modMe_wf | with_reducible apply guardLevel_wf | with_reducible apply foldl_wf | with_reducible apply foldl_wf2 | with_reducible apply foldl_wf1 | split | intro _)
theorem execMrelease_wf (st : State) (hst : State.memWf st) : ∀ z, execMrelease st = .next z → State.memWf z := by
  intro z h; unfold execMrelease at h
  have h := (onCore_eq _ _ _ h : z = _)
  subst h; try dsimp only
  repeat' (first | with_reducible assumption | with_reducible apply State.modMe_wf | with_reducible apply guardLevel_wf | with_reducible apply foldl_wf | with_reducible apply foldl_wf2 | with_reducible apply foldl_wf1 | split | intro _)
theorem issueSc_wf (i : Instr) (ag : BitVec 2) (st : State) (hst : State.memWf st) : State.memWf (issueSc i ag st) := by
  unfold issueSc
  repeat' (first | with_reducible assumption | with_reducible apply State.modMe_wf | with_reducible apply State.spmVerify_wf | split)
theorem execScla_wf (s : BitVec 2) (ag : BitVec 2) (st : State) (hst : State.memWf st) : ∀ z, execScla s ag st = .next z → State.memWf z := by
  unfold execScla
  refine onCore_wf _ _ hst fun _ _ => ?_
  repeat' (first | with_reducible assumption | with_reducible apply issueSc_wf)
theorem execSclb_wf (s : BitVec 2) (ag : BitVec 2) (st : State) (hst : State.memWf st) : ∀ z, execSclb s ag st = .next z → State.memWf z := by
  unfold execSclb
  refine onCore_wf _ _ hst fun _ _ => ?_
  repeat' (first | with_reducible assumption | with_reducible apply issueSc_wf)
theorem execSmap_wf (ag : BitVec 2) (st : State) (hst : State.memWf st) : ∀ z, execSmap ag st = .next z → State.memWf z := by
  unfold execSmap
  refine onCore_wf _ _ hst fun _ _ => ?_
  repeat' (first | with_reducible assumption | with_reducible apply issueSc_wf)
theorem execSidx_wf (s : BitVec 2) (ag : BitVec 2) (kw : BitVec 2) (st : State) (hst : State.memWf st) : ∀ z, execSidx s ag kw st = .next z → State.memWf z := by
  unfold execSidx
  refine onCore_wf _ _ hst fun _ _ => ?_
  repeat' (first | with_reducible assumption | with_reducible apply issueSc_wf)

end Sys2Proof.Machine
end

