-- ==== Sys2Proof/Laws/MemEngines.lean ====
section
/-! SUPPORT. Memory stays in its canonical form (State.memWf): one lemma for each of
every operation of the copy engines, the stacks, the collectives and the records. -/
namespace Sys2Proof.Machine

open Sys2Proof

theorem State.setHead_wf (s : State) (c : Nat) (n : Nat) (q : Cmd) (hs : State.memWf s) : State.memWf (State.setHead s c n q) := by
  unfold State.setHead
  repeat' (first | with_reducible assumption | with_reducible apply State.modCore_wf)
theorem issueCopy_wf (kind : Nat) (nRegs : Nat) (m : CArgs) (s : State) (hs : State.memWf s) : State.memWf (issueCopy kind nRegs m s) := by
  unfold issueCopy
  repeat' (first | with_reducible assumption | with_reducible apply State.modMe_wf)
theorem execCpy_wf (m : CArgs) (s : State) (hs : State.memWf s) : ∀ z, execCpy m s = .next z → State.memWf z := by
  unfold execCpy
  refine onCore_wf _ _ hs fun _ _ => ?_
  repeat' (first | with_reducible assumption | with_reducible apply issueCopy_wf)
theorem execCpy2d_wf (m : CArgs) (s : State) (hs : State.memWf s) : ∀ z, execCpy2d m s = .next z → State.memWf z := by
  unfold execCpy2d
  refine onCore_wf _ _ hs fun _ _ => ?_
  repeat' (first | with_reducible assumption | with_reducible apply issueCopy_wf)
theorem execCpyg_wf (m : CArgs) (s : State) (hs : State.memWf s) : ∀ z, execCpyg m s = .next z → State.memWf z := by
  unfold execCpyg
  refine onCore_wf _ _ hs fun _ _ => ?_
  repeat' (first | with_reducible assumption | with_reducible apply issueCopy_wf)
theorem State.spot_wf (s : State) (c : Nat) (q : Cmd) (sp : Space) (a : Nat) (n : Nat) (write : Bool) (hs : State.memWf s) : State.memWf (State.spot s c q sp a n write).2 := by
  unfold State.spot; try dsimp only
  repeat' (first | with_reducible assumption | with_reducible apply State.route_wf | with_reducible apply foldl_wf | with_reducible apply foldl_wf2 | with_reducible apply foldl_wf1 | split | intro _)
  all_goals grind [State.route_wf, foldl_wf, foldl_wf2, foldl_wf1, Sparse.wf_setBytes]
theorem State.spotOpen_wf (s : State) (c : Nat) (p : Spot) (write : Bool) (hs : State.memWf s) : ∀ z, State.spotOpen s c p write = some z → State.memWf z := by
  unfold State.spotOpen; try dsimp only
  all_goals grind [State.grantAt_wf, foldl_wf, foldl_wf2, foldl_wf1, Sparse.wf_setBytes]
theorem State.spotRead_wf (s : State) (cx : Ctx) (p : Spot) (n : Nat) (fresh : Bool) (u : Upset) (hs : State.memWf s) : State.memWf (State.spotRead s cx p n fresh u).2 := by
  unfold State.spotRead
  repeat' (first | with_reducible assumption | with_reducible apply State.arrayRead_wf | with_reducible apply State.readMain_wf | with_reducible apply State.readPart_wf | split)
theorem State.spotWrite_wf (s : State) (cx : Ctx) (p : Spot) (bs : List Byte) (fresh : Bool) (hs : State.memWf s) : State.memWf (State.spotWrite s cx p bs fresh).2 := by
  unfold State.spotWrite; dsimp only
  repeat' (first | with_reducible assumption | with_reducible apply State.arrayWritten_wf | with_reducible apply State.dirty_wf | with_reducible apply State.modCore_wf | with_reducible apply State.writeGrv_wf | with_reducible apply State.writeMain_wf | with_reducible apply State.writePart_wf | split)
theorem State.tableEntry_wf (s : State) (c : Nat) (q : Cmd) (e : Nat) (hs : State.memWf s) : State.memWf (State.tableEntry s c q e).2 := by
  unfold State.tableEntry; try dsimp only
  all_goals grind [State.spotOpen_wf, State.spotRead_wf, foldl_wf, foldl_wf2, foldl_wf1, Sparse.wf_setBytes]
theorem State.countWp_wf (s : State) (c : Nat) (q : Cmd) (k : Nat) (hs : State.memWf s) : State.memWf (State.countWp s c q k) := by
  unfold State.countWp
  assumption
theorem State.creditCmd_wf (s : State) (c : Nat) (q : Cmd) (hs : State.memWf s) : State.memWf (State.creditCmd s c q).1 := by
  unfold State.creditCmd
  repeat' (first | with_reducible assumption | with_reducible apply State.countWp_wf | split)
theorem State.moveRun_wf (s : State) (c : Nat) (q : Cmd) (from_ : Spot) (to_ : Spot) (k : Nat) (idx : Option Nat) (u : Upset) (hs : State.memWf s) : State.memWf (State.moveRun s c q from_ to_ k idx u).1 := by
  unfold State.moveRun; try dsimp only
  repeat' (first | with_reducible assumption | with_reducible apply State.countWp_wf | with_reducible apply State.spotRead_wf | with_reducible apply State.spotWrite_wf | with_reducible apply foldl_wf | with_reducible apply foldl_wf2 | with_reducible apply foldl_wf1 | split | intro _)
  all_goals grind [State.countWp_wf, State.spotRead_wf, State.spotWrite_wf, foldl_wf, foldl_wf2, foldl_wf1, Sparse.wf_setBytes]
theorem State.copyRun_wf (s : State) (c : Nat) (q : Cmd) (n : Nat) (u : Upset) (hs : State.memWf s) : State.memWf (State.copyRun s c q n u).1 := by
  have spot : ∀ (t : State) sp a k w x, t.spot c q sp a k w = x → State.memWf t → State.memWf x.2 := fun t sp a k w x e ht => e ▸ State.spot_wf t c q sp a k w ht
  unfold State.copyRun; dsimp only
  have ht := State.tableEntry_wf s c q (q.place q.progress).1 hs
  split <;> rename_i e1 <;> rw [e1] at ht
  · exact ht
  · exact ht
  · split <;> rename_i e2 <;> have h2 := spot _ _ _ _ _ _ e2 ht
    · exact h2
    · exact h2
    · split <;> rename_i e3 <;> have h3 := spot _ _ _ _ _ _ e3 h2
      · exact h3
      · exact h3
      · split
        · exact h3
        · rename_i e4
          obtain ⟨t, e5, e6⟩ := Option.bind_eq_some_iff.1 e4
          exact State.moveRun_wf _ _ _ _ _ _ _ _ (State.spotOpen_wf _ _ _ _ (State.spotOpen_wf _ _ _ _ h3 _ e5) _ e6)
theorem State.deliver_wf (s : State) (c : Nat) (q : Cmd) (a : Nat) (a' : Nat) (a'' : Upset) (hs : State.memWf s) : State.memWf (State.deliver s c q a a' a'').1 := by
  induction a generalizing s q a' a'' with
  | zero => unfold State.deliver; exact hs
  | succ fuel ih => unfold State.deliver; grind [State.copyRun_wf]
theorem State.storeHome_wf (s : State) (cx : Ctx) (h : Home) (pa : Nat) (gp : Nat) (bs : List Byte) (hs : State.memWf s) : State.memWf (State.storeHome s cx h pa gp bs).2 := by
  unfold State.storeHome; try dsimp only
  repeat' (first | with_reducible assumption | with_reducible apply State.dirtyCx_wf | with_reducible apply State.send_wf | with_reducible apply State.writeMain_wf | with_reducible apply foldl_wf | with_reducible apply foldl_wf2 | with_reducible apply foldl_wf1 | split | intro _)
  all_goals grind [State.dirtyCx_wf, State.send_wf, State.writeMain_wf, foldl_wf, foldl_wf2, foldl_wf1, Sparse.wf_setBytes]
theorem State.engineStore_wf (s : State) (cx : Ctx) (clr : Bool) (a : Nat) (bs : List Byte) (hs : State.memWf s) : State.memWf (State.engineStore s cx clr a bs).2 := by
  unfold State.engineStore
  repeat' (first | with_reducible assumption | with_reducible apply State.route_wf | with_reducible apply State.storeHome_wf | with_reducible apply State.writeClr_wf | with_reducible apply foldl_wf | with_reducible apply foldl_wf2 | with_reducible apply foldl_wf1 | split | intro _)
  all_goals grind [State.route_wf, State.storeHome_wf, State.writeClr_wf, foldl_wf, foldl_wf2, foldl_wf1, Sparse.wf_setBytes]
theorem State.addHome_wf (s : State) (cx : Ctx) (h : Home) (pa : Nat) (gp : Nat) (v : Nat) (src : Nat) (hs : State.memWf s) : State.memWf (State.addHome s cx h pa gp v src).2 := by
  unfold State.addHome; try dsimp only
  all_goals grind [State.admits_wf, State.correct_wf, State.dirtyCx_wf, State.failRecord_wf, State.ringAddMain_wf, State.send_wf, foldl_wf, foldl_wf2, foldl_wf1, Sparse.wf_setBytes]
theorem State.wroteOr_wf (s : State) (o : Option State) (hs : State.memWf s) (ho : ∀ t, o = some t → State.memWf t) : State.memWf (State.wroteOr s o).2 := by
  unfold State.wroteOr
  split
  · exact ho _ rfl
  · exact hs
theorem State.addClr_wf (s : State) (cx : Ctx) (u : Nat) (a : Nat) (v : Nat) (src : Nat) (hs : State.memWf s) : State.memWf (State.addClr s cx u a v src).2 := by
  exact State.wroteOr_wf s _ hs (State.ringAddClr_wf s u a v src cx.core hs)
theorem State.engineAdd_wf (s : State) (cx : Ctx) (clr : Bool) (a : Nat) (v : Nat) (src : Nat) (hs : State.memWf s) : State.memWf (State.engineAdd s cx clr a v src).2 := by
  unfold State.engineAdd
  split
  · split
    · exact hs
    · exact State.addClr_wf _ _ _ _ _ _ hs
  · have hr := State.route_wf s cx { r := true, w := true } a hs
    split
    · rename_i h; rw [h] at hr; exact hr
    · rename_i h; rw [h] at hr; exact State.addHome_wf _ _ _ _ _ _ _ hr
theorem State.cmdStatus_wf (s : State) (cx : Ctx) (q : Cmd) (hs : State.memWf s) : State.memWf (State.cmdStatus s cx q).1 := by
  unfold State.cmdStatus; try dsimp only
  repeat' (first | with_reducible assumption | with_reducible apply State.engineStore_wf | with_reducible apply foldl_wf | with_reducible apply foldl_wf2 | with_reducible apply foldl_wf1 | split | intro _)
  all_goals grind [State.engineStore_wf, foldl_wf, foldl_wf2, foldl_wf1, Sparse.wf_setBytes]
theorem State.cmdRing_wf (s : State) (cx : Ctx) (q : Cmd) (hs : State.memWf s) : State.memWf (State.cmdRing s cx q).1 := by
  unfold State.cmdRing; try dsimp only
  repeat' (first | with_reducible assumption | with_reducible apply State.engineAdd_wf | with_reducible apply foldl_wf | with_reducible apply foldl_wf2 | with_reducible apply foldl_wf1 | split | intro _)
  all_goals grind [State.engineAdd_wf, foldl_wf, foldl_wf2, foldl_wf1, Sparse.wf_setBytes]
theorem State.lastSteps_wf (s : State) (cx : Ctx) (q : Cmd) (hs : State.memWf s) : State.memWf (State.lastSteps s cx q).1 := by
  unfold State.lastSteps; dsimp only
  repeat' (first | with_reducible assumption | with_reducible apply State.cmdRing_wf | with_reducible apply State.cmdStatus_wf | split)
theorem State.complete_wf (s : State) (c : Nat) (q : Cmd) (hs : State.memWf s) : State.memWf (State.complete s c q) := by
  unfold State.complete; dsimp only
  repeat' (first | with_reducible assumption | with_reducible apply State.creditCmd_wf | with_reducible apply State.lastSteps_wf | with_reducible apply State.modCore_wf | with_reducible apply State.setHead_wf | split)
theorem State.setBudLevel_wf (s : State) (p : Nat) (u : Nat) (v : Int) (hs : State.memWf s) : State.memWf (State.setBudLevel s p u v) := by
  unfold State.setBudLevel
  repeat' (first | with_reducible assumption | with_reducible apply State.ww_wf)
theorem execCopyCommandStart_wf (s : State) (hs : State.memWf s) : ∀ z, execCopyCommandStart s = .next z → State.memWf z := by
  unfold execCopyCommandStart
  refine onCore_wf _ _ hs fun _ _ => ?_
  dsimp only
  repeat' (first | with_reducible assumption | with_reducible apply State.complete_wf | with_reducible apply State.freeTime_wf | with_reducible apply State.setHead_wf | split)
theorem State.progressCmd_wf (s : State) (c : Nat) (ch : Nat) (n : Nat) (u : Upset) (hs : State.memWf s) : State.memWf (State.progressCmd s c ch n u) := by
  unfold State.progressCmd
  repeat' (first | with_reducible assumption | with_reducible apply State.complete_wf | with_reducible apply State.creditCmd_wf | with_reducible apply State.deliver_wf | with_reducible apply State.freeTime_wf | split)
theorem execCopyCommandComplete_wf (n : Nat) (u : Upset) (s : State) (hs : State.memWf s) : ∀ z, execCopyCommandComplete n u s = .next z → State.memWf z := by
  unfold execCopyCommandComplete
  refine onCore_wf _ _ hs fun _ _ => ?_
  repeat' (first | with_reducible assumption | with_reducible apply State.progressCmd_wf)
theorem execCopyFaultPause_wf (s : State) (hs : State.memWf s) : ∀ z, execCopyFaultPause s = .next z → State.memWf z := by
  unfold execCopyFaultPause
  refine onCore_wf _ _ hs fun _ _ => ?_
  dsimp only
  repeat' (first | with_reducible assumption | with_reducible apply State.log_wf | with_reducible apply State.setHead_wf | split)
theorem State.resumeCmd_wf (s : State) (c : Nat) (q : Cmd) (hs : State.memWf s) : State.memWf (State.resumeCmd s c q) := by
  unfold State.resumeCmd; dsimp only
  repeat' (first | with_reducible assumption | with_reducible apply State.complete_wf | with_reducible apply State.freeTime_wf | with_reducible apply State.setHead_wf | split)
theorem State.abandonCmd_wf (s : State) (c : Nat) (q : Cmd) (hs : State.memWf s) : State.memWf (State.abandonCmd s c q) := by
  unfold State.abandonCmd; dsimp only
  repeat' (first | with_reducible assumption | with_reducible apply State.complete_wf | split)
theorem execCwait_wf (land : BitVec 12) (tk : BitVec 8) (s : State) (hs : State.memWf s) : ∀ z, execCwait land tk s = .next z → State.memWf z := by
  unfold execCwait
  refine onCore_wf _ _ hs fun _ _ => ?_
  repeat' (first | with_reducible assumption | with_reducible apply State.issue_wf | split)
theorem execWpwait_wf (land : BitVec 12) (a : BitVec 6) (ch : BitVec 8) (s : State) (hs : State.memWf s) : ∀ z, execWpwait land a ch s = .next z → State.memWf z := by
  unfold execWpwait
  refine onCore_wf _ _ hs fun _ _ => ?_
  repeat' (first | with_reducible assumption | with_reducible apply State.issue_wf)
theorem execCopyWaitSatisfied_wf (s : State) (hs : State.memWf s) : ∀ z, execCopyWaitSatisfied s = .next z → State.memWf z := by
  unfold execCopyWaitSatisfied
  refine onCore_wf _ _ hs fun _ _ => ?_
  dsimp only
  repeat' (first | with_reducible assumption | with_reducible apply State.setOp_wf | split)
theorem State.killCore_wf (s : State) (c : Nat) (hs : State.memWf s) : State.memWf (State.killCore s c) := by
  unfold State.killCore
  repeat' (first | with_reducible assumption | with_reducible apply State.complete_wf | with_reducible apply State.modCore_wf | with_reducible apply foldl_wf | with_reducible apply foldl_wf2 | with_reducible apply foldl_wf1 | split | intro _)
theorem execBulkChunkStart_wf (s : State) (hs : State.memWf s) : ∀ z, execBulkChunkStart s = .next z → State.memWf z := by
  unfold execBulkChunkStart
  refine onItem_wf _ _ _ _ hs fun _ _ => ?_
  dsimp only
  repeat' (first | with_reducible assumption | with_reducible apply State.freeTime_wf | with_reducible apply State.setBudLevel_wf | with_reducible apply State.setHead_wf | with_reducible apply foldl_wf | with_reducible apply foldl_wf2 | with_reducible apply foldl_wf1 | split | intro _)
theorem execBulkChunkDone_wf (u : Upset) (s : State) (hs : State.memWf s) : ∀ z, execBulkChunkDone u s = .next z → State.memWf z := by
  unfold execBulkChunkDone
  refine onItem_wf _ _ _ _ hs fun _ _ => ?_
  dsimp only
  repeat' (first | with_reducible assumption | with_reducible apply State.progressCmd_wf | with_reducible apply State.setHead_wf | split)
theorem State.markEligible_wf (s : State) (p : Nat) (u : Nat) (hs : State.memWf s) : State.memWf (State.markEligible s p u) := by
  unfold State.markEligible
  repeat' (first | with_reducible assumption | split)
theorem execBudgetRefill_wf (s : State) (hs : State.memWf s) : ∀ z, execBudgetRefill s = .next z → State.memWf z := by
  intro z h; cases h
  dsimp only
  repeat' (first | with_reducible assumption | with_reducible apply State.markEligible_wf | with_reducible apply State.setBudLevel_wf | with_reducible apply foldl_wf | with_reducible apply foldl_wf2 | with_reducible apply foldl_wf1 | split | intro _)
theorem commandM_wf (i : Instr) (m : MArgs) (s : State) (hs : State.memWf s) : State.memWf (commandM i m s) := by
  unfold commandM
  repeat' (first | with_reducible assumption | with_reducible apply State.issueAccess_wf | split)
theorem execRed_wf (m : MArgs) (s : State) (hs : State.memWf s) : ∀ z, execRed m s = .next z → State.memWf z := by
  unfold execRed
  refine onCore_wf _ _ hs fun _ _ => ?_
  repeat' (first | with_reducible assumption | with_reducible apply commandM_wf)
theorem execColl_wf (m : MArgs) (s : State) (hs : State.memWf s) : ∀ z, execColl m s = .next z → State.memWf z := by
  unfold execColl
  refine onCore_wf _ _ hs fun _ _ => ?_
  repeat' (first | with_reducible assumption | with_reducible apply commandM_wf)
theorem execLqput_wf (m : MArgs) (s : State) (hs : State.memWf s) : ∀ z, execLqput m s = .next z → State.memWf z := by
  unfold execLqput
  refine onCore_wf _ _ hs fun _ _ => ?_
  repeat' (first | with_reducible assumption | with_reducible apply commandM_wf)
theorem State.rangeMap_wf (s : State) (cx : Ctx) (need : Need) (va : Nat) (n : Nat) (hs : State.memWf s) : State.memWf (State.rangeMap s cx need va n).2 := by
  unfold State.rangeMap; try dsimp only
  repeat' (first | with_reducible assumption | with_reducible apply State.route_wf | with_reducible apply foldl_wf | with_reducible apply foldl_wf2 | with_reducible apply foldl_wf1 | split | intro _)
  all_goals grind [State.route_wf, foldl_wf, foldl_wf2, foldl_wf1, Sparse.wf_setBytes]
theorem State.rangesMap_wf (s : State) (cx : Ctx) (rs : List (Need × Nat × Nat × Nat)) (hs : State.memWf s) : State.memWf (State.rangesMap s cx rs).2 := by
  unfold State.rangesMap; try dsimp only
  repeat' (first | with_reducible assumption | with_reducible apply State.rangeMap_wf | with_reducible apply foldl_wf | with_reducible apply foldl_wf2 | with_reducible apply foldl_wf1 | split | intro _)
  all_goals grind [State.rangeMap_wf, foldl_wf, foldl_wf2, foldl_wf1, Sparse.wf_setBytes]
theorem State.readSector_wf (s : State) (cx : Ctx) (va : Nat) (last : Option Nat) (u : Upset) (hs : State.memWf s) : State.memWf (State.readSector s cx va last u).2.2 := by
  unfold State.readSector; try dsimp only
  repeat' (first | with_reducible assumption | with_reducible apply State.readMain_wf | with_reducible apply State.route_wf | with_reducible apply foldl_wf | with_reducible apply foldl_wf2 | with_reducible apply foldl_wf1 | split | intro _)
  all_goals grind [State.readMain_wf, State.route_wf, foldl_wf, foldl_wf2, foldl_wf1, Sparse.wf_setBytes]
theorem State.writeAtHome_wf (s : State) (cx : Ctx) (va : Nat) (bs : List Byte) (last : Option Nat) (hs : State.memWf s) : State.memWf (State.writeAtHome s cx va bs last).2.2 := by
  unfold State.writeAtHome; try dsimp only
  repeat' (first | with_reducible assumption | with_reducible apply State.dirtyCx_wf | with_reducible apply State.route_wf | with_reducible apply State.writeMain_wf | with_reducible apply foldl_wf | with_reducible apply foldl_wf2 | with_reducible apply foldl_wf1 | split | intro _)
  all_goals grind [State.dirtyCx_wf, State.route_wf, State.writeMain_wf, foldl_wf, foldl_wf2, foldl_wf1, Sparse.wf_setBytes]
theorem State.flagSteps_wf (s : State) (cx : Ctx) (known : Nat → Option (Home × Nat × Nat)) (stat : Word) (flag : Word) (fval : Word) (add : Bool) (done : Nat) (code : Nat) (src : Nat) (hs : State.memWf s) : State.memWf (State.flagSteps s cx known stat flag fval add done code src) := by
  unfold State.flagSteps; try dsimp only
  repeat' (first | with_reducible assumption | with_reducible apply State.addHome_wf | with_reducible apply State.engineAdd_wf | with_reducible apply State.engineStore_wf | with_reducible apply State.route_wf | with_reducible apply State.storeHome_wf | with_reducible apply foldl_wf | with_reducible apply foldl_wf2 | with_reducible apply foldl_wf1 | split | intro _)
  all_goals grind [State.addHome_wf, State.engineAdd_wf, State.engineStore_wf, State.route_wf, State.storeHome_wf, foldl_wf, foldl_wf2, foldl_wf1, Sparse.wf_setBytes]
theorem State.redStack_wf (s : State) (cx : Ctx) (dst : Nat) (hs : State.memWf s) : State.memWf (State.redStack s cx dst).2 := by
  unfold State.redStack; try dsimp only
  repeat' (first | with_reducible assumption | with_reducible apply State.route_wf | with_reducible apply foldl_wf | with_reducible apply foldl_wf2 | with_reducible apply foldl_wf1 | split | intro _)
  all_goals grind [State.route_wf, foldl_wf, foldl_wf2, foldl_wf1, Sparse.wf_setBytes]
theorem State.setRed_wf (s : State) (r : Red) (hs : State.memWf s) : State.memWf (State.setRed s r) := by
  unfold State.setRed
  repeat' (first | with_reducible assumption | split)
theorem State.dropRed_wf (s : State) (k : Nat) (hs : State.memWf s) : State.memWf (State.dropRed s k) := by
  unfold State.dropRed
  assumption
theorem execReductionAccept_wf (s : State) (hs : State.memWf s) : ∀ z, execReductionAccept s = .next z → State.memWf z := by
  unfold execReductionAccept
  refine onCore_wf _ _ hs fun _ _ => ?_
  dsimp only
  repeat' (first | with_reducible assumption | with_reducible apply State.freeTime_wf | with_reducible apply State.redStack_wf | with_reducible apply State.setOp_wf | split)
theorem State.redEnd_wf (s : State) (r : Red) (code : Nat) (done : Nat) (hs : State.memWf s) : State.memWf (State.redEnd s r code done) := by
  unfold State.redEnd
  repeat' (first | with_reducible assumption | with_reducible apply State.dropRed_wf | with_reducible apply State.flagSteps_wf)
theorem State.redRead_wf (s : State) (r : Red) (b : Nat) (va : Nat) (u : Upset) (hs : State.memWf s) : State.memWf (State.redRead s r b va u).2.2 := by
  unfold State.redRead
  repeat' (first | with_reducible assumption | with_reducible apply State.readMain_wf | split)
theorem State.redWrite_wf (s : State) (r : Red) (va : Nat) (bs : List Byte) (hs : State.memWf s) : State.memWf (State.redWrite s r va bs).2.2 := by
  unfold State.redWrite; dsimp only
  repeat' (first | with_reducible assumption | with_reducible apply State.dirtyCx_wf | with_reducible apply State.writeMain_wf | split)
theorem State.redGather_wf (s : State) (r : Red) (hit : Nat) (u : Upset) (hs : State.memWf s) : State.memWf (State.redGather s r hit u).2.2 :=
  foldl_keeps (fun p : List (Nat × Option (List Byte)) × Red × State => State.memWf p.2.2) _ (fun _ _ hb => State.redRead_wf _ _ _ _ _ hb) _ _ hs
theorem State.redSector_wf (s : State) (r : Red) (u : Upset) (hs : State.memWf s) : State.memWf (State.redSector s r u).2 := by
  have hg : ∀ (p : Nat × State), State.memWf p.2 → State.memWf (State.redGather p.2 r p.1 u).2.2 := fun p h => State.redGather_wf _ _ _ _ h
  have hp : State.memWf (if u = .none then ((0, s) : Nat × State) else s.pick r.srcs.length).2 := by
    split
    · exact hs
    · exact State.pick_wf _ _ hs
  have hg := hg _ hp
  unfold State.redSector; dsimp only
  generalize (if u = .none then ((0, s) : Nat × State) else s.pick r.srcs.length) = w at hg ⊢
  generalize State.redGather w.2 r w.1 u = g at hg ⊢
  split
  · exact hg
  · have hw := fun b => State.redWrite_wf g.2.2 g.2.1 (g.2.1.dst + 32 * g.2.1.next) b hg
    split <;> rename_i e <;> exact (congrArg (fun z => State.memWf z.2.2) e).mp (hw _)
theorem State.redStep_wf (s : State) (r : Red) (u : Upset) (hs : State.memWf s) : State.memWf (State.redStep s r u) := by
  unfold State.redStep; try dsimp only
  repeat' (first | with_reducible assumption | with_reducible apply State.freeTime_wf | with_reducible apply State.redEnd_wf | with_reducible apply State.redSector_wf | with_reducible apply State.setRed_wf | with_reducible apply foldl_wf | with_reducible apply foldl_wf2 | with_reducible apply foldl_wf1 | split | intro _)
  all_goals grind [State.freeTime_wf, State.redEnd_wf, State.redSector_wf, State.setRed_wf, foldl_wf, foldl_wf2, foldl_wf1, Sparse.wf_setBytes]
theorem State.redBegin_wf (s : State) (r : Red) (hs : State.memWf s) : State.memWf (State.redBegin s r) := by
  unfold State.redBegin; try dsimp only
  repeat' (first | with_reducible assumption | with_reducible apply State.freeTime_wf | with_reducible apply State.rangesMap_wf | with_reducible apply State.redEnd_wf | with_reducible apply State.setRed_wf | with_reducible apply foldl_wf | with_reducible apply foldl_wf2 | with_reducible apply foldl_wf1 | split | intro _)
  all_goals grind [State.freeTime_wf, State.rangesMap_wf, State.redEnd_wf, State.setRed_wf, foldl_wf, foldl_wf2, foldl_wf1, Sparse.wf_setBytes]
theorem execReductionComplete_wf (u : Upset) (s : State) (hs : State.memWf s) : ∀ z, execReductionComplete u s = .next z → State.memWf z := by
  unfold execReductionComplete
  intro z h; rw [next_eq _ _ h]
  try dsimp only
  repeat' (first | with_reducible assumption | with_reducible apply State.redBegin_wf | with_reducible apply State.redStep_wf | with_reducible apply foldl_wf | with_reducible apply foldl_wf2 | with_reducible apply foldl_wf1 | split | intro _)
  all_goals grind [State.redBegin_wf, State.redStep_wf, foldl_wf, foldl_wf2, foldl_wf1, Sparse.wf_setBytes]
theorem execReductionPause_wf (s : State) (hs : State.memWf s) : ∀ z, execReductionPause s = .next z → State.memWf z := by
  intro z h; cases h
  repeat' (first | with_reducible assumption | with_reducible apply State.log_wf | with_reducible apply State.setRed_wf | split)
theorem State.setColl_wf (s : State) (r : Coll) (hs : State.memWf s) : State.memWf (State.setColl s r) := by
  unfold State.setColl
  repeat' (first | with_reducible assumption | split)
theorem State.dropColl_wf (s : State) (k : Nat) (hs : State.memWf s) : State.memWf (State.dropColl s k) := by
  unfold State.dropColl
  assumption
theorem State.collEnd_wf (s : State) (r : Coll) (code : Nat) (done : Nat) (hs : State.memWf s) : State.memWf (State.collEnd s r code done) := by
  unfold State.collEnd
  repeat' (first | with_reducible assumption | with_reducible apply State.dropColl_wf | with_reducible apply State.flagSteps_wf | with_reducible apply State.send_wf | split)
theorem State.collAccept_wf (s : State) (c : Nat) (o : Op) (hs : State.memWf s) : State.memWf (State.collAccept s c o) := by
  unfold State.collAccept
  repeat' (first | with_reducible assumption | with_reducible apply State.setOp_wf | split)
theorem State.collsLost_wf (s : State) (hs : State.memWf s) : State.memWf (State.collsLost s) := by
  unfold State.collsLost
  repeat' (first | with_reducible assumption | with_reducible apply State.collEnd_wf | with_reducible apply foldl_wf | with_reducible apply foldl_wf2 | with_reducible apply foldl_wf1 | split | intro _)
theorem execCollectiveMatch_wf (nb : Neighbours) (s : State) (hs : State.memWf s) : ∀ z, execCollectiveMatch nb s = .next z → State.memWf z := by
  unfold execCollectiveMatch
  intro z h; rw [next_eq _ _ h]
  repeat' (first | with_reducible assumption | with_reducible apply State.collEnd_wf | with_reducible apply State.setColl_wf | split)
theorem collRead_wf (st : CollRun × State) (k : Nat) (hst : State.memWf st.2) : State.memWf (collRead st k).2 := by
  unfold collRead; try dsimp only
  repeat' (first | with_reducible assumption | with_reducible apply State.readSector_wf | with_reducible apply foldl_wf | with_reducible apply foldl_wf2 | with_reducible apply foldl_wf1 | split | intro _)
  all_goals grind [State.readSector_wf, foldl_wf, foldl_wf2, foldl_wf1, Sparse.wf_setBytes]
theorem State.collSource_wf (s : State) (r : Coll) (hs : State.memWf s) : State.memWf (State.collSource s r).2 := by
  unfold State.collSource
  repeat' (first | with_reducible assumption | with_reducible apply collRead_wf | with_reducible apply foldl_wf | with_reducible apply foldl_wf2 | with_reducible apply foldl_wf1 | split | intro _)
theorem collWrite_wf (out : List Elem) (st : CollRun × State) (k : Nat) (hst : State.memWf st.2) : State.memWf (collWrite out st k).2 := by
  unfold collWrite; try dsimp only
  repeat' (first | with_reducible assumption | with_reducible apply State.writeAtHome_wf | with_reducible apply foldl_wf | with_reducible apply foldl_wf2 | with_reducible apply foldl_wf1 | split | intro _)
  all_goals grind [State.writeAtHome_wf, foldl_wf, foldl_wf2, foldl_wf1, Sparse.wf_setBytes]
theorem State.collDest_wf (s : State) (r : Coll) (out : List Elem) (hs : State.memWf s) : State.memWf (State.collDest s r out).2 := by
  unfold State.collDest
  repeat' (first | with_reducible assumption | with_reducible apply collWrite_wf | with_reducible apply foldl_wf | with_reducible apply foldl_wf2 | with_reducible apply foldl_wf1 | split | intro _)
theorem State.collStop_wf (s : State) (r : Coll) (x : CollStop) (hs : State.memWf s) : State.memWf (State.collStop s r x) := by
  unfold State.collStop
  repeat' (first | with_reducible assumption | with_reducible apply State.collEnd_wf | with_reducible apply State.setColl_wf | split)
theorem State.collFinish_wf (s : State) (r : Coll) (xs : List (List Elem)) (hs : State.memWf s) : State.memWf (State.collFinish s r xs) := by
  unfold State.collFinish; try dsimp only
  repeat' (first | with_reducible assumption | with_reducible apply State.collDest_wf | with_reducible apply State.collEnd_wf | with_reducible apply State.collStop_wf | with_reducible apply State.rangesMap_wf | with_reducible apply foldl_wf | with_reducible apply foldl_wf2 | with_reducible apply foldl_wf1 | split | intro _)
  all_goals grind [State.collDest_wf, State.collEnd_wf, State.collStop_wf, State.rangesMap_wf, foldl_wf, foldl_wf2, foldl_wf1, Sparse.wf_setBytes]
theorem execCollectiveComplete_wf (xs : List (List Elem)) (s : State) (hs : State.memWf s) : ∀ z, execCollectiveComplete xs s = .next z → State.memWf z := by
  unfold execCollectiveComplete
  intro z h; rw [next_eq _ _ h]
  try dsimp only
  repeat' (first | with_reducible assumption | with_reducible apply State.collEnd_wf | with_reducible apply State.collFinish_wf | with_reducible apply State.collSource_wf | with_reducible apply State.collStop_wf | with_reducible apply State.send_wf | with_reducible apply foldl_wf | with_reducible apply foldl_wf2 | with_reducible apply foldl_wf1 | split | intro _)
  all_goals grind [State.collEnd_wf, State.collFinish_wf, State.collSource_wf, State.collStop_wf, State.send_wf, foldl_wf, foldl_wf2, foldl_wf1, Sparse.wf_setBytes]
theorem execCollectivePause_wf (s : State) (hs : State.memWf s) : ∀ z, execCollectivePause s = .next z → State.memWf z := by
  intro z h; cases h
  repeat' (first | with_reducible assumption | with_reducible apply State.log_wf | with_reducible apply State.setColl_wf | split)
theorem execCollectiveAbandon_wf (s : State) (hs : State.memWf s) : ∀ z, execCollectiveAbandon s = .next z → State.memWf z := by
  intro z h; cases h
  repeat' (first | with_reducible assumption | with_reducible apply State.collEnd_wf | split)
theorem State.lqRetry_wf (s : State) (p : Nat) (q : Nat) (hs : State.memWf s) : State.memWf (State.lqRetry s p q) := by
  unfold State.lqRetry
  assumption
theorem State.storeSlot_wf (s : State) (r : Req) (pa : Nat) (d : Sparse Byte) (hs : State.memWf s) : State.memWf (State.storeSlot s r pa d).2 := by
  unfold State.storeSlot
  repeat' (first | with_reducible assumption | with_reducible apply State.writeMain_wf | with_reducible apply foldl_wf | with_reducible apply foldl_wf2 | with_reducible apply foldl_wf1 | split | intro _)
theorem State.advanceTail_wf (s : State) (c : Nat) (p : Nat) (q : Nat) (tail : Nat) (hs : State.memWf s) : State.memWf (State.advanceTail s c p q tail) := by
  unfold State.advanceTail; dsimp only
  repeat' (first | with_reducible assumption | with_reducible apply State.lqRetry_wf | with_reducible apply State.ww_wf | split)
theorem State.publish_wf (s : State) (c : Nat) (q : Nat) (d : Sparse Byte) (hs : State.memWf s) : State.memWf (State.publish s c q d).2 := by
  unfold State.publish; try dsimp only
  repeat' (first | with_reducible assumption | with_reducible apply State.advanceTail_wf | with_reducible apply State.agentMet_wf | with_reducible apply State.agentTouch_wf | with_reducible apply State.dirty_wf | with_reducible apply State.storeSlot_wf | with_reducible apply foldl_wf | with_reducible apply foldl_wf2 | with_reducible apply foldl_wf1 | split | intro _)
  all_goals grind [State.advanceTail_wf, State.agentMet_wf, State.agentTouch_wf, State.dirty_wf, State.storeSlot_wf, foldl_wf, foldl_wf2, foldl_wf1, Sparse.wf_setBytes]
theorem State.handOver_wf (s : State) (c : Nat) (id : Nat) (hs : State.memWf s) : State.memWf (State.handOver s c id) := by
  unfold State.handOver; try dsimp only
  repeat' (first | with_reducible assumption | with_reducible apply State.collAccept_wf | with_reducible apply State.failOp_wf | with_reducible apply State.setOp_wf | with_reducible apply foldl_wf | with_reducible apply foldl_wf2 | with_reducible apply foldl_wf1 | split | intro _)
  all_goals grind [State.collAccept_wf, State.failOp_wf, State.publish_wf, State.setOp_wf, foldl_wf, foldl_wf2, foldl_wf1, Sparse.wf_setBytes]
theorem execElasticDataArrives_wf (g : Option Nat) (u : Upset) (s : State) (hs : State.memWf s) : ∀ z, execElasticDataArrives g u s = .next z → State.memWf z := by
  unfold execElasticDataArrives
  refine onCore_wf _ _ hs fun _ _ => ?_
  dsimp only
  repeat' (first | with_reducible assumption | with_reducible apply State.handOver_wf | with_reducible apply State.loadParts_wf | split)
theorem State.fres_wf (s : State) (p : Nat) (v : Word) (abandon : Bool) (hs : State.memWf s) : State.memWf (State.fres s p v abandon) := by
  unfold State.fres
  repeat' (first | with_reducible assumption | with_reducible apply State.abandonCmd_wf | with_reducible apply State.collEnd_wf | with_reducible apply State.freeTime_wf | with_reducible apply State.redEnd_wf | with_reducible apply State.resumeCmd_wf | with_reducible apply State.setColl_wf | with_reducible apply State.setRed_wf | with_reducible apply State.ww_wf | split)
theorem execCpyFresResume_wf (p : Nat) (v : Word) (s : State) (hs : State.memWf s) : ∀ z, execCpyFresResume p v s = .next z → State.memWf z := by
  unfold execCpyFresResume
  refine onItem_wf _ _ _ _ hs fun _ _ => ?_
  repeat' (first | with_reducible assumption | with_reducible apply State.fres_wf)
theorem execCpyFresAbandon_wf (p : Nat) (v : Word) (s : State) (hs : State.memWf s) : ∀ z, execCpyFresAbandon p v s = .next z → State.memWf z := by
  unfold execCpyFresAbandon
  refine onItem_wf _ _ _ _ hs fun _ _ => ?_
  repeat' (first | with_reducible assumption | with_reducible apply State.fres_wf)
theorem State.killEngines_wf (s : State) (reds : List Red) (colls : List Coll) (hs : State.memWf s) : State.memWf (State.killEngines s reds colls) := by
  unfold State.killEngines
  repeat' (first | with_reducible assumption | with_reducible apply State.collEnd_wf | with_reducible apply State.redEnd_wf | with_reducible apply State.setRed_wf | with_reducible apply foldl_wf | with_reducible apply foldl_wf2 | with_reducible apply foldl_wf1 | split | intro _)
theorem State.traceStores_wf (s : State) (cx : Ctx) (base : Nat) (a : List (Nat × Word)) (hs : State.memWf s) : State.memWf (State.traceStores s cx base a).2 := by
  induction a generalizing s with
  | nil => unfold State.traceStores; grind [State.engineAdd_wf]
  | cons e r ih => unfold State.traceStores; grind [State.engineStore_wf]
theorem State.traceOpen_wf (s : State) (cx : Ctx) (base : Nat) (as : List Nat) (hs : State.memWf s) : State.memWf (State.traceOpen s cx base as).2 := by
  unfold State.traceOpen
  repeat' (first | with_reducible assumption | with_reducible apply State.route_wf | with_reducible apply foldl_wf | with_reducible apply foldl_wf2 | with_reducible apply foldl_wf1 | split | intro _)
theorem State.performTrace_wf (s : State) (c : Nat) (t : TraceRec) (hs : State.memWf s) : State.memWf (State.performTrace s c t) := by
  unfold State.performTrace; try dsimp only
  repeat' (first | with_reducible assumption | with_reducible apply State.modCore_wf | with_reducible apply State.traceOpen_wf | with_reducible apply State.traceStores_wf | with_reducible apply foldl_wf | with_reducible apply foldl_wf2 | with_reducible apply foldl_wf1 | split | intro _)
  all_goals grind [State.modCore_wf, State.traceOpen_wf, State.traceStores_wf, foldl_wf, foldl_wf2, foldl_wf1, Sparse.wf_setBytes]
theorem State.traceStep_wf (s : State) (c : Nat) (hs : State.memWf s) : State.memWf (State.traceStep s c) := by
  unfold State.traceStep; dsimp only
  repeat' (first | with_reducible assumption | with_reducible apply State.coin_wf | with_reducible apply State.modCore_wf | with_reducible apply State.performTrace_wf | split)
theorem State.traceSteps_wf (s : State) (hs : State.memWf s) : State.memWf (State.traceSteps s) := by
  unfold State.traceSteps
  repeat' (first | with_reducible assumption | with_reducible apply State.traceStep_wf | with_reducible apply foldl_wf | with_reducible apply foldl_wf2 | with_reducible apply foldl_wf1 | split | intro _)
theorem State.trace_wf (s : State) (c : Nat) (kind : Nat) (cause : Nat) (addr : Nat) (hs : State.memWf s) : State.memWf (State.trace s c kind cause addr) := by
  unfold State.trace; try dsimp only
  repeat' (first | with_reducible assumption | with_reducible apply State.modCore_wf | with_reducible apply State.traceStores_wf | with_reducible apply foldl_wf | with_reducible apply foldl_wf2 | with_reducible apply foldl_wf1 | split | intro _)
  all_goals grind [State.modCore_wf, State.traceStores_wf, foldl_wf, foldl_wf2, foldl_wf1, Sparse.wf_setBytes]
theorem State.areaAddr_wf (s : State) (w : Area) (write : Bool) (a : Nat) (hs : State.memWf s) : State.memWf (State.areaAddr s w write a).2 := by
  unfold State.areaAddr; try dsimp only
  repeat' (first | with_reducible assumption | with_reducible apply State.admits_wf | with_reducible apply State.route_wf | with_reducible apply foldl_wf | with_reducible apply foldl_wf2 | with_reducible apply foldl_wf1 | split | intro _)
  all_goals grind [State.admits_wf, State.route_wf, foldl_wf, foldl_wf2, foldl_wf1, Sparse.wf_setBytes]
theorem State.evictRange_wf (s : State) (a : Nat) (n : Nat) (hs : State.memWf s) : State.memWf (State.evictRange s a n) := by
  unfold State.evictRange
  repeat' (first | with_reducible assumption | with_reducible apply State.evict_wf | with_reducible apply foldl_wf | with_reducible apply foldl_wf2 | with_reducible apply foldl_wf1 | split | intro _)
theorem State.countRange_wf (s : State) (pa : Nat) (n : Nat) (hs : State.memWf s) : State.memWf (State.countRange s pa n) := by
  unfold State.countRange
  assumption
theorem State.putRange_wf (s : State) (r : Req) (pa : Nat) (n : Nat) (m : Sparse Byte) (hs : State.memWf s) : State.memWf (State.putRange s r pa n m).2 := by
  have h0 := State.correct_wf _ r false pa n (State.countRange_wf _ pa n (State.evictRange_wf s pa n hs))
  have h1 : ∀ (t : State) (l : List (Nat × List Byte)), State.memWf t → State.memWf (l.foldl (fun s e => { s with mem := Sparse.setBytes s.mem (e.1 * 32) e.2 }) t) :=
    fun t l h => foldl_wf _ _ _ h fun _ _ h => ⟨Sparse.wf_setBytes _ _ _ h.1, h.2⟩
  exact foldl_wf _ _ _ (State.wake_wf _ _ _ _ _ (h1 _ _ ⟨Sparse.wf_splice 0 _ _ _ _ (Nat.le_add_right _ _) h0.1, h0.2⟩)) fun _ _ h => State.failRecord_wf _ _ _ _ h
theorem State.takeRange_wf (s : State) (r : Req) (pa : Nat) (n : Nat) (hs : State.memWf s) : State.memWf (State.takeRange s r pa n).2 := by
  unfold State.takeRange; dsimp only
  repeat' (first | with_reducible assumption | with_reducible apply State.correct_wf | with_reducible apply State.countRange_wf | with_reducible apply State.evictRange_wf | with_reducible apply State.failRecord_wf | split)
theorem State.storeArea_wf (s : State) (w : Area) (a : Nat) (b : Blob) (hs : State.memWf s) : State.memWf (State.storeArea s w a b).2 := by
  unfold State.storeArea; try dsimp only
  repeat' (first | with_reducible assumption | with_reducible apply State.areaAddr_wf | with_reducible apply foldl_wf | with_reducible apply foldl_wf2 | with_reducible apply foldl_wf1 | split | intro _)
  all_goals grind [State.areaAddr_wf, State.putRange_wf, foldl_wf, foldl_wf2, foldl_wf1, Sparse.wf_setBytes]
theorem State.loadArea_wf (s : State) (w : Area) (a : Nat) (n : Nat) (hs : State.memWf s) : State.memWf (State.loadArea s w a n).2 := by
  unfold State.loadArea; try dsimp only
  repeat' (first | with_reducible assumption | with_reducible apply State.areaAddr_wf | with_reducible apply State.takeRange_wf | with_reducible apply foldl_wf | with_reducible apply foldl_wf2 | with_reducible apply foldl_wf1 | split | intro _)
  all_goals grind [State.areaAddr_wf, State.takeRange_wf, foldl_wf, foldl_wf2, foldl_wf1, Sparse.wf_setBytes]
theorem State.readSaved_wf (s : State) (c : Nat) (rs : List (Nat × Nat × Nat)) (hs : State.memWf s) : State.memWf (State.readSaved s c rs).2 := by
  unfold State.readSaved
  repeat' (first | with_reducible assumption | with_reducible apply State.arrayRead_wf | with_reducible apply foldl_wf | with_reducible apply foldl_wf2 | with_reducible apply foldl_wf1 | split | intro _)
theorem State.storeParts_wf (s : State) (w : Area) (a : Nat) (ps : List (Nat × Blob)) (hs : State.memWf s) : State.memWf (State.storeParts s w a ps).2 := by
  unfold State.storeParts
  repeat' (first | with_reducible assumption | with_reducible apply State.storeArea_wf | with_reducible apply foldl_wf | with_reducible apply foldl_wf2 | with_reducible apply foldl_wf1 | split | intro _)

end Sys2Proof.Machine
end

