-- ==== Sys2Proof/Laws/MemRun.lean ====
section
/-! SUPPORT. Memory stays in its canonical form (State.memWf): one lemma for each of
every operation of the stops, the landings, the issue and the scheduler. -/
namespace Sys2Proof.Machine

open Sys2Proof

theorem State.modLaunch_wf (s : State) (k : Nat) (f : Launch → Launch) (hs : State.memWf s) : State.memWf (State.modLaunch s k f) := by
  unfold State.modLaunch
  repeat' (first | with_reducible assumption | split)
theorem State.stopEntry_wf (s : State) (c : Nat) (event : Nat) (area : Nat) (need : Nat) (root : Bool) (hs : State.memWf s) : State.memWf (State.stopEntry s c event area need root) := by
  unfold State.stopEntry
  repeat' (first | with_reducible assumption | with_reducible apply State.log_wf | split)
theorem State.saveTo_wf (s : State) (c : Nat) (form : Nat) (w : Area) (a : Nat) (arrays : List (Nat × Nat × Nat)) (parts : List (Nat × Blob)) (hs : State.memWf s) : State.memWf (State.saveTo s c form w a arrays parts).2 := by
  unfold State.saveTo; try dsimp only
  repeat' (first | with_reducible assumption | with_reducible apply State.readSaved_wf | with_reducible apply State.storeArea_wf | with_reducible apply State.storeParts_wf | with_reducible apply foldl_wf | with_reducible apply foldl_wf2 | with_reducible apply foldl_wf1 | split | intro _)
  all_goals grind [State.readSaved_wf, State.storeArea_wf, State.storeParts_wf, foldl_wf, foldl_wf2, foldl_wf1, Sparse.wf_setBytes]
theorem State.inPlaceDone_wf (s : State) (c : Nat) (area : Nat) (bad : Option Nat) (hs : State.memWf s) : State.memWf (State.inPlaceDone s c area bad) := by
  unfold State.inPlaceDone
  repeat' (first | with_reducible assumption | with_reducible apply State.modCore_wf | with_reducible apply State.stopEntry_wf | split)
theorem State.stopInPlace_wf (s : State) (c : Nat) (hs : State.memWf s) : State.memWf (State.stopInPlace s c) := by
  unfold State.stopInPlace
  repeat' (first | with_reducible assumption | with_reducible apply State.inPlaceDone_wf | with_reducible apply State.saveTo_wf)
theorem State.stopFull_wf (s : State) (c : Nat) (hs : State.memWf s) : State.memWf (State.stopFull s c) := by
  unfold State.stopFull
  repeat' (first | with_reducible assumption | with_reducible apply State.modCore_wf)
theorem State.takeStop_wf (s : State) (c : Nat) (st : Stop) (hs : State.memWf s) : State.memWf (State.takeStop s c st) := by
  unfold State.takeStop; dsimp only
  repeat' (first | with_reducible assumption | with_reducible apply State.modCore_wf | with_reducible apply State.stopFull_wf | with_reducible apply State.stopInPlace_wf | with_reducible apply State.trace_wf | split)
theorem State.saveArea_wf (s : State) (c : Nat) (hs : State.memWf s) : State.memWf (State.saveArea s c).2 := by
  unfold State.saveArea; try dsimp only
  repeat' (first | with_reducible assumption | with_reducible apply State.loadArea_wf | with_reducible apply foldl_wf | with_reducible apply foldl_wf2 | with_reducible apply foldl_wf1 | split | intro _)
  all_goals grind [State.loadArea_wf, foldl_wf, foldl_wf2, foldl_wf1, Sparse.wf_setBytes]
theorem State.saveCore_wf (s : State) (c : Nat) (form : Nat) (arrays : List (Nat × Nat × Nat)) (parts : List (Nat × Blob)) (done : State → State) (hs : State.memWf s) (hdone : ∀ (x0 : State), State.memWf x0 → State.memWf (done x0)) : State.memWf (State.saveCore s c form arrays parts done) := by
  unfold State.saveCore; try dsimp only
  repeat' (first | with_reducible assumption | with_reducible apply State.hold_wf | with_reducible apply State.loadArea_wf | with_reducible apply State.modCore_wf | with_reducible apply State.saveArea_wf | with_reducible apply State.saveTo_wf | with_reducible apply State.stopEntry_wf | with_reducible apply foldl_wf | with_reducible apply foldl_wf2 | with_reducible apply foldl_wf1 | split | intro _)
  all_goals grind [State.hold_wf, State.loadArea_wf, State.modCore_wf, State.saveArea_wf, State.saveTo_wf, State.stopEntry_wf, foldl_wf, foldl_wf2, foldl_wf1, Sparse.wf_setBytes]
theorem State.savedFull_wf (s : State) (c : Nat) (hs : State.memWf s) : State.memWf (State.savedFull s c) := by
  unfold State.savedFull
  repeat' (first | with_reducible assumption | with_reducible apply State.modCore_wf)
theorem execSaveRetryWrite_wf (s : State) (hs : State.memWf s) : ∀ z, execSaveRetryWrite s = .next z → State.memWf z := by
  unfold execSaveRetryWrite
  refine onItem_wf _ _ _ _ hs fun _ _ => ?_
  repeat' (first | with_reducible assumption | split)
theorem State.reissueArray_wf (s : State) (c : Nat) (i : Instr) (o : Op) (later : List Op) (hs : State.memWf s) : State.memWf (State.reissueArray s c i o later) := by
  unfold State.reissueArray
  repeat' (first | with_reducible assumption | with_reducible apply State.modCore_wf | with_reducible apply State.spmVerify_wf | split)
theorem State.reissueAccess_wf (s : State) (c : Nat) (i : Instr) (f : Form) (o : Op) (hs : State.memWf s) : State.memWf (State.reissueAccess s c i f o) := by
  unfold State.reissueAccess
  repeat' (first | with_reducible assumption | with_reducible apply State.arrayRead_wf | with_reducible apply State.freeTime_wf | with_reducible apply State.modCore_wf | split)
theorem State.rereads_wf (s : State) (c : Nat) (n : Nat) (o : Op) (hs : State.memWf s) : State.memWf (State.rereads s c n o).2 := by
  unfold State.rereads
  repeat' (first | with_reducible assumption | split)
theorem State.reissueOp_wf (s : State) (c : Nat) (o : Op) (later : List Op) (all : List Op) (hs : State.memWf s) : State.memWf (State.reissueOp s c o later all) := by
  unfold State.reissueOp; dsimp only
  repeat' (first | with_reducible assumption | with_reducible apply State.freeTime_wf | with_reducible apply State.modCore_wf | with_reducible apply State.reissueAccess_wf | with_reducible apply State.reissueArray_wf | with_reducible apply State.rereads_wf | split)
theorem State.reissueAll_wf (s : State) (c : Nat) (hs : State.memWf s) : State.memWf (State.reissueAll s c) := by
  unfold State.reissueAll
  repeat' (first | with_reducible assumption | with_reducible apply State.modCore_wf | with_reducible apply State.reissueOp_wf | with_reducible apply State.trace_wf | with_reducible apply foldl_wf | with_reducible apply foldl_wf2 | with_reducible apply foldl_wf1 | split | intro _)
theorem State.readArea_wf (s : State) (w : Area) (a : Nat) (off : Nat) (lim : Nat) (hs : State.memWf s) : State.memWf (State.readArea s w a off lim).2 := by
  unfold State.readArea; try dsimp only
  repeat' (first | with_reducible assumption | with_reducible apply State.loadArea_wf | with_reducible apply foldl_wf | with_reducible apply foldl_wf2 | with_reducible apply foldl_wf1 | split | intro _)
  all_goals grind [State.loadArea_wf, foldl_wf, foldl_wf2, foldl_wf1, Sparse.wf_setBytes]
theorem State.loadList_wf (s : State) (w : Area) (a : Nat) (ps : List (Nat × Nat)) (hs : State.memWf s) : State.memWf (State.loadList s w a ps).2 := by
  unfold State.loadList; try dsimp only
  repeat' (first | with_reducible assumption | with_reducible apply State.loadArea_wf | with_reducible apply foldl_wf | with_reducible apply foldl_wf2 | with_reducible apply foldl_wf1 | split | intro _)
  all_goals grind [State.loadArea_wf, foldl_wf, foldl_wf2, foldl_wf1, Sparse.wf_setBytes]
theorem State.resumeInPlace_wf (s : State) (c : Nat) (hs : State.memWf s) : State.memWf (State.resumeInPlace s c) := by
  unfold State.resumeInPlace; try dsimp only
  repeat' (first | with_reducible assumption | with_reducible apply State.loadList_wf | with_reducible apply State.modCore_wf | with_reducible apply State.readArea_wf | with_reducible apply State.setCore_wf | with_reducible apply State.storeArea_wf | with_reducible apply State.takeStop_wf | with_reducible apply foldl_wf | with_reducible apply foldl_wf2 | with_reducible apply foldl_wf1 | split | intro _)
  all_goals grind [State.loadList_wf, State.modCore_wf, State.readArea_wf, State.setCore_wf, State.storeArea_wf, State.takeStop_wf, foldl_wf, foldl_wf2, foldl_wf1, Sparse.wf_setBytes]
theorem State.rebind_wf (s : State) (a : Nat) (b : Nat) (l : Launch) (hs : State.memWf s) : State.memWf (State.rebind s a b l) := by
  unfold State.rebind
  repeat' (first | with_reducible assumption | with_reducible apply State.modCore_wf | with_reducible apply State.modLaunch_wf | with_reducible apply State.setCore_wf | split)
theorem State.runOn_wf (s : State) (c : Nat) (h : Sparse Byte) (rs : List Rec) (hs : State.memWf s) : State.memWf (State.runOn s c h rs) := by
  unfold State.runOn
  assumption
theorem State.restoreFull_wf (s : State) (q : Nat) (c : Nat) (a : Nat) (l : Launch) (hs : State.memWf s) : State.memWf (State.restoreFull s q c a l).2 := by
  unfold State.restoreFull; try dsimp only
  repeat' (first | with_reducible assumption | with_reducible apply State.loadList_wf | with_reducible apply State.modCore_wf | with_reducible apply State.readArea_wf | with_reducible apply State.rebind_wf | with_reducible apply State.runOn_wf | with_reducible apply State.stopEntry_wf | with_reducible apply State.storeArea_wf | with_reducible apply foldl_wf | with_reducible apply foldl_wf2 | with_reducible apply foldl_wf1 | split | intro _)
  all_goals grind [State.loadList_wf, State.modCore_wf, State.readArea_wf, State.rebind_wf, State.runOn_wf, State.stopEntry_wf, State.storeArea_wf, foldl_wf, foldl_wf2, foldl_wf1, Sparse.wf_setBytes]
theorem execCtxRestoreWrite_wf (p : Nat) (v : Word) (s : State) (hs : State.memWf s) : ∀ z, execCtxRestoreWrite p v s = .next z → State.memWf z := by
  intro z h; unfold execCtxRestoreWrite at h
  have h := (onItem_eq _ _ _ _ _ h : z = _)
  subst h; try dsimp only
  repeat' (first | with_reducible assumption | with_reducible apply State.loadArea_wf | with_reducible apply State.rebind_wf | with_reducible apply State.restoreFull_wf | with_reducible apply State.ww_wf | with_reducible apply foldl_wf | with_reducible apply foldl_wf2 | with_reducible apply foldl_wf1 | split | intro _)
  all_goals grind [State.loadArea_wf, State.rebind_wf, State.restoreFull_wf, State.ww_wf, onItem_wf, foldl_wf, foldl_wf2, foldl_wf1, Sparse.wf_setBytes]
theorem State.readImage_wf (s : State) (l : Launch) (h : Nat) (c : Nat) (hs : State.memWf s) : State.memWf (State.readImage s l h c).2 := by
  unfold State.readImage; try dsimp only
  repeat' (first | with_reducible assumption | with_reducible apply State.loadArea_wf | with_reducible apply foldl_wf | with_reducible apply foldl_wf2 | with_reducible apply foldl_wf1 | split | intro _)
  all_goals grind [State.loadArea_wf, foldl_wf, foldl_wf2, foldl_wf1, Sparse.wf_setBytes]
theorem State.image_wf (s : State) (l : Launch) (h : Nat) (c : Nat) (hs : State.memWf s) : State.memWf (State.image s l h c).2 := by
  unfold State.image; try dsimp only
  repeat' (first | with_reducible assumption | with_reducible apply State.readImage_wf | with_reducible apply foldl_wf | with_reducible apply foldl_wf2 | with_reducible apply foldl_wf1 | split | intro _)
  all_goals grind [State.readImage_wf, foldl_wf, foldl_wf2, foldl_wf1, Sparse.wf_setBytes]
theorem State.findLive_wf (s : State) (w : Area) (tab : Nat) (a : Nat) (a' : Nat) (a'' : Nat) (a''' : Nat) (hs : State.memWf s) : State.memWf (State.findLive s w tab a a' a'' a''').2 := by
  induction a' generalizing s a'' a''' with
  | zero => unfold State.findLive; exact hs
  | succ n ih =>
    unfold State.findLive
    split
    · exact hs
    · dsimp only
      have hl := State.loadArea_wf s w (tab + 64 * ((a'' + a''') / 2)) 64 hs
      split
      · rename_i h; rw [h] at hl; exact hl
      · rename_i h; rw [h] at hl
        split
        · exact hl
        · split
          · exact ih _ _ _ hl
          · exact ih _ _ _ hl
theorem State.liveAt_wf (s : State) (l : Launch) (h : Nat) (c : Nat) (a : Nat) (hs : State.memWf s) : State.memWf (State.liveAt s l h c a).2 := by
  unfold State.liveAt; try dsimp only
  repeat' (first | with_reducible assumption | with_reducible apply State.findLive_wf | with_reducible apply State.loadArea_wf | with_reducible apply State.readImage_wf | with_reducible apply foldl_wf | with_reducible apply foldl_wf2 | with_reducible apply foldl_wf1 | split | intro _)
  all_goals grind [State.findLive_wf, State.loadArea_wf, State.readImage_wf, foldl_wf, foldl_wf2, foldl_wf1, Sparse.wf_setBytes]
theorem State.claimFails_wf (s : State) (c : Nat) (o : Op) (a : Nat) (cause : Nat) (hs : State.memWf s) : State.memWf (State.claimFails s c o a cause) := by
  unfold State.claimFails
  repeat' (first | with_reducible assumption | with_reducible apply State.setOp_wf | with_reducible apply State.stopEntry_wf)
theorem State.claimed_wf (s : State) (c : Nat) (o : Op) (a : Nat) (bad : Option Nat) (hs : State.memWf s) : State.memWf (State.claimed s c o a bad) := by
  unfold State.claimed
  repeat' (first | with_reducible assumption | with_reducible apply State.claimFails_wf | with_reducible apply State.dropOp_wf | with_reducible apply State.modCore_wf | split)
theorem State.released_wf (s : State) (c : Nat) (o : Op) (a : Nat) (r : Except Nat (Sparse Byte)) (hs : State.memWf s) : State.memWf (State.released s c o a r) := by
  unfold State.released
  repeat' (first | with_reducible assumption | with_reducible apply State.claimFails_wf | with_reducible apply State.dropOp_wf | with_reducible apply State.modCore_wf | split)
theorem State.claim_wf (s : State) (c : Nat) (o : Op) (hs : State.memWf s) : State.memWf (State.claim s c o) := by
  unfold State.claim; dsimp only
  repeat' (first | with_reducible assumption | with_reducible apply State.claimed_wf | with_reducible apply State.loadArea_wf | with_reducible apply State.released_wf | with_reducible apply State.storeArea_wf | split)
theorem State.witness_wf (s : State) (c : Nat) (o : Op) (hs : State.memWf s) : State.memWf (State.witness s c o) := by
  unfold State.witness
  repeat' (first | with_reducible assumption | with_reducible apply State.rel_wf)
theorem State.landOp_wf (s : State) (c : Nat) (o : Op) (hs : State.memWf s) : State.memWf (State.landOp s c o) := by
  unfold State.landOp; dsimp only
  repeat' (first | with_reducible assumption | with_reducible apply State.arrayWritten_wf | with_reducible apply State.dropOp_wf | with_reducible apply State.modCore_wf | with_reducible apply State.setCore_wf | with_reducible apply State.sysWrite_wf | with_reducible apply State.witness_wf | with_reducible apply trigger_wf | split)
theorem State.landOne_wf (s : State) (c : Nat) (id : Nat) (hs : State.memWf s) : State.memWf (State.landOne s c id) := by
  unfold State.landOne; dsimp only
  repeat' (first | with_reducible assumption | with_reducible apply State.landOp_wf | with_reducible apply State.modCore_wf | split)
theorem State.landThose_wf (s : State) (c : Nat) (test : Op → Bool) (hs : State.memWf s) : State.memWf (State.landThose s c test) := by
  unfold State.landThose
  repeat' (first | with_reducible assumption | with_reducible apply State.landOne_wf | with_reducible apply foldl_wf | with_reducible apply foldl_wf2 | with_reducible apply foldl_wf1 | split | intro _)
theorem State.landAll_wf (s : State) (c : Nat) (hs : State.memWf s) : State.memWf (State.landAll s c) := by
  unfold State.landAll
  repeat' (first | with_reducible assumption | with_reducible apply State.landThose_wf | split)
theorem runSlot_wf (i : Instr) (s : State) (hs : State.memWf s) : ∀ z, runSlot i s = .next z → State.memWf z := by
  intro z hz; cases i with
  | add a b c => exact execAdd_wf a b c s hs z hz
  | sub a b c => exact execSub_wf a b c s hs z hz
  | and a b c => exact execAnd_wf a b c s hs z hz
  | or a b c => exact execOr_wf a b c s hs z hz
  | xor a b c => exact execXor_wf a b c s hs z hz
  | andn a b c => exact execAndn_wf a b c s hs z hz
  | sll a b c => exact execSll_wf a b c s hs z hz
  | srl a b c => exact execSrl_wf a b c s hs z hz
  | sra a b c => exact execSra_wf a b c s hs z hz
  | slt a b c => exact execSlt_wf a b c s hs z hz
  | sltu a b c => exact execSltu_wf a b c s hs z hz
  | seq a b c => exact execSeq_wf a b c s hs z hz
  | min a b c => exact execMin_wf a b c s hs z hz
  | max a b c => exact execMax_wf a b c s hs z hz
  | minu a b c => exact execMinu_wf a b c s hs z hz
  | maxu a b c => exact execMaxu_wf a b c s hs z hz
  | mul a b c => exact execMul_wf a b c s hs z hz
  | mulh a b c => exact execMulh_wf a b c s hs z hz
  | mulhu a b c => exact execMulhu_wf a b c s hs z hz
  | div a b c => exact execDiv_wf a b c s hs z hz
  | divu a b c => exact execDivu_wf a b c s hs z hz
  | rem a b c => exact execRem_wf a b c s hs z hz
  | remu a b c => exact execRemu_wf a b c s hs z hz
  | clz a b => exact execClz_wf a b s hs z hz
  | ctz a b => exact execCtz_wf a b s hs z hz
  | popc a b => exact execPopc_wf a b s hs z hz
  | addi a b c => exact execAddi_wf a b c s hs z hz
  | andi a b c => exact execAndi_wf a b c s hs z hz
  | ori a b c => exact execOri_wf a b c s hs z hz
  | xori a b c => exact execXori_wf a b c s hs z hz
  | slli a b c => exact execSlli_wf a b c s hs z hz
  | srli a b c => exact execSrli_wf a b c s hs z hz
  | srai a b c => exact execSrai_wf a b c s hs z hz
  | slti a b c => exact execSlti_wf a b c s hs z hz
  | sltiu a b c => exact execSltiu_wf a b c s hs z hz
  | li a b => exact execLi_wf a b s hs z hz
  | lui a b => exact execLui_wf a b s hs z hz
  | lsh a b => exact execLsh_wf a b s hs z hz
  | beq a b c => exact execBeq_wf a b c s hs z hz
  | bne a b c => exact execBne_wf a b c s hs z hz
  | blt a b c => exact execBlt_wf a b c s hs z hz
  | bge a b c => exact execBge_wf a b c s hs z hz
  | bltu a b c => exact execBltu_wf a b c s hs z hz
  | bgeu a b c => exact execBgeu_wf a b c s hs z hz
  | j a => exact execJ_wf a s hs z hz
  | jl a b => exact execJl_wf a b s hs z hz
  | jr a => exact execJr_wf a s hs z hz
  | jlr a b => exact execJlr_wf a b s hs z hz
  | loop a b c => exact execLoop_wf a b c s hs z hz
  | loopi a b c => exact execLoopi_wf a b c s hs z hz
  | lcrd a b => exact execLcrd_wf a b s hs z hz
  | agbase a b => exact execAgbase_wf a b s hs z hz
  | agstep a b => exact execAgstep_wf a b s hs z hz
  | agwrap a b => exact execAgwrap_wf a b s hs z hz
  | agrd a b => exact execAgrd_wf a b s hs z hz
  | srrd a b => exact execSrrd_wf a b s hs z hz
  | srwr a b => exact execSrwr_wf a b s hs z hz
  | srset a b => exact execSrset_wf a b s hs z hz
  | srclr a b => exact execSrclr_wf a b s hs z hz
  | trap a => exact execTrap_wf a s hs z hz
  | brk a => exact execBrk_wf a s hs z hz
  | gsres a => exact execGsres_wf a s hs z hz
  | push a b c d e f g => exact execPush_wf a b c d e f g s hs z hz
  | acc a b c d e => exact execAcc_wf a b c d e s hs z hz
  | accp a b c d e f g h => exact execAccp_wf a b c d e f g h s hs z hz
  | shift a b => exact execShift_wf a b s hs z hz
  | drain a b c d => exact execDrain_wf a b c d s hs z hz
  | mloc a => exact execMloc_wf a s hs z hz
  | mfix a b => exact execMfix_wf a b s hs z hz
  | scla a b => exact execScla_wf a b s hs z hz
  | sclb a b => exact execSclb_wf a b s hs z hz
  | smap a => exact execSmap_wf a s hs z hz
  | sidx a b c => exact execSidx_wf a b c s hs z hz
  | move a b => exact execMove_wf a b s hs z hz
  | vaMov a b c => exact execVaMov_wf a b c s hs z hz
  | vaAdd a b c => exact execVaAdd_wf a b c s hs z hz
  | vaSub a b c => exact execVaSub_wf a b c s hs z hz
  | vaMul a b c => exact execVaMul_wf a b c s hs z hz
  | vaFma a b c => exact execVaFma_wf a b c s hs z hz
  | vaFms a b c => exact execVaFms_wf a b c s hs z hz
  | vaFnma a b c => exact execVaFnma_wf a b c s hs z hz
  | vaMin a b c => exact execVaMin_wf a b c s hs z hz
  | vaMax a b c => exact execVaMax_wf a b c s hs z hz
  | vaAbs a b c => exact execVaAbs_wf a b c s hs z hz
  | vaNeg a b c => exact execVaNeg_wf a b c s hs z hz
  | vaAnd a b c => exact execVaAnd_wf a b c s hs z hz
  | vaOr a b c => exact execVaOr_wf a b c s hs z hz
  | vaXor a b c => exact execVaXor_wf a b c s hs z hz
  | vaAndn a b c => exact execVaAndn_wf a b c s hs z hz
  | vaNot a b c => exact execVaNot_wf a b c s hs z hz
  | vaSll a b c => exact execVaSll_wf a b c s hs z hz
  | vaSrl a b c => exact execVaSrl_wf a b c s hs z hz
  | vaSra a b c => exact execVaSra_wf a b c s hs z hz
  | vaMulhi a b c => exact execVaMulhi_wf a b c s hs z hz
  | vaSel a b c => exact execVaSel_wf a b c s hs z hz
  | vaCeq a b c => exact execVaCeq_wf a b c s hs z hz
  | vaCne a b c => exact execVaCne_wf a b c s hs z hz
  | vaClt a b c => exact execVaClt_wf a b c s hs z hz
  | vaCle a b c => exact execVaCle_wf a b c s hs z hz
  | vaCun a b c => exact execVaCun_wf a b c s hs z hz
  | vaKand a b c => exact execVaKand_wf a b c s hs z hz
  | vaKor a b c => exact execVaKor_wf a b c s hs z hz
  | vaKxor a b c => exact execVaKxor_wf a b c s hs z hz
  | vaKandn a b c => exact execVaKandn_wf a b c s hs z hz
  | vaKnot a b c => exact execVaKnot_wf a b c s hs z hz
  | vaKcnt a b c => exact execVaKcnt_wf a b c s hs z hz
  | vpRotr a b => exact execVpRotr_wf a b s hs z hz
  | vpBcr a b => exact execVpBcr_wf a b s hs z hz
  | vpSumr a b => exact execVpSumr_wf a b s hs z hz
  | vpMaxr a b => exact execVpMaxr_wf a b s hs z hz
  | vpMinr a b => exact execVpMinr_wf a b s hs z hz
  | vpRotc a b => exact execVpRotc_wf a b s hs z hz
  | vpBcc a b => exact execVpBcc_wf a b s hs z hz
  | vpSumc a b => exact execVpSumc_wf a b s hs z hz
  | vpMaxc a b => exact execVpMaxc_wf a b s hs z hz
  | vpMinc a b => exact execVpMinc_wf a b s hs z hz
  | vpTrn16 a b => exact execVpTrn16_wf a b s hs z hz
  | vpShuf a b => exact execVpShuf_wf a b s hs z hz
  | sfExp2 a b => exact execSfExp2_wf a b s hs z hz
  | sfLog2 a b => exact execSfLog2_wf a b s hs z hz
  | sfRcp a b => exact execSfRcp_wf a b s hs z hz
  | sfRsqrt a b => exact execSfRsqrt_wf a b s hs z hz
  | sfSqrt a b => exact execSfSqrt_wf a b s hs z hz
  | sfTanh a b => exact execSfTanh_wf a b s hs z hz
  | sfSin a b => exact execSfSin_wf a b s hs z hz
  | sfCos a b => exact execSfCos_wf a b s hs z hz
  | sfErf a b => exact execSfErf_wf a b s hs z hz
  | cvDn a b c d => exact execCvDn_wf a b c d s hs z hz
  | cvUp a b => exact execCvUp_wf a b s hs z hz
  | cvUpRounding a b c => exact execCvUpRounding_wf a b c s hs z hz
  | wcSig a => exact execWcSig_wf a s hs z hz
  | wcSigclr a => exact execWcSigclr_wf a s hs z hz
  | wcCmp a => exact execWcCmp_wf a s hs z hz
  | apRd a => exact execApRd_wf a s hs z hz
  | apWr a => exact execApWr_wf a s hs z hz
  | apAcc a => exact execApAcc_wf a s hs z hz
  | ldb a => exact execLdb_wf a s hs z hz
  | ldh a => exact execLdh_wf a s hs z hz
  | ldw a => exact execLdw_wf a s hs z hz
  | ldd a => exact execLdd_wf a s hs z hz
  | ldbs a => exact execLdbs_wf a s hs z hz
  | ldhs a => exact execLdhs_wf a s hs z hz
  | ldws a => exact execLdws_wf a s hs z hz
  | stb a => exact execStb_wf a s hs z hz
  | sth a => exact execSth_wf a s hs z hz
  | stw a => exact execStw_wf a s hs z hz
  | std a => exact execStd_wf a s hs z hz
  | vld a => exact execVld_wf a s hs z hz
  | vst a => exact execVst_wf a s hs z hz
  | vld16 a => exact execVld16_wf a s hs z hz
  | vld32 a => exact execVld32_wf a s hs z hz
  | vst16 a => exact execVst16_wf a s hs z hz
  | vst32 a => exact execVst32_wf a s hs z hz
  | qld a => exact execQld_wf a s hs z hz
  | vgath a => exact execVgath_wf a s hs z hz
  | vscat a => exact execVscat_wf a s hs z hz
  | vlut a => exact execVlut_wf a s hs z hz
  | vlst a => exact execVlst_wf a s hs z hz
  | pref a => exact execPref_wf a s hs z hz
  | ipref a => exact execIpref_wf a s hs z hz
  | aincW a => exact execAincW_wf a s hs z hz
  | aincD a => exact execAincD_wf a s hs z hz
  | afaddbW a => exact execAfaddbW_wf a s hs z hz
  | afaddbD a => exact execAfaddbD_wf a s hs z hz
  | aaddW a => exact execAaddW_wf a s hs z hz
  | aaddD a => exact execAaddD_wf a s hs z hz
  | aaddfW a => exact execAaddfW_wf a s hs z hz
  | acasW a => exact execAcasW_wf a s hs z hz
  | acasD a => exact execAcasD_wf a s hs z hz
  | axchgW a => exact execAxchgW_wf a s hs z hz
  | axchgD a => exact execAxchgD_wf a s hs z hz
  | amaxW a => exact execAmaxW_wf a s hs z hz
  | amaxD a => exact execAmaxD_wf a s hs z hz
  | aminW a => exact execAminW_wf a s hs z hz
  | aminD a => exact execAminD_wf a s hs z hz
  | radd a => exact execRadd_wf a s hs z hz
  | rwait a => exact execRwait_wf a s hs z hz
  | rrd a => exact execRrd_wf a s hs z hz
  | fence a b => exact execFence_wf a b s hs z hz
  | gopen a => exact execGopen_wf a s hs z hz
  | gcommit a => exact execGcommit_wf a s hs z hz
  | gabort a => exact execGabort_wf a s hs z hz
  | cpy a => exact execCpy_wf a s hs z hz
  | cpy2d a => exact execCpy2d_wf a s hs z hz
  | cpyg a => exact execCpyg_wf a s hs z hz
  | cwait a b => exact execCwait_wf a b s hs z hz
  | wpwait a b c => exact execWpwait_wf a b c s hs z hz
  | red a => exact execRed_wf a s hs z hz
  | coll a => exact execColl_wf a s hs z hz
  | lqput a => exact execLqput_wf a s hs z hz
  | tlbiva a => exact execTlbiva_wf a s hs z hz
  | l2wb a => exact execL2wb_wf a s hs z hz
  | l2inv a => exact execL2inv_wf a s hs z hz
  | l2wbinv a => exact execL2wbinv_wf a s hs z hz
  | done => exact execDone_wf s hs z hz
  | resume => exact execResume_wf s hs z hz
  | gsend => exact execGsend_wf s hs z hz
  | dchk => exact execDchk_wf s hs z hz
  | clear => exact execClear_wf s hs z hz
  | mpass => exact execMpass_wf s hs z hz
  | mretry => exact execMretry_wf s hs z hz
  | mclaim => exact execMclaim_wf s hs z hz
  | mrelease => exact execMrelease_wf s hs z hz
  | tlbiall => exact execTlbiall_wf s hs z hz
  | _ => cases hz; exact hs
theorem nextOr_wf (s : State) (a : Out) (hs : State.memWf s) (ha : ∀ t, a = .next t → State.memWf t) : State.memWf (nextOr s a) := by
  cases a with
  | next t => exact ha t rfl
  | fault r => exact hs
  | refused r => exact hs
theorem State.runAt_wf (s : State) (c : Nat) (addr : Nat) (wit : Bool) (e : Nat × Instr) (hs : State.memWf s) : State.memWf (State.runAt s c addr wit e) := by
  exact nextOr_wf _ _ hs fun t ht => runSlot_wf e.2 { s with cur := { core := c, slot := e.1, addr := addr, wit := wit } } hs t ht
theorem State.useLines_wf (s : State) (c : Nat) (a : Nat) (n : Nat) (hs : State.memWf s) : State.memWf (State.useLines s c a n) := by
  unfold State.useLines
  repeat' (first | with_reducible assumption | with_reducible apply State.modCore_wf | with_reducible apply foldl_wf | with_reducible apply foldl_wf2 | with_reducible apply foldl_wf1 | split | intro _)
theorem State.endIssue_wf (s : State) (c : Nat) (a : Nat) (b : Bundle) (loops : List Nat) (before : Nat) (hs : State.memWf s) : State.memWf (State.endIssue s c a b loops before) := by
  unfold State.endIssue
  repeat' (first | with_reducible assumption | with_reducible apply State.modCore_wf | with_reducible apply State.setCore_wf | with_reducible apply State.trace_wf | split)
theorem State.issueBundle_wf (s : State) (c : Nat) (b : Bundle) (hs : State.memWf s) : State.memWf (State.issueBundle s c b) := by
  unfold State.issueBundle
  repeat' (first | with_reducible assumption | with_reducible apply State.endIssue_wf | with_reducible apply State.modCore_wf | with_reducible apply State.runAt_wf | with_reducible apply State.useLines_wf | with_reducible apply foldl_wf | with_reducible apply foldl_wf2 | with_reducible apply foldl_wf1 | intro _)
theorem State.codeRead_wf (s : State) (c : Nat) (a : Nat) (hs : State.memWf s) : State.memWf (State.codeRead s c a).2 := by
  unfold State.codeRead
  repeat' (first | with_reducible assumption | with_reducible apply State.modCore_wf | with_reducible apply State.record_wf | with_reducible apply foldl_wf | with_reducible apply foldl_wf2 | with_reducible apply foldl_wf1 | split | intro _)
theorem State.bundleIssue_wf (s : State) (c : Nat) (hs : State.memWf s) : State.memWf (State.bundleIssue s c) := by
  unfold State.bundleIssue; dsimp only
  repeat' (first | with_reducible assumption | with_reducible apply State.codeRead_wf | with_reducible apply State.issueBundle_wf | with_reducible apply State.landAll_wf | with_reducible apply State.modCore_wf | with_reducible apply State.takeStop_wf | split)
theorem execBundleIssue_wf (s : State) (hs : State.memWf s) : ∀ z, execBundleIssue s = .next z → State.memWf z := by
  unfold execBundleIssue
  refine onCore_wf _ _ hs fun _ _ => ?_
  repeat' (first | with_reducible assumption | with_reducible apply State.bundleIssue_wf)
theorem State.replayIssue_wf (s : State) (c : Nat) (r : Replay) (hs : State.memWf s) : State.memWf (State.replayIssue s c r).1 := by
  unfold State.replayIssue
  repeat' (first | with_reducible assumption | with_reducible apply State.modCore_wf | with_reducible apply State.runAt_wf | with_reducible apply State.setCore_wf | with_reducible apply foldl_wf | with_reducible apply foldl_wf2 | with_reducible apply foldl_wf1 | split | intro _)
theorem State.claimStep_wf (s : State) (c : Nat) (o : Op) (hs : State.memWf s) : State.memWf (State.claimStep s c o) := by
  unfold State.claimStep; dsimp only
  repeat' (first | with_reducible assumption | with_reducible apply State.claim_wf | with_reducible apply State.modCore_wf | split)
theorem State.claimCycle_wf (s : State) (c : Nat) (o : Op) (hs : State.memWf s) : State.memWf (State.claimCycle s c o) := by
  unfold State.claimCycle
  repeat' (first | with_reducible assumption | with_reducible apply State.claimStep_wf | with_reducible apply State.modCore_wf | split)
theorem State.replayCycle_wf (s : State) (c : Nat) (r : Replay) (hs : State.memWf s) : State.memWf (State.replayCycle s c r) := by
  unfold State.replayCycle; dsimp only
  repeat' (first | with_reducible assumption | with_reducible apply State.claimStep_wf | with_reducible apply State.codeRead_wf | with_reducible apply State.landAll_wf | with_reducible apply State.modCore_wf | with_reducible apply State.replayIssue_wf | with_reducible apply State.setCore_wf | with_reducible apply State.takeStop_wf | split)
theorem State.urgent_wf (s : State) (c : Nat) (hs : State.memWf s) : ∀ z, State.urgent s c = some z → State.memWf z := by
  unfold State.urgent; try dsimp only
  repeat' (first | with_reducible assumption | with_reducible apply State.modCore_wf | with_reducible apply State.takeStop_wf | with_reducible apply foldl_wf | with_reducible apply foldl_wf2 | with_reducible apply foldl_wf1 | split | intro _)
  all_goals grind [State.modCore_wf, State.takeStop_wf, foldl_wf, foldl_wf2, foldl_wf1, Sparse.wf_setBytes]
theorem State.drainCycle_wf (s : State) (c : Nat) (hs : State.memWf s) : State.memWf (State.drainCycle s c) := by
  unfold State.drainCycle; dsimp only
  repeat' (first | with_reducible assumption | with_reducible apply State.claimCycle_wf | with_reducible apply State.landAll_wf | with_reducible apply State.modCore_wf | with_reducible apply State.resumeInPlace_wf | split)
theorem State.frozenCycle_wf (s : State) (c : Nat) (look : Option Look) (i : Nat) (is : List Nat) (hs : State.memWf s) : State.memWf (State.frozenCycle s c look i is) := by
  unfold State.frozenCycle
  assumption
theorem State.plainCycle_wf (s : State) (c : Nat) (hs : State.memWf s) : State.memWf (State.plainCycle s c) := by
  unfold State.plainCycle; dsimp only
  repeat' (first | with_reducible assumption | with_reducible apply State.claimCycle_wf | with_reducible apply State.frozenCycle_wf | with_reducible apply State.landAll_wf | with_reducible apply State.landThose_wf | with_reducible apply State.modCore_wf | with_reducible apply State.takeStop_wf | split)
theorem State.clockCycle_wf (s : State) (c : Nat) (hs : State.memWf s) : State.memWf (State.clockCycle s c) := by
  unfold State.clockCycle; try dsimp only
  all_goals grind [State.drainCycle_wf, State.plainCycle_wf, State.reissueAll_wf, State.replayCycle_wf, State.takeStop_wf, State.urgent_wf, foldl_wf, foldl_wf2, foldl_wf1, Sparse.wf_setBytes]
theorem State.landCycle_wf (s : State) (c : Nat) (hs : State.memWf s) : State.memWf (State.landCycle s c) := by
  unfold State.landCycle; dsimp only
  repeat' (first | with_reducible assumption | with_reducible apply State.clockCycle_wf | with_reducible apply State.modCore_wf | with_reducible apply State.settle_wf | split)
theorem execOperationLands_wf (s : State) (hs : State.memWf s) : ∀ z, execOperationLands s = .next z → State.memWf z := by
  unfold execOperationLands
  refine onCore_wf _ _ hs fun _ _ => ?_
  repeat' (first | with_reducible assumption | with_reducible apply State.landCycle_wf)
theorem State.dropLaunch_wf (s : State) (k : Nat) (hs : State.memWf s) : State.memWf (State.dropLaunch s k) := by
  unfold State.dropLaunch
  assumption
theorem State.readDesc_wf (s : State) (p : Nat) (a : Nat) (hs : State.memWf s) : State.memWf (State.readDesc s p a).2 := by
  unfold State.readDesc
  repeat' (first | with_reducible assumption | with_reducible apply State.agentRead_wf | split)
theorem State.descFault_wf (s : State) (p : Nat) (k : Nat) (a : Nat) (hs : State.memWf s) : State.memWf (State.descFault s p k a) := by
  unfold State.descFault
  repeat' (first | with_reducible assumption | with_reducible apply State.agentFault_wf | split)
theorem State.queueLaunch_wf (s : State) (p : Nat) (q : Nat) (i : Nat) (ws : List Word) (hs : State.memWf s) : State.memWf (State.queueLaunch s p q i ws) := by
  unfold State.queueLaunch; dsimp only
  repeat' (first | with_reducible assumption | with_reducible apply State.ww_wf | split)
theorem State.takeDesc_wf (s : State) (p : Nat) (q : Nat) (hs : State.memWf s) : State.memWf (State.takeDesc s p q) := by
  unfold State.takeDesc; try dsimp only
  repeat' (first | with_reducible assumption | with_reducible apply State.descFault_wf | with_reducible apply State.queueLaunch_wf | with_reducible apply State.readDesc_wf | with_reducible apply foldl_wf | with_reducible apply foldl_wf2 | with_reducible apply foldl_wf1 | split | intro _)
  all_goals grind [State.descFault_wf, State.queueLaunch_wf, State.readDesc_wf, foldl_wf, foldl_wf2, foldl_wf1, Sparse.wf_setBytes]
theorem execDescriptorTake_wf (s : State) (hs : State.memWf s) : ∀ z, execDescriptorTake s = .next z → State.memWf z := by
  unfold execDescriptorTake
  refine onItem_wf _ _ _ _ hs fun _ _ => ?_
  repeat' (first | with_reducible assumption | with_reducible apply State.takeDesc_wf)
theorem execLqTailWrite_wf (p : Nat) (q : Nat) (v : Word) (s : State) (hs : State.memWf s) : ∀ z, execLqTailWrite p q v s = .next z → State.memWf z := by
  unfold execLqTailWrite
  refine onItem_wf _ _ _ _ hs fun _ _ => ?_
  repeat' (first | with_reducible assumption | with_reducible apply State.lqRetry_wf | with_reducible apply State.ww_wf | split)
theorem State.waitValue_wf (s : State) (l : Launch) (hs : State.memWf s) : State.memWf (State.waitValue s l).2 := by
  unfold State.waitValue; try dsimp only
  repeat' (first | with_reducible assumption | with_reducible apply State.agentMet_wf | with_reducible apply State.reach_wf | with_reducible apply State.route_wf | with_reducible apply foldl_wf | with_reducible apply foldl_wf2 | with_reducible apply foldl_wf1 | split | intro _)
  all_goals grind [State.agentMet_wf, State.reach_wf, State.route_wf, foldl_wf, foldl_wf2, foldl_wf1, Sparse.wf_setBytes]
theorem execLaunchReady_wf (s : State) (hs : State.memWf s) : ∀ z, execLaunchReady s = .next z → State.memWf z := by
  intro z h; unfold execLaunchReady at h
  have h := (next_eq _ _ h : z = _)
  subst h; try dsimp only
  repeat' (first | with_reducible assumption | with_reducible apply State.agentFault_wf | with_reducible apply State.modLaunch_wf | with_reducible apply State.waitValue_wf | with_reducible apply foldl_wf | with_reducible apply foldl_wf2 | with_reducible apply foldl_wf1 | split | intro _)
  all_goals grind [State.agentFault_wf, State.modLaunch_wf, State.waitValue_wf, foldl_wf, foldl_wf2, foldl_wf1, Sparse.wf_setBytes]
theorem State.startCores_wf (s : State) (l : Launch) (cores : List Nat) (codes : List Nat) (unit : Nat) (tileNo : Nat) (guarded : Bool) (hs : State.memWf s) : State.memWf (State.startCores s l cores codes unit tileNo guarded) := by
  unfold State.startCores
  repeat' (first | with_reducible assumption | with_reducible apply State.modCore_wf | with_reducible apply foldl_wf | with_reducible apply foldl_wf2 | with_reducible apply foldl_wf1 | split | intro _)
theorem State.loadKeyed_wf (s : State) (w : Area) (a : Nat) (ks : List (Nat × Nat × Nat)) (hs : State.memWf s) : State.memWf (State.loadKeyed s w a ks).2 := by
  unfold State.loadKeyed; try dsimp only
  repeat' (first | with_reducible assumption | with_reducible apply State.loadList_wf | with_reducible apply foldl_wf | with_reducible apply foldl_wf2 | with_reducible apply foldl_wf1 | split | intro _)
  all_goals grind [State.loadList_wf, foldl_wf, foldl_wf2, foldl_wf1, Sparse.wf_setBytes]
theorem State.unrestored_wf (s : State) (c : Nat) (a : Nat) (e : NoResume) (hs : State.memWf s) : State.memWf (State.unrestored s c a e) := by
  unfold State.unrestored
  repeat' (first | with_reducible assumption | with_reducible apply State.modCore_wf | with_reducible apply State.stopEntry_wf | split)
theorem State.restoreWaymark_wf (s : State) (c : Nat) (a : Nat) (l : Launch) (hs : State.memWf s) : State.memWf (State.restoreWaymark s c a l) := by
  unfold State.restoreWaymark; try dsimp only
  repeat' (first | with_reducible assumption | with_reducible apply State.liveAt_wf | with_reducible apply State.loadKeyed_wf | with_reducible apply State.loadList_wf | with_reducible apply State.modCore_wf | with_reducible apply State.readArea_wf | with_reducible apply State.runOn_wf | with_reducible apply State.stopEntry_wf | with_reducible apply State.storeArea_wf | with_reducible apply State.unrestored_wf | with_reducible apply foldl_wf | with_reducible apply foldl_wf2 | with_reducible apply foldl_wf1 | split | intro _)
  all_goals grind [State.liveAt_wf, State.loadKeyed_wf, State.loadList_wf, State.modCore_wf, State.readArea_wf, State.runOn_wf, State.stopEntry_wf, State.storeArea_wf, State.unrestored_wf, foldl_wf, foldl_wf2, foldl_wf1, Sparse.wf_setBytes]
theorem State.bringBack_wf (s : State) (l : Launch) (e : Core) (c : Nat) (size : Nat) (hs : State.memWf s) : State.memWf (State.bringBack s l e c size) := by
  unfold State.bringBack
  repeat' (first | with_reducible assumption | with_reducible apply State.modCore_wf | with_reducible apply State.restoreFull_wf | with_reducible apply State.restoreWaymark_wf | split)
theorem State.remap_wf (s : State) (l : Launch) (cores : List Nat) (hs : State.memWf s) : State.memWf (State.remap s l cores) := by
  unfold State.remap
  repeat' (first | with_reducible assumption | with_reducible apply State.modCore_wf | with_reducible apply foldl_wf | with_reducible apply foldl_wf2 | with_reducible apply foldl_wf1 | intro _)
theorem State.resumeLaunch_wf (s : State) (l : Launch) (cores : List Nat) (hs : State.memWf s) : State.memWf (State.resumeLaunch s l cores) := by
  unfold State.resumeLaunch; try dsimp only
  repeat' (first | with_reducible assumption | with_reducible apply State.bringBack_wf | with_reducible apply State.loadArea_wf | with_reducible apply State.modLaunch_wf | with_reducible apply State.remap_wf | with_reducible apply foldl_wf | with_reducible apply foldl_wf2 | with_reducible apply foldl_wf1 | split | intro _)
  all_goals grind [State.bringBack_wf, State.loadArea_wf, State.modLaunch_wf, State.remap_wf, foldl_wf, foldl_wf2, foldl_wf1, Sparse.wf_setBytes]
theorem State.badImage_wf (s : State) (l : Launch) (hs : State.memWf s) : State.memWf (State.badImage s l) := by
  unfold State.badImage
  repeat' (first | with_reducible assumption | with_reducible apply State.dropLaunch_wf | with_reducible apply State.modLaunch_wf | split)
theorem State.dispatch_wf (s : State) (l : Launch) (a : List Nat) (b : List Nat) (hs : State.memWf s) : State.memWf (State.dispatch s l a b) := by
  unfold State.dispatch; try dsimp only
  repeat' (first | with_reducible assumption | with_reducible apply State.badImage_wf | with_reducible apply State.image_wf | with_reducible apply State.modLaunch_wf | with_reducible apply State.resumeLaunch_wf | with_reducible apply State.startCores_wf | with_reducible apply foldl_wf | with_reducible apply foldl_wf2 | with_reducible apply foldl_wf1 | split | intro _)
  all_goals grind [State.badImage_wf, State.image_wf, State.modLaunch_wf, State.resumeLaunch_wf, State.startCores_wf, foldl_wf, foldl_wf2, foldl_wf1, Sparse.wf_setBytes]
theorem State.dispatchFirst_wf (s : State) (p : Nat) (hs : State.memWf s) : State.memWf (State.dispatchFirst s p) := by
  unfold State.dispatchFirst
  repeat' (first | with_reducible assumption | with_reducible apply State.dispatch_wf | split)
theorem execLaunchDispatch_wf (s : State) (hs : State.memWf s) : ∀ z, execLaunchDispatch s = .next z → State.memWf z := by
  unfold execLaunchDispatch
  refine onItem_wf _ _ _ _ hs fun _ _ => ?_
  repeat' (first | with_reducible assumption | with_reducible apply State.dispatchFirst_wf | split)
theorem State.request_wf (s : State) (key : Nat) (cause : Nat) (hs : State.memWf s) : State.memWf (State.request s key cause) := by
  unfold State.request
  repeat' (first | with_reducible assumption | with_reducible apply State.modLaunch_wf | split)
theorem execSliceEnd_wf (s : State) (hs : State.memWf s) : ∀ z, execSliceEnd s = .next z → State.memWf z := by
  unfold execSliceEnd
  refine onItem_wf _ _ _ _ hs fun _ _ => ?_
  dsimp only
  repeat' (first | with_reducible assumption | with_reducible apply State.request_wf | with_reducible apply foldl_wf | with_reducible apply foldl_wf2 | with_reducible apply foldl_wf1 | split | intro _)
theorem State.release_wf (s : State) (c : Nat) (hs : State.memWf s) : State.memWf (State.release s c) := by
  unfold State.release
  repeat' (first | with_reducible assumption | with_reducible apply State.modCore_wf)
theorem State.passWaymark_wf (s : State) (c : Nat) (hs : State.memWf s) : State.memWf (State.passWaymark s c) := by
  unfold State.passWaymark
  repeat' (first | with_reducible assumption | with_reducible apply State.bundleIssue_wf | with_reducible apply State.modCore_wf | split)
theorem State.stopAtWaymark_wf (s : State) (c : Nat) (hs : State.memWf s) : State.memWf (State.stopAtWaymark s c) := by
  unfold State.stopAtWaymark; dsimp only
  repeat' (first | with_reducible assumption | with_reducible apply State.modCore_wf | with_reducible apply State.trace_wf | split)
theorem execWaymarkStop_wf (s : State) (hs : State.memWf s) : ∀ z, execWaymarkStop s = .next z → State.memWf z := by
  unfold execWaymarkStop
  refine onCore_wf _ _ hs fun _ _ => ?_
  try dsimp only
  repeat' (first | with_reducible assumption | with_reducible apply State.liveAt_wf | with_reducible apply State.passWaymark_wf | with_reducible apply State.stopAtWaymark_wf | with_reducible apply foldl_wf | with_reducible apply foldl_wf2 | with_reducible apply foldl_wf1 | split | intro _)
  all_goals grind [State.liveAt_wf, State.passWaymark_wf, State.stopAtWaymark_wf, foldl_wf, foldl_wf2, foldl_wf1, Sparse.wf_setBytes]
theorem State.savedWaymark_wf (s : State) (c : Nat) (hs : State.memWf s) : State.memWf (State.savedWaymark s c) := by
  unfold State.savedWaymark
  repeat' (first | with_reducible assumption | with_reducible apply State.setCore_wf | split)
theorem State.letGo_wf (s : State) (l : Launch) (cores : List Nat) (hs : State.memWf s) : State.memWf (State.letGo s l cores) := by
  unfold State.letGo
  repeat' (first | with_reducible assumption | with_reducible apply State.modLaunch_wf | with_reducible apply State.release_wf | with_reducible apply foldl_wf | with_reducible apply foldl_wf2 | with_reducible apply foldl_wf1 | split | intro _)
theorem State.settleSaved_wf (s : State) (key : Nat) (hs : State.memWf s) : State.memWf (State.settleSaved s key) := by
  unfold State.settleSaved
  repeat' (first | with_reducible assumption | with_reducible apply State.letGo_wf | with_reducible apply State.modLaunch_wf | split)
theorem execContextSaveDone_wf (s : State) (hs : State.memWf s) : ∀ z, execContextSaveDone s = .next z → State.memWf z := by
  intro z h; unfold execContextSaveDone at h
  have h := (onCore_eq _ _ _ h : z = _)
  subst h; try dsimp only
  repeat' (first | with_reducible assumption | with_reducible apply State.liveAt_wf | with_reducible apply State.modCore_wf | with_reducible apply State.saveCore_wf | with_reducible apply State.savedFull_wf | with_reducible apply State.savedWaymark_wf | with_reducible apply State.settleSaved_wf | with_reducible apply State.stopEntry_wf | with_reducible apply State.stopInPlace_wf | with_reducible apply foldl_wf | with_reducible apply foldl_wf2 | with_reducible apply foldl_wf1 | split | intro _)
  all_goals grind [State.liveAt_wf, State.modCore_wf, State.saveCore_wf, State.savedFull_wf, State.savedWaymark_wf, State.settleSaved_wf, State.stopEntry_wf, State.stopInPlace_wf, onCore_wf, foldl_wf, foldl_wf2, foldl_wf1, Sparse.wf_setBytes]
theorem State.killKept_wf (s : State) (l : Launch) (e : Nat × Core) (q : Cmd) (hs : State.memWf s) : State.memWf (State.killKept s l e q) := by
  unfold State.killKept
  repeat' (first | with_reducible assumption | with_reducible apply State.lastSteps_wf | split)
theorem State.killPlaces_wf (s : State) (l : Launch) (hs : State.memWf s) : State.memWf (State.killPlaces s l) := by
  unfold State.killPlaces
  repeat' (first | with_reducible assumption | with_reducible apply State.killKept_wf | with_reducible apply State.modLaunch_wf | with_reducible apply foldl_wf | with_reducible apply foldl_wf2 | with_reducible apply foldl_wf1 | split | intro _)
theorem State.dropKids_wf (s : State) (key : Nat) (hs : State.memWf s) : State.memWf (State.dropKids s key) := by
  unfold State.dropKids
  repeat' (first | with_reducible assumption | with_reducible apply State.dropLaunch_wf | with_reducible apply State.killPlaces_wf | with_reducible apply foldl_wf | with_reducible apply foldl_wf2 | with_reducible apply foldl_wf1 | split | intro _)
theorem State.cancel_wf (s : State) (key : Nat) (hs : State.memWf s) : State.memWf (State.cancel s key) := by
  unfold State.cancel
  repeat' (first | with_reducible assumption | with_reducible apply State.dropKids_wf | with_reducible apply State.killPlaces_wf | with_reducible apply State.modLaunch_wf | with_reducible apply State.request_wf | with_reducible apply foldl_wf | with_reducible apply foldl_wf2 | with_reducible apply foldl_wf1 | split | intro _)
theorem execLqCancelWrite_wf (p : Nat) (v : Word) (s : State) (hs : State.memWf s) : ∀ z, execLqCancelWrite p v s = .next z → State.memWf z := by
  unfold execLqCancelWrite
  refine onItem_wf _ _ _ _ hs fun _ _ => ?_
  repeat' (first | with_reducible assumption | with_reducible apply State.cancel_wf | with_reducible apply State.dispatchFirst_wf | split)
theorem execCancelTimeout_wf (s : State) (hs : State.memWf s) : ∀ z, execCancelTimeout s = .next z → State.memWf z := by
  unfold execCancelTimeout
  refine onCore_wf _ _ hs fun _ _ => ?_
  dsimp only
  repeat' (first | with_reducible assumption | with_reducible apply State.modCore_wf | with_reducible apply State.modLaunch_wf | split)
theorem State.killContext_wf (s : State) (c : Nat) (hs : State.memWf s) : State.memWf (State.killContext s c) := by
  unfold State.killContext
  repeat' (first | with_reducible assumption | with_reducible apply State.killCore_wf | with_reducible apply State.killEngines_wf | with_reducible apply State.modCore_wf | split)
theorem State.killLaunch_wf (s : State) (key : Nat) (hs : State.memWf s) : State.memWf (State.killLaunch s key) := by
  unfold State.killLaunch
  repeat' (first | with_reducible assumption | with_reducible apply State.killContext_wf | with_reducible apply State.killEngines_wf | with_reducible apply State.killPlaces_wf | with_reducible apply State.modLaunch_wf | with_reducible apply foldl_wf | with_reducible apply foldl_wf2 | with_reducible apply foldl_wf1 | split | intro _)
theorem execLaunchKill_wf (id : Word) (s : State) (hs : State.memWf s) : ∀ z, execLaunchKill id s = .next z → State.memWf z := by
  unfold execLaunchKill
  refine onItem_wf _ _ _ _ hs fun _ _ => ?_
  repeat' (first | with_reducible assumption | with_reducible apply State.killLaunch_wf | with_reducible apply foldl_wf | with_reducible apply foldl_wf2 | with_reducible apply foldl_wf1 | intro _)
theorem State.decide__wf (s : State) (l : Launch) (t : Tile) (hs : State.memWf s) : State.memWf (State.decide_ s l t) := by
  unfold State.decide_; dsimp only
  repeat' (first | with_reducible assumption | with_reducible apply State.commitGroup_wf | with_reducible apply State.letGo_wf | with_reducible apply State.modCore_wf | with_reducible apply State.modLaunch_wf | with_reducible apply State.wp_wf | with_reducible apply foldl_wf | with_reducible apply foldl_wf2 | with_reducible apply foldl_wf1 | split | intro _)
theorem execGsVerdict_wf (s : State) (hs : State.memWf s) : ∀ z, execGsVerdict s = .next z → State.memWf z := by
  intro z h; cases h
  repeat' (first | with_reducible assumption | with_reducible apply State.decide__wf | split)
theorem State.freeTiles_wf (s : State) (hs : State.memWf s) : State.memWf (State.freeTiles s) := by
  unfold State.freeTiles; dsimp only
  repeat' (first | with_reducible assumption | with_reducible apply State.letGo_wf | with_reducible apply State.modLaunch_wf | with_reducible apply foldl_wf | with_reducible apply foldl_wf2 | with_reducible apply foldl_wf1 | split | intro _)
theorem State.completionRecord_wf (s : State) (l : Launch) (hs : State.memWf s) : State.memWf (State.completionRecord s l) := by
  unfold State.completionRecord; try dsimp only
  repeat' (first | with_reducible assumption | with_reducible apply State.agentFault_wf | with_reducible apply State.agentWrite_wf | with_reducible apply State.irq_wf | with_reducible apply foldl_wf | with_reducible apply foldl_wf2 | with_reducible apply foldl_wf1 | split | intro _)
  all_goals grind [State.agentFault_wf, State.agentWrite_wf, State.irq_wf, foldl_wf, foldl_wf2, foldl_wf1, Sparse.wf_setBytes]
theorem State.completionRing_wf (s : State) (l : Launch) (hs : State.memWf s) : State.memWf (State.completionRing s l) := by
  unfold State.completionRing; try dsimp only
  all_goals grind [State.agentFault_wf, State.agentMet_wf, State.ringAddMain_wf, State.route_wf, foldl_wf, foldl_wf2, foldl_wf1, Sparse.wf_setBytes]
theorem State.endLaunch_wf (s : State) (l : Launch) (hs : State.memWf s) : State.memWf (State.endLaunch s l).1 := by
  unfold State.endLaunch
  repeat' (first | with_reducible assumption | with_reducible apply State.dropKids_wf | with_reducible apply State.modLaunch_wf | split)
theorem State.confirmed_wf (s : State) (l : Launch) (hs : State.memWf s) : State.memWf (State.confirmed s l).2 := by
  unfold State.confirmed
  repeat' (first | with_reducible assumption | with_reducible apply State.freeTime_wf | with_reducible apply State.modLaunch_wf | split)
theorem State.finish_wf (s : State) (l : Launch) (hs : State.memWf s) : State.memWf (State.finish s l) := by
  unfold State.finish
  repeat' (first | with_reducible assumption | with_reducible apply State.completionRecord_wf | with_reducible apply State.completionRing_wf | with_reducible apply State.dropLaunch_wf | with_reducible apply State.letGo_wf | with_reducible apply State.modLaunch_wf | split)
theorem execLaunchDone_wf (s : State) (hs : State.memWf s) : ∀ z, execLaunchDone s = .next z → State.memWf z := by
  unfold execLaunchDone
  intro z h; rw [next_eq _ _ h]
  try dsimp only
  repeat' (first | with_reducible assumption | with_reducible apply State.confirmed_wf | with_reducible apply State.endLaunch_wf | with_reducible apply State.finish_wf | with_reducible apply foldl_wf | with_reducible apply foldl_wf2 | with_reducible apply foldl_wf1 | split | intro _)
  all_goals grind [State.confirmed_wf, State.endLaunch_wf, State.finish_wf, foldl_wf, foldl_wf2, foldl_wf1, Sparse.wf_setBytes]
theorem State.passPool_wf (s : State) (p : Nat) (hs : State.memWf s) : State.memWf (State.passPool s p) := by
  unfold State.passPool
  repeat' (first | with_reducible assumption | with_reducible apply State.wwF_wf)
theorem State.endTurn_wf (s : State) (n : Nat) (hs : State.memWf s) : State.memWf (State.endTurn s n) := by
  unfold State.endTurn
  repeat' (first | with_reducible assumption | with_reducible apply State.request_wf | with_reducible apply foldl_wf | with_reducible apply foldl_wf2 | with_reducible apply foldl_wf1 | split | intro _)
theorem execPoolTurnEnd_wf (s : State) (hs : State.memWf s) : ∀ z, execPoolTurnEnd s = .next z → State.memWf z := by
  unfold execPoolTurnEnd
  intro z h; rw [next_eq _ _ h]
  repeat' (first | with_reducible assumption | with_reducible apply State.endTurn_wf | with_reducible apply State.passPool_wf | split)

end Sys2Proof.Machine
end

