-- ==== Sys2Proof/Laws/MemEvents.lean ====
section
/-! SUPPORT. Memory stays in its canonical form (State.memWf): one lemma for each of
every operation of the partitions, the margin, the outside, the Ranger and the plan. -/
namespace Sys2Proof.Machine

open Sys2Proof

theorem State.wrote_wf (s : State) (o : Nat) (hs : State.memWf s) : State.memWf (State.wrote s o) := by
  unfold State.wrote
  repeat' (first | with_reducible assumption | with_reducible apply State.lqRetry_wf | split)
theorem State.regWrite_wf (s : State) (o : Nat) (l : Level) (v : Word) (hs : State.memWf s) : State.memWf (State.regWrite s o l v) := by
  unfold State.regWrite
  repeat' (first | with_reducible assumption | with_reducible apply State.wrote_wf | with_reducible apply State.ww_wf | split)
theorem execRegisterWrite_wf (off : Nat) (lvl : Level) (v : Word) (s : State) (hs : State.memWf s) : ∀ z, execRegisterWrite off lvl v s = .next z → State.memWf z := by
  intro z h; cases h
  repeat' (first | with_reducible assumption | with_reducible apply State.regWrite_wf)
theorem execMemHotCtlWrite_wf (p : Nat) (v : Word) (s : State) (hs : State.memWf s) : ∀ z, execMemHotCtlWrite p v s = .next z → State.memWf z := by
  unfold execMemHotCtlWrite
  refine onItem_wf _ _ _ _ hs fun _ _ => ?_
  repeat' (first | with_reducible assumption | with_reducible apply State.newEpoch_wf | with_reducible apply State.wp_wf)
theorem execHotEpochEnd_wf (s : State) (hs : State.memWf s) : ∀ z, execHotEpochEnd s = .next z → State.memWf z := by
  unfold execHotEpochEnd
  refine onItem_wf _ _ _ _ hs fun _ _ => ?_
  dsimp only
  repeat' (first | with_reducible assumption | with_reducible apply State.newEpoch_wf | split)
theorem State.refusePart_wf (s : State) (p : Nat) (b : Bool) (hs : State.memWf s) : State.memWf (State.refusePart s p b) := by
  unfold State.refusePart
  repeat' (first | with_reducible assumption | with_reducible apply State.wwF_wf)
theorem execPartCtlWrite_wf (p : Nat) (v : Word) (s : State) (hs : State.memWf s) : ∀ z, execPartCtlWrite p v s = .next z → State.memWf z := by
  unfold execPartCtlWrite
  refine onItem_wf _ _ _ _ hs fun _ _ => ?_
  dsimp only
  repeat' (first | with_reducible assumption | with_reducible apply State.refusePart_wf | with_reducible apply State.ww_wf | split)
theorem execPartCoresWrite_wf (p : Nat) (m : Nat) (v : Word) (s : State) (hs : State.memWf s) : ∀ z, execPartCoresWrite p m v s = .next z → State.memWf z := by
  unfold execPartCoresWrite
  refine onItem_wf _ _ _ _ hs fun _ _ => ?_
  dsimp only
  repeat' (first | with_reducible assumption | with_reducible apply State.refusePart_wf | with_reducible apply State.ww_wf | split)
theorem execPoolCoresWrite_wf (m : Nat) (v : Word) (s : State) (hs : State.memWf s) : ∀ z, execPoolCoresWrite m v s = .next z → State.memWf z := by
  intro z h; cases h
  dsimp only
  repeat' (first | with_reducible assumption | with_reducible apply State.wwF_wf | with_reducible apply State.ww_wf | split)
theorem State.moveAway_wf (s : State) (c : Nat) (hs : State.memWf s) : State.memWf (State.moveAway s c) := by
  unfold State.moveAway
  repeat' (first | with_reducible assumption | with_reducible apply State.request_wf | with_reducible apply State.settleSaved_wf | split)
theorem State.quarantine_wf (s : State) (m : Nat) (v : Word) (hs : State.memWf s) : State.memWf (State.quarantine s m v) := by
  unfold State.quarantine
  repeat' (first | with_reducible assumption | with_reducible apply State.moveAway_wf | with_reducible apply State.ww_wf | with_reducible apply foldl_wf | with_reducible apply foldl_wf2 | with_reducible apply foldl_wf1 | split | intro _)
theorem execCoreQuarantineWrite_wf (m : Nat) (v : Word) (s : State) (hs : State.memWf s) : ∀ z, execCoreQuarantineWrite m v s = .next z → State.memWf z := by
  unfold execCoreQuarantineWrite
  refine onItem_wf _ _ _ _ hs fun _ _ => ?_
  repeat' (first | with_reducible assumption | with_reducible apply State.quarantine_wf)
theorem execPmqPostWrite_wf (p : Nat) (v : Word) (s : State) (hs : State.memWf s) : ∀ z, execPmqPostWrite p v s = .next z → State.memWf z := by
  unfold execPmqPostWrite
  refine onItem_wf _ _ _ _ hs fun _ _ => ?_
  repeat' (first | with_reducible assumption | with_reducible apply State.pmq_wf | split)
theorem execPmqSendWrite_wf (p : Nat) (v : Word) (s : State) (hs : State.memWf s) : ∀ z, execPmqSendWrite p v s = .next z → State.memWf z := by
  unfold execPmqSendWrite
  refine onItem_wf _ _ _ _ hs fun _ _ => ?_
  repeat' (first | with_reducible assumption | with_reducible apply State.pmq_wf | split)
theorem State.handedOver_wf (s : State) (hs : State.memWf s) : State.memWf (State.handedOver s) := by
  unfold State.handedOver; try dsimp only
  repeat' (first | with_reducible assumption | with_reducible apply State.agentAdd_wf | with_reducible apply State.agentFault_wf | with_reducible apply foldl_wf | with_reducible apply foldl_wf2 | with_reducible apply foldl_wf1 | split | intro _)
  all_goals grind [State.agentAdd_wf, State.agentFault_wf, foldl_wf, foldl_wf2, foldl_wf1, Sparse.wf_setBytes]
theorem State.wuBegin_wf (s : State) (n : Nat) (w : Word) (st : Nat) (hs : State.memWf s) : State.memWf (State.wuBegin s n w st) := by
  unfold State.wuBegin
  repeat' (first | with_reducible assumption | with_reducible apply State.freeTime_wf | with_reducible apply State.setWu_wf | split)
theorem State.wuSettle_wf (s : State) (n : Nat) (hs : State.memWf s) : State.memWf (State.wuSettle s n) := by
  unfold State.wuSettle
  repeat' (first | with_reducible assumption | with_reducible apply State.setWu_wf | split)
theorem execWuCtlWrite_wf (n : Nat) (v : Word) (s : State) (hs : State.memWf s) : ∀ z, execWuCtlWrite n v s = .next z → State.memWf z := by
  unfold execWuCtlWrite
  refine onItem_wf _ _ _ _ hs fun _ _ => ?_
  dsimp only
  repeat' (first | with_reducible assumption | with_reducible apply State.setWu_wf | with_reducible apply State.wuBegin_wf | with_reducible apply State.wuSettle_wf | split)
theorem execHandoverPassEnd_wf (s : State) (hs : State.memWf s) : ∀ z, execHandoverPassEnd s = .next z → State.memWf z := by
  unfold execHandoverPassEnd
  refine onItem_wf _ _ _ _ hs fun _ _ => ?_
  dsimp only
  repeat' (first | with_reducible assumption | with_reducible apply State.evict_wf | with_reducible apply State.freeTime_wf | with_reducible apply State.handedOver_wf | with_reducible apply State.writeBack_wf | with_reducible apply State.wuBegin_wf | with_reducible apply State.wuSettle_wf | with_reducible apply foldl_wf | with_reducible apply foldl_wf2 | with_reducible apply foldl_wf1 | split | intro _)
theorem State.wipeWay_wf (s : State) (n : Nat) (hs : State.memWf s) : State.memWf (State.wipeWay s n) := by
  unfold State.wipeWay
  assumption
theorem execWayScrubEnd_wf (s : State) (hs : State.memWf s) : ∀ z, execWayScrubEnd s = .next z → State.memWf z := by
  unfold execWayScrubEnd
  refine onItem_wf _ _ _ _ hs fun _ _ => ?_
  dsimp only
  repeat' (first | with_reducible assumption | with_reducible apply State.handedOver_wf | with_reducible apply State.wipeWay_wf | with_reducible apply State.wuSettle_wf | split)
theorem State.addScrub_wf (s : State) (b : Nat) (keep : Bool) (hs : State.memWf s) : State.memWf (State.addScrub s b keep) := by
  unfold State.addScrub
  repeat' (first | with_reducible assumption | with_reducible apply State.freeTime_wf | with_reducible apply foldl_wf | with_reducible apply foldl_wf2 | with_reducible apply foldl_wf1 | split | intro _)
theorem execBlkCtlWrite_wf (b : Nat) (v : Word) (s : State) (hs : State.memWf s) : ∀ z, execBlkCtlWrite b v s = .next z → State.memWf z := by
  unfold execBlkCtlWrite
  refine onItem_wf _ _ _ _ hs fun _ _ => ?_
  dsimp only
  repeat' (first | with_reducible assumption | with_reducible apply State.addScrub_wf | with_reducible apply State.pmqHw_wf | with_reducible apply State.wwF_wf | with_reducible apply State.ww_wf | split)
theorem State.wipeBlock_wf (s : State) (b : Nat) (hs : State.memWf s) : State.memWf (State.wipeBlock s b) := by
  unfold State.wipeBlock
  exact ⟨Sparse.wf_filter 0 _ _ hs.1, hs.2.sublist (List.filter_sublist.map _)⟩
theorem State.resetOver_wf (s : State) (p : Nat) (hs : State.memWf s) : State.memWf (State.resetOver s p) := by
  unfold State.resetOver
  repeat' (first | with_reducible assumption | with_reducible apply State.pmqHw_wf | with_reducible apply foldl_wf | with_reducible apply foldl_wf2 | with_reducible apply foldl_wf1 | split | intro _)
theorem execBlockScrubEnd_wf (s : State) (hs : State.memWf s) : ∀ z, execBlockScrubEnd s = .next z → State.memWf z := by
  unfold execBlockScrubEnd
  refine onItem_wf _ _ _ _ hs fun _ _ => ?_
  dsimp only
  repeat' (first | with_reducible assumption | with_reducible apply State.pmqHw_wf | with_reducible apply State.resetOver_wf | with_reducible apply State.wipeBlock_wf | with_reducible apply State.ww_wf | with_reducible apply foldl_wf | with_reducible apply foldl_wf2 | with_reducible apply foldl_wf1 | split | intro _)
theorem State.lostAt_wf (s : State) (ps : List Nat) (cx : Ctx) (clr : Bool) (a : Nat) (hs : State.memWf s) : State.memWf (State.lostAt s ps cx clr a).2 := by
  unfold State.lostAt; try dsimp only
  repeat' (first | with_reducible assumption | with_reducible apply State.route_wf | with_reducible apply foldl_wf | with_reducible apply foldl_wf2 | with_reducible apply foldl_wf1 | split | intro _)
  all_goals grind [State.route_wf, foldl_wf, foldl_wf2, foldl_wf1, Sparse.wf_setBytes]
theorem State.blindCmd_wf (s : State) (ps : List Nat) (cx : Ctx) (q : Cmd) (hs : State.memWf s) : State.memWf (State.blindCmd s ps cx q).1 := by
  unfold State.blindCmd; dsimp only
  repeat' (first | with_reducible assumption | with_reducible apply State.lostAt_wf | split)
theorem State.blindCore_wf (s : State) (ps : List Nat) (cx : Cmd → Ctx) (k : Core) (hs : State.memWf s) : State.memWf (State.blindCore s ps cx k).2 := by
  unfold State.blindCore; dsimp only
  repeat' (first | with_reducible assumption | with_reducible apply State.blindCmd_wf | with_reducible apply foldl_wf | with_reducible apply foldl_wf2 | with_reducible apply foldl_wf1 | split | intro _)
theorem State.blindPlaces_wf (s : State) (ps : List Nat) (l : Launch) (hs : State.memWf s) : State.memWf (State.blindPlaces s ps l) := by
  unfold State.blindPlaces
  repeat' (first | with_reducible assumption | with_reducible apply State.blindCore_wf | with_reducible apply State.modLaunch_wf | with_reducible apply foldl_wf | with_reducible apply foldl_wf2 | with_reducible apply foldl_wf1 | split | intro _)
theorem State.blindWords_wf (s : State) (ps : List Nat) (cx : Ctx) (ws : List Word) (i : Nat) (j : Nat) (hs : State.memWf s) : State.memWf (State.blindWords s ps cx ws i j).2 := by
  unfold State.blindWords
  repeat' (first | with_reducible assumption | with_reducible apply State.lostAt_wf | split)
theorem State.blind_wf (s : State) (ps : List Nat) (hs : State.memWf s) : State.memWf (State.blind s ps) := by
  unfold State.blind; dsimp only
  repeat' (first | with_reducible assumption | with_reducible apply State.blindCore_wf | with_reducible apply State.blindPlaces_wf | with_reducible apply State.blindWords_wf | with_reducible apply State.setColl_wf | with_reducible apply State.setCore_wf | with_reducible apply State.setRed_wf | with_reducible apply foldl_wf | with_reducible apply foldl_wf2 | with_reducible apply foldl_wf1 | split | intro _)
theorem State.endLaunches_wf (s : State) (p : Nat) (hs : State.memWf s) : State.memWf (State.endLaunches s p) := by
  unfold State.endLaunches
  repeat' (first | with_reducible assumption | with_reducible apply State.completionRecord_wf | with_reducible apply State.completionRing_wf | with_reducible apply State.release_wf | with_reducible apply foldl_wf | with_reducible apply foldl_wf2 | with_reducible apply foldl_wf1 | split | intro _)
theorem State.resetPage_wf (s : State) (p : Nat) (hs : State.memWf s) : State.memWf (State.resetPage s p) := by
  unfold State.resetPage
  assumption
theorem State.loseWays_wf (s : State) (ways : List Nat) (hs : State.memWf s) : State.memWf (State.loseWays s ways) :=
  ⟨hs.1, hs.2.sublist (List.filter_sublist.map _)⟩
theorem State.partWipe_wf (s : State) (p : Nat) (hs : State.memWf s) : State.memWf (State.partWipe s p) := by
  unfold State.partWipe
  repeat' (first | with_reducible assumption | with_reducible apply State.addScrub_wf | with_reducible apply State.endLaunches_wf | with_reducible apply State.loseWays_wf | with_reducible apply State.resetOver_wf | with_reducible apply State.resetPage_wf | with_reducible apply State.wipeWay_wf | with_reducible apply foldl_wf | with_reducible apply foldl_wf2 | with_reducible apply foldl_wf1 | split | intro _)
theorem State.settleResets_wf (s : State) (hs : State.memWf s) : State.memWf (State.settleResets s) := by
  unfold State.settleResets
  repeat' (first | with_reducible assumption | with_reducible apply State.partWipe_wf | with_reducible apply foldl_wf | with_reducible apply foldl_wf2 | with_reducible apply foldl_wf1 | split | intro _)
theorem State.partReset_wf (s : State) (p : Nat) (hs : State.memWf s) : State.memWf (State.partReset s p) := by
  unfold State.partReset
  repeat' (first | with_reducible assumption | with_reducible apply State.blind_wf | with_reducible apply State.killLaunch_wf | with_reducible apply State.settleResets_wf | with_reducible apply foldl_wf | with_reducible apply foldl_wf2 | with_reducible apply foldl_wf1 | split | intro _)
theorem execFunctionLevelReset_wf (s : State) (hs : State.memWf s) : ∀ z, execFunctionLevelReset s = .next z → State.memWf z := by
  unfold execFunctionLevelReset
  intro z h; rw [next_eq _ _ h]
  repeat' (first | with_reducible assumption | with_reducible apply State.partReset_wf | with_reducible apply State.resetCfg_wf | split)
theorem execMarginOfsWrite_wf (n : Nat) (v : Word) (s : State) (hs : State.memWf s) : ∀ z, execMarginOfsWrite n v s = .next z → State.memWf z := by
  unfold execMarginOfsWrite
  refine onItem_wf _ _ _ _ hs fun _ _ => ?_
  repeat' (first | with_reducible assumption | with_reducible apply State.freeTime_wf | with_reducible apply State.modCore_wf | with_reducible apply State.ww_wf)
theorem execMarginSettled_wf (s : State) (hs : State.memWf s) : ∀ z, execMarginSettled s = .next z → State.memWf z := by
  unfold execMarginSettled
  refine onCore_wf _ _ hs fun _ _ => ?_
  dsimp only
  repeat' (first | with_reducible assumption | with_reducible apply State.wwF_wf | split)
theorem execReplayCtlWrite_wf (n : Nat) (v : Word) (s : State) (hs : State.memWf s) : ∀ z, execReplayCtlWrite n v s = .next z → State.memWf z := by
  unfold execReplayCtlWrite
  refine onItem_wf _ _ _ _ hs fun _ _ => ?_
  repeat' (first | with_reducible assumption | with_reducible apply State.modCore_wf | with_reducible apply State.ww_wf)
theorem execReplayWindow_wf (s : State) (hs : State.memWf s) : ∀ z, execReplayWindow s = .next z → State.memWf z := by
  unfold execReplayWindow
  refine onCore_wf _ _ hs fun _ _ => ?_
  dsimp only
  repeat' (first | with_reducible assumption | with_reducible apply State.modCore_wf | split)
theorem State.loseCapture_wf (s : State) (c : Nat) (us : List ReplayUnit) (e : Op × ReplayUnit) (hs : State.memWf s) : State.memWf (State.loseCapture s c us e).2 := by
  unfold State.loseCapture
  repeat' (first | with_reducible assumption | with_reducible apply State.rel_wf | with_reducible apply State.setOp_wf | split)
theorem execLateTransition_wf (units : List ReplayUnit) (s : State) (hs : State.memWf s) : ∀ z, execLateTransition units s = .next z → State.memWf z := by
  unfold execLateTransition
  refine onCore_wf _ _ hs fun _ _ => ?_
  try dsimp only
  repeat' (first | with_reducible assumption | with_reducible apply State.loseCapture_wf | with_reducible apply State.modCore_wf | with_reducible apply foldl_wf | with_reducible apply foldl_wf2 | with_reducible apply foldl_wf1 | split | intro _)
  all_goals grind [State.loseCapture_wf, State.modCore_wf, foldl_wf, foldl_wf2, foldl_wf1, Sparse.wf_setBytes]
theorem State.announce_wf (s : State) (event : Nat) (data : List Byte) (hs : State.memWf s) : State.memWf (State.announce s event data) := by
  unfold State.announce
  repeat' (first | with_reducible assumption | split)
theorem execTimingEscalation_wf (s : State) (hs : State.memWf s) : ∀ z, execTimingEscalation s = .next z → State.memWf z := by
  unfold execTimingEscalation
  refine onCore_wf _ _ hs fun _ _ => ?_
  dsimp only
  repeat' (first | with_reducible assumption | with_reducible apply State.announce_wf | with_reducible apply State.modCore_wf | with_reducible apply State.rel_wf | split)
theorem execWatchdog_wf (s : State) (hs : State.memWf s) : ∀ z, execWatchdog s = .next z → State.memWf z := by
  unfold execWatchdog
  refine onCore_wf _ _ hs fun _ _ => ?_
  dsimp only
  repeat' (first | with_reducible assumption | with_reducible apply State.announce_wf | with_reducible apply State.modCore_wf | with_reducible apply State.rel_wf | split)
theorem State.missBeat_wf (s : State) (p : Nat) (ws : List Word) (hs : State.memWf s) : State.memWf (State.missBeat s p ws) := by
  exact State.announce_wf (s.rel none ws) 1 (wordBytes ws) (State.rel_wf s none ws hs)
theorem execHeartbeat_wf (s : State) (hs : State.memWf s) : ∀ z, execHeartbeat s = .next z → State.memWf z := by
  intro z h; unfold execHeartbeat at h
  have h := onItem_eq _ _ _ _ _ h
  rw [h]
  have ite_wf : ∀ (c : Prop) [Decidable c] (a b : State), State.memWf a → State.memWf b → State.memWf (if c then a else b) := by
    intro c _ a b ha hb; split <;> assumption
  exact ite_wf _ _ _ (State.missBeat_wf _ _ _ hs) hs
theorem execHbKickWrite_wf (s : State) (hs : State.memWf s) : ∀ z, execHbKickWrite s = .next z → State.memWf z := by
  unfold execHbKickWrite
  refine onItem_wf _ _ _ _ hs fun _ _ => ?_
  assumption
theorem execTraceSample_wf (s : State) (hs : State.memWf s) : ∀ z, execTraceSample s = .next z → State.memWf z := by
  unfold execTraceSample
  refine onCore_wf _ _ hs fun _ _ => ?_
  dsimp only
  repeat' (first | with_reducible assumption | with_reducible apply State.modCore_wf | with_reducible apply State.trace_wf | split)
theorem State.hashData_wf (s : State) (l : Launch) (k : Nat) (page : Nat) (hs : State.memWf s) : State.memWf (State.hashData s l k page).2 := by
  unfold State.hashData
  repeat' (first | with_reducible assumption | with_reducible apply State.agentRead_wf | split)
theorem State.hashEntry_wf (s : State) (l : Launch) (k : Nat) (page : Nat) (hs : State.memWf s) : State.memWf (State.hashEntry s l k page) := by
  unfold State.hashEntry; try dsimp only
  repeat' (first | with_reducible assumption | with_reducible apply State.agentAdd_wf | with_reducible apply State.agentFault_wf | with_reducible apply State.agentMet_wf | with_reducible apply State.hashData_wf | with_reducible apply State.logStore_wf | with_reducible apply foldl_wf | with_reducible apply foldl_wf2 | with_reducible apply foldl_wf1 | split | intro _)
  all_goals grind [State.agentAdd_wf, State.agentFault_wf, State.agentMet_wf, State.hashData_wf, State.logStore_wf, foldl_wf, foldl_wf2, foldl_wf1, Sparse.wf_setBytes]
theorem execPageHash_wf (s : State) (hs : State.memWf s) : ∀ z, execPageHash s = .next z → State.memWf z := by
  intro z h; cases h
  repeat' (first | with_reducible assumption | with_reducible apply State.dropLaunch_wf | with_reducible apply State.hashEntry_wf | with_reducible apply foldl_wf | with_reducible apply foldl_wf2 | with_reducible apply foldl_wf1 | split | intro _)
theorem State.hostAddr_wf (s : State) (p : Nat) (link : Nat) (gpa : Nat) (write : Bool) (hs : State.memWf s) : State.memWf (State.hostAddr s p link gpa write).2 := by
  unfold State.hostAddr; dsimp only
  repeat' (first | with_reducible assumption | with_reducible apply State.admits_wf | with_reducible apply State.walkedBy_wf | split)
theorem State.readSectors_wf (s : State) (r : Req) (at_ : State → Nat → Option (Nat × Nat × Bool) × State) (a : Nat) (n : Nat) (u : Upset) (hs : State.memWf s) (hat_ : ∀ (x0 : State) (x1 : Nat), State.memWf x0 → State.memWf (at_ x0 x1).2) : State.memWf (State.readSectors s r at_ a n u).2 := by
  refine foldl_wf2 _ _ _ hs fun p e hp => ?_
  have h := hat_ p.2 (a + e.1) hp
  dsimp only
  split
  · exact hp
  · split
    · rename_i heq; rw [heq] at h; exact h
    · rename_i pa ca ms t heq
      rw [heq] at h
      have h' := State.readMain_wf t r ca ms pa e.2 (!p.1.seen.contains (pa / 512)) (if e.1 = 0 then u else .none) h
      split <;> (rename_i heq'; rw [heq'] at h'; exact h')
theorem State.writeSectors_wf (s : State) (r : Req) (at_ : State → Nat → Option (Nat × Nat × Bool) × State) (a : Nat) (bs : List Byte) (u : Upset) (hs : State.memWf s) (hat_ : ∀ (x0 : State) (x1 : Nat), State.memWf x0 → State.memWf (at_ x0 x1).2) : State.memWf (State.writeSectors s r at_ a bs u).2 := by
  refine foldl_wf2 _ _ _ hs fun p e hp => ?_
  have h := hat_ p.2 (a + e.1) hp
  dsimp only
  split
  · exact hp
  · split
    · rename_i heq; rw [heq] at h; exact h
    · rename_i pa ca ms t heq
      rw [heq] at h
      exact State.writeMain_wf t r ca ms pa _ _ _ h
theorem State.hostBytes_wf (s : State) (p : Nat) (link : Nat) (gpa : Nat) (len : Nat) (u : Upset) (hs : State.memWf s) : State.memWf (State.hostBytes s p link gpa len u).2 :=
  State.readSectors_wf _ _ _ _ _ _ hs fun _ _ h => State.hostAddr_wf _ _ _ _ _ h
theorem State.hostStore_wf (s : State) (p : Nat) (link : Nat) (gpa : Nat) (bs : List Byte) (u : Upset) (hs : State.memWf s) : State.memWf (State.hostStore s p link gpa bs u) :=
  State.writeSectors_wf _ _ _ _ _ _ hs fun _ _ h => State.hostAddr_wf _ _ _ _ _ h
theorem execHostRead_wf (h : HostReq) (len : Nat) (s : State) (hs : State.memWf s) : ∀ z, execHostRead h len s = .next z → State.memWf z := by
  intro z h; unfold execHostRead at h
  have h := (onItem_eq _ _ _ _ _ h : z = _)
  subst h; try dsimp only
  repeat' (first | with_reducible assumption | with_reducible apply State.hostBytes_wf | with_reducible apply State.send_wf | with_reducible apply foldl_wf | with_reducible apply foldl_wf2 | with_reducible apply foldl_wf1 | split | intro _)
  all_goals grind [State.hostBytes_wf, State.send_wf, onItem_wf, foldl_wf, foldl_wf2, foldl_wf1, Sparse.wf_setBytes]
theorem execHostWrite_wf (h : HostReq) (data : List (BitVec 8)) (poison : Bool) (s : State) (hs : State.memWf s) : ∀ z, execHostWrite h data poison s = .next z → State.memWf z := by
  unfold execHostWrite
  refine onItem_wf _ _ _ _ hs fun _ _ => ?_
  try dsimp only
  repeat' (first | with_reducible assumption | with_reducible apply State.hostAddr_wf | with_reducible apply State.hostStore_wf | with_reducible apply State.memErr_wf | with_reducible apply foldl_wf | with_reducible apply foldl_wf2 | with_reducible apply foldl_wf1 | split | intro _)
  all_goals grind [State.hostAddr_wf, State.hostStore_wf, State.memErr_wf, foldl_wf, foldl_wf2, foldl_wf1, Sparse.wf_setBytes]
theorem execHostAtomicopReceived_wf (s : State) (hs : State.memWf s) : ∀ z, execHostAtomicopReceived s = .next z → State.memWf z := by
  unfold execHostAtomicopReceived
  refine onItem_wf _ _ _ _ hs fun _ _ => ?_
  repeat' (first | with_reducible assumption | with_reducible apply State.send_wf | split)
theorem State.settleInvs_wf (s : State) (hs : State.memWf s) : State.memWf (State.settleInvs s) := by
  unfold State.settleInvs
  assumption
theorem execAtsInvalidate_wf (j : Nat) (fn : Nat) (va : Nat) (len : Nat) (tag : Nat) (s : State) (hs : State.memWf s) : ∀ z, execAtsInvalidate j fn va len tag s = .next z → State.memWf z := by
  unfold execAtsInvalidate
  refine onItem_wf _ _ _ _ hs fun _ _ => ?_
  repeat' (first | with_reducible assumption | with_reducible apply State.settleInvs_wf | split)
theorem execPrgResponse_wf (j : Nat) (fn : Nat) (va : Nat) (ok : Bool) (s : State) (hs : State.memWf s) : ∀ z, execPrgResponse j fn va ok s = .next z → State.memWf z := by
  unfold execPrgResponse
  refine onItem_wf _ _ _ _ hs fun _ _ => ?_
  repeat' (first | with_reducible assumption | with_reducible apply State.log_wf | split)
theorem execPerst_wf (s : State) (hs : State.memWf s) : ∀ z, execPerst s = .next z → State.memWf z := by
  unfold execPerst
  refine onItem_wf _ _ _ _ hs fun _ _ => ?_
  repeat' (first | with_reducible assumption | split)
theorem execFlitReceived_wf (l : FlitLink) (crcOk : Bool) (s : State) (hs : State.memWf s) : ∀ z, execFlitReceived l crcOk s = .next z → State.memWf z := by
  unfold execFlitReceived
  refine onItem_wf _ _ _ _ hs fun _ _ => ?_
  repeat' (first | with_reducible assumption | with_reducible apply State.send_wf | split)
theorem State.farAnswer_wf (s : State) (f : FabricReq) (ok : Bool) (d : List Byte) (hs : State.memWf s) : State.memWf (State.farAnswer s f ok d) := by
  unfold State.farAnswer
  repeat' (first | with_reducible assumption | with_reducible apply State.send_wf)
theorem State.farAbort_wf (s : State) (f : FabricReq) (hs : State.memWf s) : State.memWf (State.farAbort s f) := by
  unfold State.farAbort
  repeat' (first | with_reducible assumption | with_reducible apply State.admits_wf | with_reducible apply State.farAnswer_wf | split)
theorem State.farCompare_wf (s : State) (w : FarWait) (hs : State.memWf s) : State.memWf (State.farCompare s w) := by
  unfold State.farCompare; dsimp only
  repeat' (first | with_reducible assumption | with_reducible apply State.correct_wf | with_reducible apply State.failRecord_wf | with_reducible apply State.send_wf | split)
theorem State.farModify_wf (s : State) (f : FabricReq) (u : Upset) (pa : Nat) (i : Instr) (n : Nat) (v : Word) (b : Word) (hs : State.memWf s) : State.memWf (State.farModify s f u pa i n v b) := by
  have put : ∀ (t : State) pa bs, State.memWf t → State.memWf ((t.putMain false pa bs).getD t) := fun t pa bs h => getD_wf _ _ h (State.putMain_wf _ _ _ _ h)
  unfold State.farModify
  split
  · grind [State.readMain_wf, State.farAnswer_wf]
  · rename_i old t ht
    have h0 : State.memWf t := by grind [State.readMain_wf]
    apply State.farAnswer_wf
    have h1 : ∀ r : Option Nat, State.memWf (match r with | some w => (t.putMain false pa (bytesLE n w)).getD t | none => t) := by
      intro r; split
      · exact put _ _ _ h0
      · exact h0
    repeat' split
    all_goals first | exact State.overrun_wf _ _ _ _ _ (h1 _) | exact h1 _ | grind [State.overrun_wf]
theorem execFabricRequest_wf (f : FabricReq) (u : Upset) (s : State) (hs : State.memWf s) : ∀ z, execFabricRequest f u s = .next z → State.memWf z := by
  unfold execFabricRequest
  refine onItem_wf _ _ _ _ hs fun _ _ => ?_
  try dsimp only
  repeat' (first | with_reducible assumption | with_reducible apply State.farAbort_wf | with_reducible apply State.farAnswer_wf | with_reducible apply State.farCompare_wf | with_reducible apply State.farModify_wf | with_reducible apply State.readMain_wf | with_reducible apply State.readSectors_wf | with_reducible apply State.writeSectors_wf | with_reducible apply foldl_wf | with_reducible apply foldl_wf2 | with_reducible apply foldl_wf1 | split | intro _)
  all_goals grind [State.farAbort_wf, State.farAnswer_wf, State.farCompare_wf, State.farModify_wf, State.readMain_wf, State.readSectors_wf, State.writeSectors_wf, foldl_wf, foldl_wf2, foldl_wf1, Sparse.wf_setBytes]
theorem State.setPort_wf (s : State) (k : Nat) (up : Bool) (hs : State.memWf s) : State.memWf (State.setPort s k up) := by
  unfold State.setPort
  repeat' (first | with_reducible assumption | with_reducible apply State.wwF_wf)
theorem State.chunkLost_wf (s : State) (k : Chunk) (hs : State.memWf s) : State.memWf (State.chunkLost s k) := by
  unfold State.chunkLost; dsimp only
  repeat' (first | with_reducible assumption | with_reducible apply State.complete_wf | split)
theorem execPortFailure_wf (s : State) (hs : State.memWf s) : ∀ z, execPortFailure s = .next z → State.memWf z := by
  unfold execPortFailure
  refine onItem_wf _ _ _ _ hs fun _ _ => ?_
  repeat' (first | with_reducible assumption | with_reducible apply State.chunkLost_wf | with_reducible apply State.collsLost_wf | with_reducible apply State.failOp_wf | with_reducible apply State.setPort_wf | with_reducible apply foldl_wf | with_reducible apply foldl_wf2 | with_reducible apply foldl_wf1 | split | intro _)
theorem execPortTrained_wf (s : State) (hs : State.memWf s) : ∀ z, execPortTrained s = .next z → State.memWf z := by
  unfold execPortTrained
  refine onItem_wf _ _ _ _ hs fun _ _ => ?_
  repeat' (first | with_reducible assumption | with_reducible apply State.setPort_wf | split)
theorem execRootlinkRegWrite_wf (off : Nat) (v : Word) (s : State) (hs : State.memWf s) : ∀ z, execRootlinkRegWrite off v s = .next z → State.memWf z := by
  intro z h; cases h
  repeat' (first | with_reducible assumption | with_reducible apply State.wwF_wf | with_reducible apply State.ww_wf | split)
theorem execTimeSetWrite_wf (v : Word) (s : State) (hs : State.memWf s) : ∀ z, execTimeSetWrite v s = .next z → State.memWf z := by
  intro z h; cases h
  assumption
theorem State.timeStat_wf (s : State) (locked : Bool) (o : Int) (hs : State.memWf s) : State.memWf (State.timeStat s locked o) := by
  unfold State.timeStat
  repeat' (first | with_reducible assumption | with_reducible apply State.ww_wf)
theorem State.measure_wf (s : State) (o : Int) (hs : State.memWf s) : State.memWf (State.measure s o) := by
  unfold State.measure; dsimp only
  repeat' (first | with_reducible assumption | with_reducible apply State.timeStat_wf | split)
theorem State.ptmStep_wf (s : State) (hs : State.memWf s) : State.memWf (State.ptmStep s) := by
  unfold State.ptmStep; dsimp only
  repeat' (first | with_reducible assumption | with_reducible apply State.send_wf | split)
theorem execPtmDialogue_wf (j : Nat) (offset : Int) (s : State) (hs : State.memWf s) : ∀ z, execPtmDialogue j offset s = .next z → State.memWf z := by
  unfold execPtmDialogue
  refine onItem_wf _ _ _ _ hs fun _ _ => ?_
  repeat' (first | with_reducible assumption | with_reducible apply State.measure_wf | split)
theorem execPpsEdge_wf (s : State) (hs : State.memWf s) : ∀ z, execPpsEdge s = .next z → State.memWf z := by
  intro z h; cases h
  repeat' (first | with_reducible assumption | with_reducible apply State.measure_wf | split)
theorem execHoldover_wf (s : State) (hs : State.memWf s) : ∀ z, execHoldover s = .next z → State.memWf z := by
  intro z h; cases h
  repeat' (first | with_reducible assumption | with_reducible apply State.wwF_wf | split)
theorem State.tickTime_wf (s : State) (hs : State.memWf s) : State.memWf (State.tickTime s) := by
  unfold State.tickTime
  repeat' (first | with_reducible assumption | split)
theorem State.blank_wf (s : State) (ds : List PwrDomain) (boot : Word) (hs : State.memWf s) : State.memWf (State.blank s ds boot) := by
  exact ⟨rfl, List.nodup_nil⟩
theorem State.deviceReset_wf (s : State) (ok : Bool) (hs : State.memWf s) : State.memWf (State.deviceReset s ok) := by
  unfold State.deviceReset
  repeat' (first | with_reducible assumption | with_reducible apply State.blank_wf | with_reducible apply State.freeTime_wf | split)
theorem State.booted_wf (s : State) (ok : Bool) (hs : State.memWf s) : State.memWf (State.booted s ok) := by
  unfold State.booted
  repeat' (first | with_reducible assumption | with_reducible apply State.announce_wf | with_reducible apply State.pmqHw_wf | with_reducible apply State.ww_wf | split)
theorem State.wipeDie_wf (s : State) (d : Nat) (hs : State.memWf s) : State.memWf (State.wipeDie s d) := by
  unfold State.wipeDie
  repeat' (first | with_reducible assumption | with_reducible apply State.evict_wf | with_reducible apply foldl_wf | with_reducible apply foldl_wf2 | with_reducible apply foldl_wf1 | split | intro _)
theorem State.settleBoot_wf (s : State) (hs : State.memWf s) : State.memWf (State.settleBoot s) := by
  unfold State.settleBoot; dsimp only
  repeat' (first | with_reducible assumption | with_reducible apply State.booted_wf | with_reducible apply State.deviceReset_wf | with_reducible apply State.wipeDie_wf | with_reducible apply foldl_wf | with_reducible apply foldl_wf2 | with_reducible apply foldl_wf1 | split | intro _)
theorem execResetN_wf (ok : Bool) (s : State) (hs : State.memWf s) : ∀ z, execResetN ok s = .next z → State.memWf z := by
  intro z h; cases h
  repeat' (first | with_reducible assumption | with_reducible apply State.deviceReset_wf | split)
theorem State.rangerLost_wf (s : State) (hs : State.memWf s) : State.memWf (State.rangerLost s) := by
  unfold State.rangerLost; dsimp only
  repeat' (first | with_reducible assumption | with_reducible apply State.blank_wf | split)
theorem State.powerInput_wf (s : State) (mv : Nat) (out : Bool) (hs : State.memWf s) : State.memWf (State.powerInput s mv out) := by
  unfold State.powerInput
  repeat' (first | with_reducible assumption | with_reducible apply State.announce_wf | split)
theorem State.inputLost_wf (s : State) (mv : Nat) (hs : State.memWf s) : State.memWf (State.inputLost s mv) := by
  unfold State.inputLost
  repeat' (first | with_reducible assumption | with_reducible apply State.blank_wf | with_reducible apply State.powerInput_wf | with_reducible apply State.rangerLost_wf | split)
theorem execPowerInputOutOfRange_wf (s : State) (hs : State.memWf s) : ∀ z, execPowerInputOutOfRange s = .next z → State.memWf z := by
  intro z h; cases h
  repeat' (first | with_reducible assumption | with_reducible apply State.inputLost_wf)
theorem execPwrgdFall_wf (s : State) (hs : State.memWf s) : ∀ z, execPwrgdFall s = .next z → State.memWf z := by
  unfold execPwrgdFall
  refine onItem_wf _ _ _ _ hs fun _ _ => ?_
  repeat' (first | with_reducible assumption | with_reducible apply State.inputLost_wf | split)
theorem execPowerInputRestored_wf (mv : Nat) (ok : Bool) (s : State) (hs : State.memWf s) : ∀ z, execPowerInputRestored mv ok s = .next z → State.memWf z := by
  unfold execPowerInputRestored
  intro z h; rw [next_eq _ _ h]
  repeat' (first | with_reducible assumption | with_reducible apply State.deviceReset_wf | with_reducible apply State.powerInput_wf | split)
theorem execThrotN_wf (low : Bool) (s : State) (hs : State.memWf s) : ∀ z, execThrotN low s = .next z → State.memWf z := by
  intro z h; cases h
  assumption
theorem execPowerMeasurement_wf (s : State) (hs : State.memWf s) : ∀ z, execPowerMeasurement s = .next z → State.memWf z := by
  unfold execPowerMeasurement
  intro z h; rw [next_eq _ _ h]
  repeat' (first | with_reducible assumption | with_reducible apply State.pick_wf | with_reducible apply State.tickFree_wf | split)
theorem execPwrMeasWrite_wf (v : Word) (s : State) (hs : State.memWf s) : ∀ z, execPwrMeasWrite v s = .next z → State.memWf z := by
  intro z h; cases h
  repeat' (first | with_reducible assumption | with_reducible apply State.ww_wf | split)
theorem execPwrMeasTimeout_wf (s : State) (hs : State.memWf s) : ∀ z, execPwrMeasTimeout s = .next z → State.memWf z := by
  intro z h; cases h
  repeat' (first | with_reducible assumption | split)
theorem State.countSwallowed_wf (s : State) (hs : State.memWf s) : State.memWf (State.countSwallowed s) := by
  unfold State.countSwallowed
  repeat' (first | with_reducible assumption | with_reducible apply State.ww_wf | split)
theorem State.stopCores_wf (s : State) (cores : List Nat) (hs : State.memWf s) : State.memWf (State.stopCores s cores) := by
  unfold State.stopCores
  repeat' (first | with_reducible assumption | with_reducible apply State.modCore_wf | with_reducible apply foldl_wf | with_reducible apply foldl_wf2 | with_reducible apply foldl_wf1 | split | intro _)
theorem State.killOn_wf (s : State) (cores : List Nat) (hs : State.memWf s) : State.memWf (State.killOn s cores) := by
  unfold State.killOn
  repeat' (first | with_reducible assumption | with_reducible apply State.killLaunch_wf | with_reducible apply foldl_wf | with_reducible apply foldl_wf2 | with_reducible apply foldl_wf1 | intro _)
theorem State.resetCore_wf (s : State) (c : Nat) (hs : State.memWf s) : State.memWf (State.resetCore s c) := by
  unfold State.resetCore
  repeat' (first | with_reducible assumption | with_reducible apply State.killOn_wf | with_reducible apply State.modCore_wf)
theorem State.act_wf (s : State) (code : Nat) (scope : Nat) (target : Nat) (arg : Nat) (ok : Bool) (hs : State.memWf s) : State.memWf (State.act s code scope target arg ok) := by
  unfold State.act
  repeat' (first | with_reducible assumption | with_reducible apply State.blind_wf | with_reducible apply State.killOn_wf | with_reducible apply State.partReset_wf | with_reducible apply State.quarantine_wf | with_reducible apply State.resetCore_wf | with_reducible apply State.settleBoot_wf | with_reducible apply State.stopCores_wf | with_reducible apply foldl_wf | with_reducible apply foldl_wf2 | with_reducible apply foldl_wf1 | split | intro _)
theorem State.tell_wf (s : State) (ep : Option Nat) (code : Nat) (tag : Nat) (scope : Nat) (target : Nat) (st : Nat) (data : List Byte) (hs : State.memWf s) : State.memWf (State.tell s ep code tag scope target st data) := by
  unfold State.tell
  repeat' (first | with_reducible assumption | with_reducible apply State.send_wf | with_reducible apply State.ww_wf | split)
theorem State.answer_wf (s : State) (ep : Option Nat) (code : Nat) (tag : Nat) (scope : Nat) (target : Nat) (st : Nat) (data : List Byte) (hs : State.memWf s) : State.memWf (State.answer s ep code tag scope target st data) := by
  unfold State.answer
  repeat' (first | with_reducible assumption | with_reducible apply State.tell_wf | split)
theorem State.finishJob_wf (s : State) (j : Job) (hs : State.memWf s) : State.memWf (State.finishJob s j) := by
  unfold State.finishJob
  repeat' (first | with_reducible assumption | with_reducible apply State.announce_wf | split)
theorem State.tellJob_wf (s : State) (j : Job) (hs : State.memWf s) : State.memWf (State.tellJob s j) := by
  unfold State.tellJob
  repeat' (first | with_reducible assumption | with_reducible apply State.tell_wf | split)
theorem State.settleJobs_wf (s : State) (hs : State.memWf s) : State.memWf (State.settleJobs s) := by
  unfold State.settleJobs
  repeat' (first | with_reducible assumption | with_reducible apply State.finishJob_wf | with_reducible apply State.tellJob_wf | with_reducible apply foldl_wf1 | with_reducible apply foldl_wf2 | with_reducible apply foldl_wf | intro _)
theorem State.begin__wf (s : State) (ep : Option Nat) (code : Nat) (tag : Nat) (scope : Nat) (target : Nat) (arg : Nat) (ok : Bool) (hs : State.memWf s) : State.memWf (State.begin_ s ep code tag scope target arg ok) := by
  unfold State.begin_; dsimp only
  repeat' (first | with_reducible assumption | with_reducible apply State.act_wf | with_reducible apply State.answer_wf | with_reducible apply State.settleJobs_wf | split)
theorem State.reply_wf (s : State) (r : RangerReq) (row : Nat) (st : Nat) (data : List Byte) (hs : State.memWf s) : State.memWf (State.reply s r row st data) := by
  unfold State.reply
  repeat' (first | with_reducible assumption | with_reducible apply State.answer_wf | split)
theorem State.request__wf (s : State) (r : RangerReq) (row : Nat) (len : Nat) (anyVendor : Bool) (go : State → State) (hs : State.memWf s) (hgo : ∀ (x0 : State), State.memWf x0 → State.memWf (go x0)) : State.memWf (State.request_ s r row len anyVendor go) := by
  unfold State.request_; try dsimp only
  repeat' (first | with_reducible assumption | with_reducible apply State.reply_wf | with_reducible apply foldl_wf | with_reducible apply foldl_wf2 | with_reducible apply foldl_wf1 | split | intro _)
  all_goals grind [State.reply_wf, foldl_wf, foldl_wf2, foldl_wf1, Sparse.wf_setBytes]
theorem State.acting_wf (s : State) (r : RangerReq) (row : Nat) (len : Nat) (hs : State.memWf s) : State.memWf (State.acting s r row len) := by
  unfold State.acting; dsimp only
  repeat' (first | with_reducible assumption | with_reducible apply State.begin__wf | with_reducible apply State.reply_wf | with_reducible apply State.request__wf | with_reducible apply foldl_wf | with_reducible apply foldl_wf2 | with_reducible apply foldl_wf1 | split | intro _)
theorem execGetId_wf (r : RangerReq) (s : State) (hs : State.memWf s) : ∀ z, execGetId r s = .next z → State.memWf z := by
  unfold execGetId
  intro z h; rw [next_eq _ _ h]
  repeat' (first | with_reducible assumption | with_reducible apply State.reply_wf | with_reducible apply State.request__wf | with_reducible apply foldl_wf | with_reducible apply foldl_wf2 | with_reducible apply foldl_wf1 | split | intro _)
theorem State.readLog_wf (s : State) (reg : Nat) (idx : Nat) (hs : State.memWf s) : State.memWf (State.readLog s reg idx).2 := by
  unfold State.readLog; try dsimp only
  repeat' (first | with_reducible assumption | with_reducible apply State.agentRead_wf | with_reducible apply foldl_wf | with_reducible apply foldl_wf2 | with_reducible apply foldl_wf1 | split | intro _)
  all_goals grind [State.agentRead_wf, foldl_wf, foldl_wf2, foldl_wf1, Sparse.wf_setBytes]
theorem State.readData_wf (s : State) (sel : Nat) (idx : Nat) (scope : Nat) (target : Nat) (hs : State.memWf s) : State.memWf (State.readData s sel idx scope target).2 := by
  unfold State.readData
  repeat' (first | with_reducible assumption | with_reducible apply State.readLog_wf | split)
theorem execRead_wf (r : RangerReq) (s : State) (hs : State.memWf s) : ∀ z, execRead r s = .next z → State.memWf z := by
  unfold execRead
  intro z h; rw [next_eq _ _ h]
  try dsimp only
  repeat' (first | with_reducible assumption | with_reducible apply State.readData_wf | with_reducible apply State.reply_wf | with_reducible apply State.request__wf | with_reducible apply State.tickFree_wf | with_reducible apply foldl_wf | with_reducible apply foldl_wf2 | with_reducible apply foldl_wf1 | split | intro _)
  all_goals grind [State.readData_wf, State.reply_wf, State.request__wf, State.tickFree_wf, foldl_wf, foldl_wf2, foldl_wf1, Sparse.wf_setBytes]
theorem execSubscribe_wf (r : RangerReq) (s : State) (hs : State.memWf s) : ∀ z, execSubscribe r s = .next z → State.memWf z := by
  unfold execSubscribe
  intro z h; rw [next_eq _ _ h]
  repeat' (first | with_reducible assumption | with_reducible apply State.reply_wf | with_reducible apply State.request__wf | with_reducible apply foldl_wf | with_reducible apply foldl_wf2 | with_reducible apply foldl_wf1 | split | intro _)
theorem execStop_wf (r : RangerReq) (s : State) (hs : State.memWf s) : ∀ z, execStop r s = .next z → State.memWf z := by
  intro z h; cases h
  repeat' (first | with_reducible assumption | with_reducible apply State.acting_wf)
theorem execSave_wf (r : RangerReq) (s : State) (hs : State.memWf s) : ∀ z, execSave r s = .next z → State.memWf z := by
  intro z h; cases h
  repeat' (first | with_reducible assumption | with_reducible apply State.acting_wf)
theorem execReset_wf (r : RangerReq) (s : State) (hs : State.memWf s) : ∀ z, execReset r s = .next z → State.memWf z := by
  intro z h; cases h
  repeat' (first | with_reducible assumption | with_reducible apply State.acting_wf)
theorem execQuarantine_wf (r : RangerReq) (s : State) (hs : State.memWf s) : ∀ z, execQuarantine r s = .next z → State.memWf z := by
  intro z h; cases h
  repeat' (first | with_reducible assumption | with_reducible apply State.acting_wf)
theorem execRangerAuthentication_wf (s : State) (hs : State.memWf s) : ∀ z, execRangerAuthentication s = .next z → State.memWf z := by
  intro z h; cases h
  repeat' (first | with_reducible assumption | split)
theorem execRangerSupplyLost_wf (s : State) (hs : State.memWf s) : ∀ z, execRangerSupplyLost s = .next z → State.memWf z := by
  unfold execRangerSupplyLost
  intro z h; rw [next_eq _ _ h]
  repeat' (first | with_reducible assumption | with_reducible apply State.rangerLost_wf | split)
theorem execAgentRegisterRead_wf (s : State) (hs : State.memWf s) : ∀ z, execAgentRegisterRead s = .next z → State.memWf z := by
  unfold execAgentRegisterRead
  refine onItem_wf _ _ _ _ hs fun _ _ => ?_
  dsimp only
  repeat' (first | with_reducible assumption | with_reducible apply State.send_wf | split)
theorem State.mgmtWrite_wf (s : State) (v : Word) (hs : State.memWf s) : State.memWf (State.mgmtWrite s v) := by
  unfold State.mgmtWrite; dsimp only
  repeat' (first | with_reducible assumption | with_reducible apply State.ww_wf | split)
theorem execAgentRegisterWrite_wf (die : Nat) (off : Nat) (v : Word) (s : State) (hs : State.memWf s) : ∀ z, execAgentRegisterWrite die off v s = .next z → State.memWf z := by
  unfold execAgentRegisterWrite
  refine onItem_wf _ _ _ _ hs fun _ _ => ?_
  repeat' (first | with_reducible assumption | with_reducible apply State.mgmtWrite_wf | split)
theorem State.mgmt_wf (s : State) (op : Nat) (code : Nat) (arg : Nat) (hs : State.memWf s) : State.memWf (State.mgmt s op code arg) := by
  unfold State.mgmt; dsimp only
  repeat' (first | with_reducible assumption | with_reducible apply State.begin__wf | split)
theorem execMgmtStop_wf (s : State) (hs : State.memWf s) : ∀ z, execMgmtStop s = .next z → State.memWf z := by
  intro z h; cases h
  repeat' (first | with_reducible assumption | with_reducible apply State.mgmt_wf)
theorem execMgmtSave_wf (s : State) (hs : State.memWf s) : ∀ z, execMgmtSave s = .next z → State.memWf z := by
  intro z h; cases h
  repeat' (first | with_reducible assumption | with_reducible apply State.mgmt_wf)
theorem execMgmtReset_wf (s : State) (hs : State.memWf s) : ∀ z, execMgmtReset s = .next z → State.memWf z := by
  intro z h; cases h
  repeat' (first | with_reducible assumption | with_reducible apply State.mgmt_wf)
theorem execMgmtQuarantineSet_wf (s : State) (hs : State.memWf s) : ∀ z, execMgmtQuarantineSet s = .next z → State.memWf z := by
  intro z h; cases h
  repeat' (first | with_reducible assumption | with_reducible apply State.mgmt_wf)
theorem execMgmtQuarantineClear_wf (s : State) (hs : State.memWf s) : ∀ z, execMgmtQuarantineClear s = .next z → State.memWf z := by
  intro z h; cases h
  repeat' (first | with_reducible assumption | with_reducible apply State.mgmt_wf)
theorem State.doe_wf (s : State) (inRecovery : Bool) (kind : Nat) (data : List Byte) (hs : State.memWf s) : State.memWf (State.doe s inRecovery kind data) := by
  unfold State.doe
  repeat' (first | with_reducible assumption | with_reducible apply State.send_wf | split)
theorem execGetVersion_wf (s : State) (hs : State.memWf s) : ∀ z, execGetVersion s = .next z → State.memWf z := by
  unfold execGetVersion
  refine onItem_wf _ _ _ _ hs fun _ _ => ?_
  repeat' (first | with_reducible assumption | with_reducible apply State.doe_wf)
theorem execGetCapabilities_wf (s : State) (hs : State.memWf s) : ∀ z, execGetCapabilities s = .next z → State.memWf z := by
  unfold execGetCapabilities
  refine onItem_wf _ _ _ _ hs fun _ _ => ?_
  repeat' (first | with_reducible assumption | with_reducible apply State.doe_wf)
theorem execNegotiateAlgorithms_wf (s : State) (hs : State.memWf s) : ∀ z, execNegotiateAlgorithms s = .next z → State.memWf z := by
  unfold execNegotiateAlgorithms
  refine onItem_wf _ _ _ _ hs fun _ _ => ?_
  repeat' (first | with_reducible assumption | with_reducible apply State.doe_wf)
theorem execGetDigests_wf (s : State) (hs : State.memWf s) : ∀ z, execGetDigests s = .next z → State.memWf z := by
  unfold execGetDigests
  refine onItem_wf _ _ _ _ hs fun _ _ => ?_
  repeat' (first | with_reducible assumption | with_reducible apply State.doe_wf)
theorem execGetCertificate_wf (s : State) (hs : State.memWf s) : ∀ z, execGetCertificate s = .next z → State.memWf z := by
  unfold execGetCertificate
  refine onItem_wf _ _ _ _ hs fun _ _ => ?_
  repeat' (first | with_reducible assumption | with_reducible apply State.doe_wf | split)
theorem execChallenge_wf (slot : Nat) (nonce : BitVec 256) (s : State) (hs : State.memWf s) : ∀ z, execChallenge slot nonce s = .next z → State.memWf z := by
  unfold execChallenge
  refine onItem_wf _ _ _ _ hs fun _ _ => ?_
  repeat' (first | with_reducible assumption | with_reducible apply State.doe_wf | split)
theorem execGetMeasurements_wf (s : State) (hs : State.memWf s) : ∀ z, execGetMeasurements s = .next z → State.memWf z := by
  unfold execGetMeasurements
  refine onItem_wf _ _ _ _ hs fun _ _ => ?_
  repeat' (first | with_reducible assumption | with_reducible apply State.doe_wf)
theorem State.performs_wf (s : State) (c : Nat) (o : Op) (f : Form) (hs : State.memWf s) : State.memWf (State.performs s c o f).2 := by
  unfold State.performs; dsimp only
  repeat' (first | with_reducible assumption | with_reducible apply State.arrivals_wf | split)
theorem State.opEvents_wf (s : State) (c : Nat) (o : Op) (hs : State.memWf s) : State.memWf (State.opEvents s c o).2 := by
  unfold State.opEvents
  repeat' (first | with_reducible assumption | with_reducible apply State.performs_wf | split)
theorem gather_wf {α : Type} (f : State → α → List Happening × State) (l : List α) (s : State) (hf : ∀ s a, State.memWf s → State.memWf (f s a).2) (hs : State.memWf s) : State.memWf (gather f l s).2 := by
  unfold gather; try dsimp only
  repeat' (first | with_reducible assumption | with_reducible apply foldl_wf | with_reducible apply foldl_wf2 | with_reducible apply foldl_wf1 | split | intro _)
  all_goals grind [foldl_wf, foldl_wf2, foldl_wf1, Sparse.wf_setBytes]
theorem State.coreAccesses_wf (s : State) (c : Nat) (hs : State.memWf s) : State.memWf (State.coreAccesses s c).2 := by
  unfold State.coreAccesses; try dsimp only
  repeat' (first | with_reducible assumption | with_reducible apply State.opEvents_wf | with_reducible apply gather_wf | with_reducible apply foldl_wf | with_reducible apply foldl_wf2 | with_reducible apply foldl_wf1 | split | intro _)
  all_goals grind [State.opEvents_wf, gather_wf, foldl_wf, foldl_wf2, foldl_wf1, Sparse.wf_setBytes]
theorem State.grantCopies_wf (s : State) (hs : State.memWf s) : State.memWf (State.grantCopies s) := by
  unfold State.grantCopies; try dsimp only
  all_goals grind [State.grantAt_wf, State.modCore_wf, foldl_wf, foldl_wf2, foldl_wf1, Sparse.wf_setBytes]
theorem State.fills_wf (s : State) (c : Nat) (hs : State.memWf s) : State.memWf (State.fills s c).2 := by
  unfold State.fills
  repeat' (first | with_reducible assumption | with_reducible apply State.coin_wf | split)
theorem State.saves_wf (s : State) (c : Nat) (hs : State.memWf s) : State.memWf (State.saves s c).2 := by
  unfold State.saves
  repeat' (first | with_reducible assumption | with_reducible apply State.coin_wf | split)
theorem State.coreTimers_wf (s : State) (c : Nat) (hs : State.memWf s) : State.memWf (State.coreTimers s c).2 := by
  unfold State.coreTimers
  repeat' (first | with_reducible assumption | with_reducible apply State.fills_wf | with_reducible apply State.saves_wf | split)
theorem State.farChecks_wf (s : State) (hs : State.memWf s) : State.memWf (State.farChecks s) := by
  unfold State.farChecks
  repeat' (first | with_reducible assumption | with_reducible apply State.farCompare_wf | with_reducible apply foldl_wf | with_reducible apply foldl_wf2 | with_reducible apply foldl_wf1 | split | intro _)
theorem State.planEvents_wf (s : State) (before : Word) (hs : State.memWf s) : State.memWf (State.planEvents s before).2 := by
  unfold State.planEvents
  repeat' (first | with_reducible assumption | with_reducible apply State.bundleIssue_wf | with_reducible apply State.coreAccesses_wf | with_reducible apply State.coreTimers_wf | with_reducible apply State.grantCopies_wf | with_reducible apply gather_wf | split)
theorem State.newCycle_wf (s : State) (hs : State.memWf s) : State.memWf (State.newCycle s) := by
  unfold State.newCycle; dsimp only
  repeat' (first | with_reducible assumption | with_reducible apply State.countSwallowed_wf | with_reducible apply State.farChecks_wf | with_reducible apply State.freeTiles_wf | with_reducible apply State.hotChecks_wf | with_reducible apply State.planEvents_wf | with_reducible apply State.ptmStep_wf | with_reducible apply State.scrubArrays_wf | with_reducible apply State.settleBoot_wf | with_reducible apply State.settleInvs_wf | with_reducible apply State.settleJobs_wf | with_reducible apply State.settleRemote_wf | with_reducible apply State.settleResets_wf | with_reducible apply State.tickTime_wf | with_reducible apply State.traceSteps_wf | split)
theorem State.at__wf (s : State) (u : Cur) (hs : State.memWf s) : State.memWf (State.at_ s u) := by
  unfold State.at_
  assumption
theorem State.placeBundle_wf (s : State) (bs : List Byte) (hs : State.memWf s) : State.memWf (State.placeBundle s bs) := by
  unfold State.placeBundle; try dsimp only
  repeat' (first | with_reducible assumption | with_reducible apply State.setCore_wf | with_reducible apply State.wwF_wf | with_reducible apply foldl_wf | with_reducible apply foldl_wf2 | with_reducible apply foldl_wf1 | split | intro _)
  all_goals grind [State.setCore_wf, State.wwF_wf, foldl_wf, foldl_wf2, foldl_wf1, Sparse.wf_setBytes]
theorem State.withFetchWord_wf (s : State) (nbits : Nat) (w : Nat) (hs : State.memWf s) : State.memWf (State.withFetchWord s nbits w) := by
  unfold State.withFetchWord
  repeat' (first | with_reducible assumption | with_reducible apply State.placeBundle_wf)
theorem nextInput_wf (s : State) (hs : State.memWf s) : ∀ y z, nextInput s = some (y, z) → State.memWf z := by
  unfold nextInput; try dsimp only
  repeat' (first | with_reducible assumption | with_reducible apply foldl_wf | with_reducible apply foldl_wf2 | with_reducible apply foldl_wf1 | split | intro _)
  all_goals grind [foldl_wf, foldl_wf2, foldl_wf1, Sparse.wf_setBytes]

end Sys2Proof.Machine
end

