-- ==== Sys2Proof/Laws/State.lean ====
section
/-! SUPPORT. What each update of the state and of a core reads as, field by field, and reads after writes of registers. -/
namespace Sys2Proof.Machine

open Sys2Proof

/-! ## State.setCore -/

@[simp] theorem State.setCore_cur (s : State) (c : Nat) (k : Core) : (s.setCore c k).cur = s.cur := rfl
@[simp] theorem State.setCore_turn (s : State) (c : Nat) (k : Core) : (s.setCore c k).turn = s.turn := rfl
@[simp] theorem State.setCore_inputs (s : State) (c : Nat) (k : Core) : (s.setCore c k).inputs = s.inputs := rfl
@[simp] theorem State.setCore_strikes (s : State) (c : Nat) (k : Core) : (s.setCore c k).strikes = s.strikes := rfl
@[simp] theorem State.setCore_freeCtr (s : State) (c : Nat) (k : Core) : (s.setCore c k).freeCtr = s.freeCtr := rfl
@[simp] theorem State.setCore_wall (s : State) (c : Nat) (k : Core) : (s.setCore c k).wall = s.wall := rfl
@[simp] theorem State.setCore_time (s : State) (c : Nat) (k : Core) : (s.setCore c k).time = s.time := rfl
@[simp] theorem State.setCore_frac (s : State) (c : Nat) (k : Core) : (s.setCore c k).frac = s.frac := rfl
@[simp] theorem State.setCore_memCap (s : State) (c : Nat) (k : Core) : (s.setCore c k).memCap = s.memCap := rfl
@[simp] theorem State.setCore_mem (s : State) (c : Nat) (k : Core) : (s.setCore c k).mem = s.mem := rfl
@[simp] theorem State.setCore_bad (s : State) (c : Nat) (k : Core) : (s.setCore c k).bad = s.bad := rfl
@[simp] theorem State.setCore_hot (s : State) (c : Nat) (k : Core) : (s.setCore c k).hot = s.hot := rfl
@[simp] theorem State.setCore_hotSeen (s : State) (c : Nat) (k : Core) : (s.setCore c k).hotSeen = s.hotSeen := rfl
@[simp] theorem State.setCore_atomCnt (s : State) (c : Nat) (k : Core) : (s.setCore c k).atomCnt = s.atomCnt := rfl
@[simp] theorem State.setCore_atomCand (s : State) (c : Nat) (k : Core) : (s.setCore c k).atomCand = s.atomCand := rfl
@[simp] theorem State.setCore_atomSeen (s : State) (c : Nat) (k : Core) : (s.setCore c k).atomSeen = s.atomSeen := rfl
@[simp] theorem State.setCore_l2 (s : State) (c : Nat) (k : Core) : (s.setCore c k).l2 = s.l2 := rfl
@[simp] theorem State.setCore_clr (s : State) (c : Nat) (k : Core) : (s.setCore c k).clr = s.clr := rfl
@[simp] theorem State.setCore_clrBad (s : State) (c : Nat) (k : Core) : (s.setCore c k).clrBad = s.clrBad := rfl
@[simp] theorem State.setCore_drainPass (s : State) (c : Nat) (k : Core) : (s.setCore c k).drainPass = s.drainPass := rfl
@[simp] theorem State.setCore_wuDue (s : State) (c : Nat) (k : Core) : (s.setCore c k).wuDue = s.wuDue := rfl
@[simp] theorem State.setCore_wuNext (s : State) (c : Nat) (k : Core) : (s.setCore c k).wuNext = s.wuNext := rfl
@[simp] theorem State.setCore_win (s : State) (c : Nat) (k : Core) : (s.setCore c k).win = s.win := rfl
@[simp] theorem State.setCore_psr (s : State) (c : Nat) (k : Core) : (s.setCore c k).psr = s.psr := rfl
@[simp] theorem State.setCore_tlb (s : State) (c : Nat) (k : Core) : (s.setCore c k).tlb = s.tlb := rfl
@[simp] theorem State.setCore_walks (s : State) (c : Nat) (k : Core) : (s.setCore c k).walks = s.walks := rfl
@[simp] theorem State.setCore_ats (s : State) (c : Nat) (k : Core) : (s.setCore c k).ats = s.ats := rfl
@[simp] theorem State.setCore_refused (s : State) (c : Nat) (k : Core) : (s.setCore c k).refused = s.refused := rfl
@[simp] theorem State.setCore_launches (s : State) (c : Nat) (k : Core) : (s.setCore c k).launches = s.launches := rfl
@[simp] theorem State.setCore_nextKey (s : State) (c : Nat) (k : Core) : (s.setCore c k).nextKey = s.nextKey := rfl
@[simp] theorem State.setCore_lqFault (s : State) (c : Nat) (k : Core) : (s.setCore c k).lqFault = s.lqFault := rfl
@[simp] theorem State.setCore_lqLevel (s : State) (c : Nat) (k : Core) : (s.setCore c k).lqLevel = s.lqLevel := rfl
@[simp] theorem State.setCore_logCount (s : State) (c : Nat) (k : Core) : (s.setCore c k).logCount = s.logCount := rfl
@[simp] theorem State.setCore_cqCount (s : State) (c : Nat) (k : Core) : (s.setCore c k).cqCount = s.cqCount := rfl
@[simp] theorem State.setCore_poolStart (s : State) (c : Nat) (k : Core) : (s.setCore c k).poolStart = s.poolStart := rfl
@[simp] theorem State.setCore_poolNext (s : State) (c : Nat) (k : Core) : (s.setCore c k).poolNext = s.poolNext := rfl
@[simp] theorem State.setCore_hotStart (s : State) (c : Nat) (k : Core) : (s.setCore c k).hotStart = s.hotStart := rfl
@[simp] theorem State.setCore_hbStart (s : State) (c : Nat) (k : Core) : (s.setCore c k).hbStart = s.hbStart := rfl
@[simp] theorem State.setCore_reds (s : State) (c : Nat) (k : Core) : (s.setCore c k).reds = s.reds := rfl
@[simp] theorem State.setCore_colls (s : State) (c : Nat) (k : Core) : (s.setCore c k).colls = s.colls := rfl
@[simp] theorem State.setCore_chunks (s : State) (c : Nat) (k : Core) : (s.setCore c k).chunks = s.chunks := rfl
@[simp] theorem State.setCore_scrubs (s : State) (c : Nat) (k : Core) : (s.setCore c k).scrubs = s.scrubs := rfl
@[simp] theorem State.setCore_level (s : State) (c : Nat) (k : Core) : (s.setCore c k).level = s.level := rfl
@[simp] theorem State.setCore_throtLow (s : State) (c : Nat) (k : Core) : (s.setCore c k).throtLow = s.throtLow := rfl
@[simp] theorem State.setCore_lastMeas (s : State) (c : Nat) (k : Core) : (s.setCore c k).lastMeas = s.lastMeas := rfl
@[simp] theorem State.setCore_measDue (s : State) (c : Nat) (k : Core) : (s.setCore c k).measDue = s.measDue := rfl
@[simp] theorem State.setCore_floors (s : State) (c : Nat) (k : Core) : (s.setCore c k).floors = s.floors := rfl
@[simp] theorem State.setCore_powered (s : State) (c : Nat) (k : Core) : (s.setCore c k).powered = s.powered := rfl
@[simp] theorem State.setCore_perst (s : State) (c : Nat) (k : Core) : (s.setCore c k).perst = s.perst := rfl
@[simp] theorem State.setCore_evicted (s : State) (c : Nat) (k : Core) : (s.setCore c k).evicted = s.evicted := rfl
@[simp] theorem State.setCore_merged (s : State) (c : Nat) (k : Core) : (s.setCore c k).merged = s.merged := rfl
@[simp] theorem State.setCore_domains (s : State) (c : Nat) (k : Core) : (s.setCore c k).domains = s.domains := rfl
@[simp] theorem State.setCore_boot (s : State) (c : Nat) (k : Core) : (s.setCore c k).boot = s.boot := rfl
@[simp] theorem State.setCore_resetNext (s : State) (c : Nat) (k : Core) : (s.setCore c k).resetNext = s.resetNext := rfl
@[simp] theorem State.setCore_dieNext (s : State) (c : Nat) (k : Core) : (s.setCore c k).dieNext = s.dieNext := rfl
@[simp] theorem State.setCore_rangerLog (s : State) (c : Nat) (k : Core) : (s.setCore c k).rangerLog = s.rangerLog := rfl
@[simp] theorem State.setCore_cfg (s : State) (c : Nat) (k : Core) : (s.setCore c k).cfg = s.cfg := rfl
@[simp] theorem State.setCore_msix (s : State) (c : Nat) (k : Core) : (s.setCore c k).msix = s.msix := rfl
@[simp] theorem State.setCore_ptmDue (s : State) (c : Nat) (k : Core) : (s.setCore c k).ptmDue = s.ptmDue := rfl
@[simp] theorem State.setCore_fnKill (s : State) (c : Nat) (k : Core) : (s.setCore c k).fnKill = s.fnKill := rfl
@[simp] theorem State.setCore_auth (s : State) (c : Nat) (k : Core) : (s.setCore c k).auth = s.auth := rfl
@[simp] theorem State.setCore_subs (s : State) (c : Nat) (k : Core) : (s.setCore c k).subs = s.subs := rfl
@[simp] theorem State.setCore_slew (s : State) (c : Nat) (k : Core) : (s.setCore c k).slew = s.slew := rfl
@[simp] theorem State.setCore_timeMeas (s : State) (c : Nat) (k : Core) : (s.setCore c k).timeMeas = s.timeMeas := rfl
@[simp] theorem State.setCore_fnReset (s : State) (c : Nat) (k : Core) : (s.setCore c k).fnReset = s.fnReset := rfl
@[simp] theorem State.setCore_jobs (s : State) (c : Nat) (k : Core) : (s.setCore c k).jobs = s.jobs := rfl
@[simp] theorem State.setCore_farWaits (s : State) (c : Nat) (k : Core) : (s.setCore c k).farWaits = s.farWaits := rfl
@[simp] theorem State.setCore_invs (s : State) (c : Nat) (k : Core) : (s.setCore c k).invs = s.invs := rfl
@[simp] theorem State.setCore_alertAt (s : State) (c : Nat) (k : Core) : (s.setCore c k).alertAt = s.alertAt := rfl
@[simp] theorem State.setCore_pwrMeasAt (s : State) (c : Nat) (k : Core) : (s.setCore c k).pwrMeasAt = s.pwrMeasAt := rfl
@[simp] theorem State.setCore_jx9p (s : State) (c : Nat) (k : Core) : (s.setCore c k).jx9p = s.jx9p := rfl
@[simp] theorem State.setCore_out (s : State) (c : Nat) (k : Core) : (s.setCore c k).out = s.out := rfl

/-! ## State.modCore -/

@[simp] theorem State.modCore_cur (s : State) (c : Nat) (f : Core → Core) : (s.modCore c f).cur = s.cur := rfl
@[simp] theorem State.modCore_turn (s : State) (c : Nat) (f : Core → Core) : (s.modCore c f).turn = s.turn := rfl
@[simp] theorem State.modCore_inputs (s : State) (c : Nat) (f : Core → Core) : (s.modCore c f).inputs = s.inputs := rfl
@[simp] theorem State.modCore_strikes (s : State) (c : Nat) (f : Core → Core) : (s.modCore c f).strikes = s.strikes := rfl
@[simp] theorem State.modCore_freeCtr (s : State) (c : Nat) (f : Core → Core) : (s.modCore c f).freeCtr = s.freeCtr := rfl
@[simp] theorem State.modCore_wall (s : State) (c : Nat) (f : Core → Core) : (s.modCore c f).wall = s.wall := rfl
@[simp] theorem State.modCore_time (s : State) (c : Nat) (f : Core → Core) : (s.modCore c f).time = s.time := rfl
@[simp] theorem State.modCore_frac (s : State) (c : Nat) (f : Core → Core) : (s.modCore c f).frac = s.frac := rfl
@[simp] theorem State.modCore_memCap (s : State) (c : Nat) (f : Core → Core) : (s.modCore c f).memCap = s.memCap := rfl
@[simp] theorem State.modCore_mem (s : State) (c : Nat) (f : Core → Core) : (s.modCore c f).mem = s.mem := rfl
@[simp] theorem State.modCore_bad (s : State) (c : Nat) (f : Core → Core) : (s.modCore c f).bad = s.bad := rfl
@[simp] theorem State.modCore_hot (s : State) (c : Nat) (f : Core → Core) : (s.modCore c f).hot = s.hot := rfl
@[simp] theorem State.modCore_hotSeen (s : State) (c : Nat) (f : Core → Core) : (s.modCore c f).hotSeen = s.hotSeen := rfl
@[simp] theorem State.modCore_atomCnt (s : State) (c : Nat) (f : Core → Core) : (s.modCore c f).atomCnt = s.atomCnt := rfl
@[simp] theorem State.modCore_atomCand (s : State) (c : Nat) (f : Core → Core) : (s.modCore c f).atomCand = s.atomCand := rfl
@[simp] theorem State.modCore_atomSeen (s : State) (c : Nat) (f : Core → Core) : (s.modCore c f).atomSeen = s.atomSeen := rfl
@[simp] theorem State.modCore_l2 (s : State) (c : Nat) (f : Core → Core) : (s.modCore c f).l2 = s.l2 := rfl
@[simp] theorem State.modCore_clr (s : State) (c : Nat) (f : Core → Core) : (s.modCore c f).clr = s.clr := rfl
@[simp] theorem State.modCore_clrBad (s : State) (c : Nat) (f : Core → Core) : (s.modCore c f).clrBad = s.clrBad := rfl
@[simp] theorem State.modCore_drainPass (s : State) (c : Nat) (f : Core → Core) : (s.modCore c f).drainPass = s.drainPass := rfl
@[simp] theorem State.modCore_wuDue (s : State) (c : Nat) (f : Core → Core) : (s.modCore c f).wuDue = s.wuDue := rfl
@[simp] theorem State.modCore_wuNext (s : State) (c : Nat) (f : Core → Core) : (s.modCore c f).wuNext = s.wuNext := rfl
@[simp] theorem State.modCore_win (s : State) (c : Nat) (f : Core → Core) : (s.modCore c f).win = s.win := rfl
@[simp] theorem State.modCore_psr (s : State) (c : Nat) (f : Core → Core) : (s.modCore c f).psr = s.psr := rfl
@[simp] theorem State.modCore_tlb (s : State) (c : Nat) (f : Core → Core) : (s.modCore c f).tlb = s.tlb := rfl
@[simp] theorem State.modCore_walks (s : State) (c : Nat) (f : Core → Core) : (s.modCore c f).walks = s.walks := rfl
@[simp] theorem State.modCore_ats (s : State) (c : Nat) (f : Core → Core) : (s.modCore c f).ats = s.ats := rfl
@[simp] theorem State.modCore_refused (s : State) (c : Nat) (f : Core → Core) : (s.modCore c f).refused = s.refused := rfl
@[simp] theorem State.modCore_launches (s : State) (c : Nat) (f : Core → Core) : (s.modCore c f).launches = s.launches := rfl
@[simp] theorem State.modCore_nextKey (s : State) (c : Nat) (f : Core → Core) : (s.modCore c f).nextKey = s.nextKey := rfl
@[simp] theorem State.modCore_lqFault (s : State) (c : Nat) (f : Core → Core) : (s.modCore c f).lqFault = s.lqFault := rfl
@[simp] theorem State.modCore_lqLevel (s : State) (c : Nat) (f : Core → Core) : (s.modCore c f).lqLevel = s.lqLevel := rfl
@[simp] theorem State.modCore_logCount (s : State) (c : Nat) (f : Core → Core) : (s.modCore c f).logCount = s.logCount := rfl
@[simp] theorem State.modCore_cqCount (s : State) (c : Nat) (f : Core → Core) : (s.modCore c f).cqCount = s.cqCount := rfl
@[simp] theorem State.modCore_poolStart (s : State) (c : Nat) (f : Core → Core) : (s.modCore c f).poolStart = s.poolStart := rfl
@[simp] theorem State.modCore_poolNext (s : State) (c : Nat) (f : Core → Core) : (s.modCore c f).poolNext = s.poolNext := rfl
@[simp] theorem State.modCore_hotStart (s : State) (c : Nat) (f : Core → Core) : (s.modCore c f).hotStart = s.hotStart := rfl
@[simp] theorem State.modCore_hbStart (s : State) (c : Nat) (f : Core → Core) : (s.modCore c f).hbStart = s.hbStart := rfl
@[simp] theorem State.modCore_reds (s : State) (c : Nat) (f : Core → Core) : (s.modCore c f).reds = s.reds := rfl
@[simp] theorem State.modCore_colls (s : State) (c : Nat) (f : Core → Core) : (s.modCore c f).colls = s.colls := rfl
@[simp] theorem State.modCore_chunks (s : State) (c : Nat) (f : Core → Core) : (s.modCore c f).chunks = s.chunks := rfl
@[simp] theorem State.modCore_scrubs (s : State) (c : Nat) (f : Core → Core) : (s.modCore c f).scrubs = s.scrubs := rfl
@[simp] theorem State.modCore_level (s : State) (c : Nat) (f : Core → Core) : (s.modCore c f).level = s.level := rfl
@[simp] theorem State.modCore_throtLow (s : State) (c : Nat) (f : Core → Core) : (s.modCore c f).throtLow = s.throtLow := rfl
@[simp] theorem State.modCore_lastMeas (s : State) (c : Nat) (f : Core → Core) : (s.modCore c f).lastMeas = s.lastMeas := rfl
@[simp] theorem State.modCore_measDue (s : State) (c : Nat) (f : Core → Core) : (s.modCore c f).measDue = s.measDue := rfl
@[simp] theorem State.modCore_floors (s : State) (c : Nat) (f : Core → Core) : (s.modCore c f).floors = s.floors := rfl
@[simp] theorem State.modCore_powered (s : State) (c : Nat) (f : Core → Core) : (s.modCore c f).powered = s.powered := rfl
@[simp] theorem State.modCore_perst (s : State) (c : Nat) (f : Core → Core) : (s.modCore c f).perst = s.perst := rfl
@[simp] theorem State.modCore_evicted (s : State) (c : Nat) (f : Core → Core) : (s.modCore c f).evicted = s.evicted := rfl
@[simp] theorem State.modCore_merged (s : State) (c : Nat) (f : Core → Core) : (s.modCore c f).merged = s.merged := rfl
@[simp] theorem State.modCore_domains (s : State) (c : Nat) (f : Core → Core) : (s.modCore c f).domains = s.domains := rfl
@[simp] theorem State.modCore_boot (s : State) (c : Nat) (f : Core → Core) : (s.modCore c f).boot = s.boot := rfl
@[simp] theorem State.modCore_resetNext (s : State) (c : Nat) (f : Core → Core) : (s.modCore c f).resetNext = s.resetNext := rfl
@[simp] theorem State.modCore_dieNext (s : State) (c : Nat) (f : Core → Core) : (s.modCore c f).dieNext = s.dieNext := rfl
@[simp] theorem State.modCore_rangerLog (s : State) (c : Nat) (f : Core → Core) : (s.modCore c f).rangerLog = s.rangerLog := rfl
@[simp] theorem State.modCore_cfg (s : State) (c : Nat) (f : Core → Core) : (s.modCore c f).cfg = s.cfg := rfl
@[simp] theorem State.modCore_msix (s : State) (c : Nat) (f : Core → Core) : (s.modCore c f).msix = s.msix := rfl
@[simp] theorem State.modCore_ptmDue (s : State) (c : Nat) (f : Core → Core) : (s.modCore c f).ptmDue = s.ptmDue := rfl
@[simp] theorem State.modCore_fnKill (s : State) (c : Nat) (f : Core → Core) : (s.modCore c f).fnKill = s.fnKill := rfl
@[simp] theorem State.modCore_auth (s : State) (c : Nat) (f : Core → Core) : (s.modCore c f).auth = s.auth := rfl
@[simp] theorem State.modCore_subs (s : State) (c : Nat) (f : Core → Core) : (s.modCore c f).subs = s.subs := rfl
@[simp] theorem State.modCore_slew (s : State) (c : Nat) (f : Core → Core) : (s.modCore c f).slew = s.slew := rfl
@[simp] theorem State.modCore_timeMeas (s : State) (c : Nat) (f : Core → Core) : (s.modCore c f).timeMeas = s.timeMeas := rfl
@[simp] theorem State.modCore_fnReset (s : State) (c : Nat) (f : Core → Core) : (s.modCore c f).fnReset = s.fnReset := rfl
@[simp] theorem State.modCore_jobs (s : State) (c : Nat) (f : Core → Core) : (s.modCore c f).jobs = s.jobs := rfl
@[simp] theorem State.modCore_farWaits (s : State) (c : Nat) (f : Core → Core) : (s.modCore c f).farWaits = s.farWaits := rfl
@[simp] theorem State.modCore_invs (s : State) (c : Nat) (f : Core → Core) : (s.modCore c f).invs = s.invs := rfl
@[simp] theorem State.modCore_alertAt (s : State) (c : Nat) (f : Core → Core) : (s.modCore c f).alertAt = s.alertAt := rfl
@[simp] theorem State.modCore_pwrMeasAt (s : State) (c : Nat) (f : Core → Core) : (s.modCore c f).pwrMeasAt = s.pwrMeasAt := rfl
@[simp] theorem State.modCore_jx9p (s : State) (c : Nat) (f : Core → Core) : (s.modCore c f).jx9p = s.jx9p := rfl
@[simp] theorem State.modCore_out (s : State) (c : Nat) (f : Core → Core) : (s.modCore c f).out = s.out := rfl

/-! ## State.modMe -/

@[simp] theorem State.modMe_cur (s : State) (f : Core → Core) : (s.modMe f).cur = s.cur := rfl
@[simp] theorem State.modMe_turn (s : State) (f : Core → Core) : (s.modMe f).turn = s.turn := rfl
@[simp] theorem State.modMe_inputs (s : State) (f : Core → Core) : (s.modMe f).inputs = s.inputs := rfl
@[simp] theorem State.modMe_strikes (s : State) (f : Core → Core) : (s.modMe f).strikes = s.strikes := rfl
@[simp] theorem State.modMe_freeCtr (s : State) (f : Core → Core) : (s.modMe f).freeCtr = s.freeCtr := rfl
@[simp] theorem State.modMe_wall (s : State) (f : Core → Core) : (s.modMe f).wall = s.wall := rfl
@[simp] theorem State.modMe_time (s : State) (f : Core → Core) : (s.modMe f).time = s.time := rfl
@[simp] theorem State.modMe_frac (s : State) (f : Core → Core) : (s.modMe f).frac = s.frac := rfl
@[simp] theorem State.modMe_memCap (s : State) (f : Core → Core) : (s.modMe f).memCap = s.memCap := rfl
@[simp] theorem State.modMe_mem (s : State) (f : Core → Core) : (s.modMe f).mem = s.mem := rfl
@[simp] theorem State.modMe_bad (s : State) (f : Core → Core) : (s.modMe f).bad = s.bad := rfl
@[simp] theorem State.modMe_hot (s : State) (f : Core → Core) : (s.modMe f).hot = s.hot := rfl
@[simp] theorem State.modMe_hotSeen (s : State) (f : Core → Core) : (s.modMe f).hotSeen = s.hotSeen := rfl
@[simp] theorem State.modMe_atomCnt (s : State) (f : Core → Core) : (s.modMe f).atomCnt = s.atomCnt := rfl
@[simp] theorem State.modMe_atomCand (s : State) (f : Core → Core) : (s.modMe f).atomCand = s.atomCand := rfl
@[simp] theorem State.modMe_atomSeen (s : State) (f : Core → Core) : (s.modMe f).atomSeen = s.atomSeen := rfl
@[simp] theorem State.modMe_l2 (s : State) (f : Core → Core) : (s.modMe f).l2 = s.l2 := rfl
@[simp] theorem State.modMe_clr (s : State) (f : Core → Core) : (s.modMe f).clr = s.clr := rfl
@[simp] theorem State.modMe_clrBad (s : State) (f : Core → Core) : (s.modMe f).clrBad = s.clrBad := rfl
@[simp] theorem State.modMe_drainPass (s : State) (f : Core → Core) : (s.modMe f).drainPass = s.drainPass := rfl
@[simp] theorem State.modMe_wuDue (s : State) (f : Core → Core) : (s.modMe f).wuDue = s.wuDue := rfl
@[simp] theorem State.modMe_wuNext (s : State) (f : Core → Core) : (s.modMe f).wuNext = s.wuNext := rfl
@[simp] theorem State.modMe_win (s : State) (f : Core → Core) : (s.modMe f).win = s.win := rfl
@[simp] theorem State.modMe_psr (s : State) (f : Core → Core) : (s.modMe f).psr = s.psr := rfl
@[simp] theorem State.modMe_tlb (s : State) (f : Core → Core) : (s.modMe f).tlb = s.tlb := rfl
@[simp] theorem State.modMe_walks (s : State) (f : Core → Core) : (s.modMe f).walks = s.walks := rfl
@[simp] theorem State.modMe_ats (s : State) (f : Core → Core) : (s.modMe f).ats = s.ats := rfl
@[simp] theorem State.modMe_refused (s : State) (f : Core → Core) : (s.modMe f).refused = s.refused := rfl
@[simp] theorem State.modMe_launches (s : State) (f : Core → Core) : (s.modMe f).launches = s.launches := rfl
@[simp] theorem State.modMe_nextKey (s : State) (f : Core → Core) : (s.modMe f).nextKey = s.nextKey := rfl
@[simp] theorem State.modMe_lqFault (s : State) (f : Core → Core) : (s.modMe f).lqFault = s.lqFault := rfl
@[simp] theorem State.modMe_lqLevel (s : State) (f : Core → Core) : (s.modMe f).lqLevel = s.lqLevel := rfl
@[simp] theorem State.modMe_logCount (s : State) (f : Core → Core) : (s.modMe f).logCount = s.logCount := rfl
@[simp] theorem State.modMe_cqCount (s : State) (f : Core → Core) : (s.modMe f).cqCount = s.cqCount := rfl
@[simp] theorem State.modMe_poolStart (s : State) (f : Core → Core) : (s.modMe f).poolStart = s.poolStart := rfl
@[simp] theorem State.modMe_poolNext (s : State) (f : Core → Core) : (s.modMe f).poolNext = s.poolNext := rfl
@[simp] theorem State.modMe_hotStart (s : State) (f : Core → Core) : (s.modMe f).hotStart = s.hotStart := rfl
@[simp] theorem State.modMe_hbStart (s : State) (f : Core → Core) : (s.modMe f).hbStart = s.hbStart := rfl
@[simp] theorem State.modMe_reds (s : State) (f : Core → Core) : (s.modMe f).reds = s.reds := rfl
@[simp] theorem State.modMe_colls (s : State) (f : Core → Core) : (s.modMe f).colls = s.colls := rfl
@[simp] theorem State.modMe_chunks (s : State) (f : Core → Core) : (s.modMe f).chunks = s.chunks := rfl
@[simp] theorem State.modMe_scrubs (s : State) (f : Core → Core) : (s.modMe f).scrubs = s.scrubs := rfl
@[simp] theorem State.modMe_level (s : State) (f : Core → Core) : (s.modMe f).level = s.level := rfl
@[simp] theorem State.modMe_throtLow (s : State) (f : Core → Core) : (s.modMe f).throtLow = s.throtLow := rfl
@[simp] theorem State.modMe_lastMeas (s : State) (f : Core → Core) : (s.modMe f).lastMeas = s.lastMeas := rfl
@[simp] theorem State.modMe_measDue (s : State) (f : Core → Core) : (s.modMe f).measDue = s.measDue := rfl
@[simp] theorem State.modMe_floors (s : State) (f : Core → Core) : (s.modMe f).floors = s.floors := rfl
@[simp] theorem State.modMe_powered (s : State) (f : Core → Core) : (s.modMe f).powered = s.powered := rfl
@[simp] theorem State.modMe_perst (s : State) (f : Core → Core) : (s.modMe f).perst = s.perst := rfl
@[simp] theorem State.modMe_evicted (s : State) (f : Core → Core) : (s.modMe f).evicted = s.evicted := rfl
@[simp] theorem State.modMe_merged (s : State) (f : Core → Core) : (s.modMe f).merged = s.merged := rfl
@[simp] theorem State.modMe_domains (s : State) (f : Core → Core) : (s.modMe f).domains = s.domains := rfl
@[simp] theorem State.modMe_boot (s : State) (f : Core → Core) : (s.modMe f).boot = s.boot := rfl
@[simp] theorem State.modMe_resetNext (s : State) (f : Core → Core) : (s.modMe f).resetNext = s.resetNext := rfl
@[simp] theorem State.modMe_dieNext (s : State) (f : Core → Core) : (s.modMe f).dieNext = s.dieNext := rfl
@[simp] theorem State.modMe_rangerLog (s : State) (f : Core → Core) : (s.modMe f).rangerLog = s.rangerLog := rfl
@[simp] theorem State.modMe_cfg (s : State) (f : Core → Core) : (s.modMe f).cfg = s.cfg := rfl
@[simp] theorem State.modMe_msix (s : State) (f : Core → Core) : (s.modMe f).msix = s.msix := rfl
@[simp] theorem State.modMe_ptmDue (s : State) (f : Core → Core) : (s.modMe f).ptmDue = s.ptmDue := rfl
@[simp] theorem State.modMe_fnKill (s : State) (f : Core → Core) : (s.modMe f).fnKill = s.fnKill := rfl
@[simp] theorem State.modMe_auth (s : State) (f : Core → Core) : (s.modMe f).auth = s.auth := rfl
@[simp] theorem State.modMe_subs (s : State) (f : Core → Core) : (s.modMe f).subs = s.subs := rfl
@[simp] theorem State.modMe_slew (s : State) (f : Core → Core) : (s.modMe f).slew = s.slew := rfl
@[simp] theorem State.modMe_timeMeas (s : State) (f : Core → Core) : (s.modMe f).timeMeas = s.timeMeas := rfl
@[simp] theorem State.modMe_fnReset (s : State) (f : Core → Core) : (s.modMe f).fnReset = s.fnReset := rfl
@[simp] theorem State.modMe_jobs (s : State) (f : Core → Core) : (s.modMe f).jobs = s.jobs := rfl
@[simp] theorem State.modMe_farWaits (s : State) (f : Core → Core) : (s.modMe f).farWaits = s.farWaits := rfl
@[simp] theorem State.modMe_invs (s : State) (f : Core → Core) : (s.modMe f).invs = s.invs := rfl
@[simp] theorem State.modMe_alertAt (s : State) (f : Core → Core) : (s.modMe f).alertAt = s.alertAt := rfl
@[simp] theorem State.modMe_pwrMeasAt (s : State) (f : Core → Core) : (s.modMe f).pwrMeasAt = s.pwrMeasAt := rfl
@[simp] theorem State.modMe_jx9p (s : State) (f : Core → Core) : (s.modMe f).jx9p = s.jx9p := rfl
@[simp] theorem State.modMe_out (s : State) (f : Core → Core) : (s.modMe f).out = s.out := rfl

/-! ## State.tickFree -/

@[simp] theorem State.tickFree_cur (s : State) : (s.tickFree).cur = s.cur := rfl
@[simp] theorem State.tickFree_turn (s : State) : (s.tickFree).turn = s.turn := rfl
@[simp] theorem State.tickFree_inputs (s : State) : (s.tickFree).inputs = s.inputs := rfl
@[simp] theorem State.tickFree_strikes (s : State) : (s.tickFree).strikes = s.strikes := rfl
@[simp] theorem State.tickFree_wall (s : State) : (s.tickFree).wall = s.wall := rfl
@[simp] theorem State.tickFree_time (s : State) : (s.tickFree).time = s.time := rfl
@[simp] theorem State.tickFree_frac (s : State) : (s.tickFree).frac = s.frac := rfl
@[simp] theorem State.tickFree_cores (s : State) : (s.tickFree).cores = s.cores := rfl
@[simp] theorem State.tickFree_memCap (s : State) : (s.tickFree).memCap = s.memCap := rfl
@[simp] theorem State.tickFree_mem (s : State) : (s.tickFree).mem = s.mem := rfl
@[simp] theorem State.tickFree_bad (s : State) : (s.tickFree).bad = s.bad := rfl
@[simp] theorem State.tickFree_hot (s : State) : (s.tickFree).hot = s.hot := rfl
@[simp] theorem State.tickFree_hotSeen (s : State) : (s.tickFree).hotSeen = s.hotSeen := rfl
@[simp] theorem State.tickFree_atomCnt (s : State) : (s.tickFree).atomCnt = s.atomCnt := rfl
@[simp] theorem State.tickFree_atomCand (s : State) : (s.tickFree).atomCand = s.atomCand := rfl
@[simp] theorem State.tickFree_atomSeen (s : State) : (s.tickFree).atomSeen = s.atomSeen := rfl
@[simp] theorem State.tickFree_l2 (s : State) : (s.tickFree).l2 = s.l2 := rfl
@[simp] theorem State.tickFree_clr (s : State) : (s.tickFree).clr = s.clr := rfl
@[simp] theorem State.tickFree_clrBad (s : State) : (s.tickFree).clrBad = s.clrBad := rfl
@[simp] theorem State.tickFree_drainPass (s : State) : (s.tickFree).drainPass = s.drainPass := rfl
@[simp] theorem State.tickFree_wuDue (s : State) : (s.tickFree).wuDue = s.wuDue := rfl
@[simp] theorem State.tickFree_wuNext (s : State) : (s.tickFree).wuNext = s.wuNext := rfl
@[simp] theorem State.tickFree_win (s : State) : (s.tickFree).win = s.win := rfl
@[simp] theorem State.tickFree_psr (s : State) : (s.tickFree).psr = s.psr := rfl
@[simp] theorem State.tickFree_tlb (s : State) : (s.tickFree).tlb = s.tlb := rfl
@[simp] theorem State.tickFree_walks (s : State) : (s.tickFree).walks = s.walks := rfl
@[simp] theorem State.tickFree_ats (s : State) : (s.tickFree).ats = s.ats := rfl
@[simp] theorem State.tickFree_refused (s : State) : (s.tickFree).refused = s.refused := rfl
@[simp] theorem State.tickFree_launches (s : State) : (s.tickFree).launches = s.launches := rfl
@[simp] theorem State.tickFree_nextKey (s : State) : (s.tickFree).nextKey = s.nextKey := rfl
@[simp] theorem State.tickFree_lqFault (s : State) : (s.tickFree).lqFault = s.lqFault := rfl
@[simp] theorem State.tickFree_lqLevel (s : State) : (s.tickFree).lqLevel = s.lqLevel := rfl
@[simp] theorem State.tickFree_logCount (s : State) : (s.tickFree).logCount = s.logCount := rfl
@[simp] theorem State.tickFree_cqCount (s : State) : (s.tickFree).cqCount = s.cqCount := rfl
@[simp] theorem State.tickFree_poolStart (s : State) : (s.tickFree).poolStart = s.poolStart := rfl
@[simp] theorem State.tickFree_poolNext (s : State) : (s.tickFree).poolNext = s.poolNext := rfl
@[simp] theorem State.tickFree_hotStart (s : State) : (s.tickFree).hotStart = s.hotStart := rfl
@[simp] theorem State.tickFree_hbStart (s : State) : (s.tickFree).hbStart = s.hbStart := rfl
@[simp] theorem State.tickFree_reds (s : State) : (s.tickFree).reds = s.reds := rfl
@[simp] theorem State.tickFree_colls (s : State) : (s.tickFree).colls = s.colls := rfl
@[simp] theorem State.tickFree_chunks (s : State) : (s.tickFree).chunks = s.chunks := rfl
@[simp] theorem State.tickFree_scrubs (s : State) : (s.tickFree).scrubs = s.scrubs := rfl
@[simp] theorem State.tickFree_level (s : State) : (s.tickFree).level = s.level := rfl
@[simp] theorem State.tickFree_throtLow (s : State) : (s.tickFree).throtLow = s.throtLow := rfl
@[simp] theorem State.tickFree_lastMeas (s : State) : (s.tickFree).lastMeas = s.lastMeas := rfl
@[simp] theorem State.tickFree_measDue (s : State) : (s.tickFree).measDue = s.measDue := rfl
@[simp] theorem State.tickFree_floors (s : State) : (s.tickFree).floors = s.floors := rfl
@[simp] theorem State.tickFree_powered (s : State) : (s.tickFree).powered = s.powered := rfl
@[simp] theorem State.tickFree_perst (s : State) : (s.tickFree).perst = s.perst := rfl
@[simp] theorem State.tickFree_evicted (s : State) : (s.tickFree).evicted = s.evicted := rfl
@[simp] theorem State.tickFree_merged (s : State) : (s.tickFree).merged = s.merged := rfl
@[simp] theorem State.tickFree_domains (s : State) : (s.tickFree).domains = s.domains := rfl
@[simp] theorem State.tickFree_boot (s : State) : (s.tickFree).boot = s.boot := rfl
@[simp] theorem State.tickFree_resetNext (s : State) : (s.tickFree).resetNext = s.resetNext := rfl
@[simp] theorem State.tickFree_dieNext (s : State) : (s.tickFree).dieNext = s.dieNext := rfl
@[simp] theorem State.tickFree_rangerLog (s : State) : (s.tickFree).rangerLog = s.rangerLog := rfl
@[simp] theorem State.tickFree_cfg (s : State) : (s.tickFree).cfg = s.cfg := rfl
@[simp] theorem State.tickFree_msix (s : State) : (s.tickFree).msix = s.msix := rfl
@[simp] theorem State.tickFree_ptmDue (s : State) : (s.tickFree).ptmDue = s.ptmDue := rfl
@[simp] theorem State.tickFree_fnKill (s : State) : (s.tickFree).fnKill = s.fnKill := rfl
@[simp] theorem State.tickFree_auth (s : State) : (s.tickFree).auth = s.auth := rfl
@[simp] theorem State.tickFree_subs (s : State) : (s.tickFree).subs = s.subs := rfl
@[simp] theorem State.tickFree_slew (s : State) : (s.tickFree).slew = s.slew := rfl
@[simp] theorem State.tickFree_timeMeas (s : State) : (s.tickFree).timeMeas = s.timeMeas := rfl
@[simp] theorem State.tickFree_fnReset (s : State) : (s.tickFree).fnReset = s.fnReset := rfl
@[simp] theorem State.tickFree_jobs (s : State) : (s.tickFree).jobs = s.jobs := rfl
@[simp] theorem State.tickFree_farWaits (s : State) : (s.tickFree).farWaits = s.farWaits := rfl
@[simp] theorem State.tickFree_invs (s : State) : (s.tickFree).invs = s.invs := rfl
@[simp] theorem State.tickFree_alertAt (s : State) : (s.tickFree).alertAt = s.alertAt := rfl
@[simp] theorem State.tickFree_pwrMeasAt (s : State) : (s.tickFree).pwrMeasAt = s.pwrMeasAt := rfl
@[simp] theorem State.tickFree_jx9p (s : State) : (s.tickFree).jx9p = s.jx9p := rfl
@[simp] theorem State.tickFree_out (s : State) : (s.tickFree).out = s.out := rfl

/-! ## State.send -/

@[simp] theorem State.send_cur (s : State) (m : Msg) : (s.send m).cur = s.cur := rfl
@[simp] theorem State.send_turn (s : State) (m : Msg) : (s.send m).turn = s.turn := rfl
@[simp] theorem State.send_inputs (s : State) (m : Msg) : (s.send m).inputs = s.inputs := rfl
@[simp] theorem State.send_strikes (s : State) (m : Msg) : (s.send m).strikes = s.strikes := rfl
@[simp] theorem State.send_freeCtr (s : State) (m : Msg) : (s.send m).freeCtr = s.freeCtr := rfl
@[simp] theorem State.send_wall (s : State) (m : Msg) : (s.send m).wall = s.wall := rfl
@[simp] theorem State.send_time (s : State) (m : Msg) : (s.send m).time = s.time := rfl
@[simp] theorem State.send_frac (s : State) (m : Msg) : (s.send m).frac = s.frac := rfl
@[simp] theorem State.send_cores (s : State) (m : Msg) : (s.send m).cores = s.cores := rfl
@[simp] theorem State.send_memCap (s : State) (m : Msg) : (s.send m).memCap = s.memCap := rfl
@[simp] theorem State.send_mem (s : State) (m : Msg) : (s.send m).mem = s.mem := rfl
@[simp] theorem State.send_bad (s : State) (m : Msg) : (s.send m).bad = s.bad := rfl
@[simp] theorem State.send_hot (s : State) (m : Msg) : (s.send m).hot = s.hot := rfl
@[simp] theorem State.send_hotSeen (s : State) (m : Msg) : (s.send m).hotSeen = s.hotSeen := rfl
@[simp] theorem State.send_atomCnt (s : State) (m : Msg) : (s.send m).atomCnt = s.atomCnt := rfl
@[simp] theorem State.send_atomCand (s : State) (m : Msg) : (s.send m).atomCand = s.atomCand := rfl
@[simp] theorem State.send_atomSeen (s : State) (m : Msg) : (s.send m).atomSeen = s.atomSeen := rfl
@[simp] theorem State.send_l2 (s : State) (m : Msg) : (s.send m).l2 = s.l2 := rfl
@[simp] theorem State.send_clr (s : State) (m : Msg) : (s.send m).clr = s.clr := rfl
@[simp] theorem State.send_clrBad (s : State) (m : Msg) : (s.send m).clrBad = s.clrBad := rfl
@[simp] theorem State.send_drainPass (s : State) (m : Msg) : (s.send m).drainPass = s.drainPass := rfl
@[simp] theorem State.send_wuDue (s : State) (m : Msg) : (s.send m).wuDue = s.wuDue := rfl
@[simp] theorem State.send_wuNext (s : State) (m : Msg) : (s.send m).wuNext = s.wuNext := rfl
@[simp] theorem State.send_win (s : State) (m : Msg) : (s.send m).win = s.win := rfl
@[simp] theorem State.send_psr (s : State) (m : Msg) : (s.send m).psr = s.psr := rfl
@[simp] theorem State.send_tlb (s : State) (m : Msg) : (s.send m).tlb = s.tlb := rfl
@[simp] theorem State.send_walks (s : State) (m : Msg) : (s.send m).walks = s.walks := rfl
@[simp] theorem State.send_ats (s : State) (m : Msg) : (s.send m).ats = s.ats := rfl
@[simp] theorem State.send_refused (s : State) (m : Msg) : (s.send m).refused = s.refused := rfl
@[simp] theorem State.send_launches (s : State) (m : Msg) : (s.send m).launches = s.launches := rfl
@[simp] theorem State.send_nextKey (s : State) (m : Msg) : (s.send m).nextKey = s.nextKey := rfl
@[simp] theorem State.send_lqFault (s : State) (m : Msg) : (s.send m).lqFault = s.lqFault := rfl
@[simp] theorem State.send_lqLevel (s : State) (m : Msg) : (s.send m).lqLevel = s.lqLevel := rfl
@[simp] theorem State.send_logCount (s : State) (m : Msg) : (s.send m).logCount = s.logCount := rfl
@[simp] theorem State.send_cqCount (s : State) (m : Msg) : (s.send m).cqCount = s.cqCount := rfl
@[simp] theorem State.send_poolStart (s : State) (m : Msg) : (s.send m).poolStart = s.poolStart := rfl
@[simp] theorem State.send_poolNext (s : State) (m : Msg) : (s.send m).poolNext = s.poolNext := rfl
@[simp] theorem State.send_hotStart (s : State) (m : Msg) : (s.send m).hotStart = s.hotStart := rfl
@[simp] theorem State.send_hbStart (s : State) (m : Msg) : (s.send m).hbStart = s.hbStart := rfl
@[simp] theorem State.send_reds (s : State) (m : Msg) : (s.send m).reds = s.reds := rfl
@[simp] theorem State.send_colls (s : State) (m : Msg) : (s.send m).colls = s.colls := rfl
@[simp] theorem State.send_chunks (s : State) (m : Msg) : (s.send m).chunks = s.chunks := rfl
@[simp] theorem State.send_scrubs (s : State) (m : Msg) : (s.send m).scrubs = s.scrubs := rfl
@[simp] theorem State.send_level (s : State) (m : Msg) : (s.send m).level = s.level := rfl
@[simp] theorem State.send_throtLow (s : State) (m : Msg) : (s.send m).throtLow = s.throtLow := rfl
@[simp] theorem State.send_lastMeas (s : State) (m : Msg) : (s.send m).lastMeas = s.lastMeas := rfl
@[simp] theorem State.send_measDue (s : State) (m : Msg) : (s.send m).measDue = s.measDue := rfl
@[simp] theorem State.send_floors (s : State) (m : Msg) : (s.send m).floors = s.floors := rfl
@[simp] theorem State.send_powered (s : State) (m : Msg) : (s.send m).powered = s.powered := rfl
@[simp] theorem State.send_perst (s : State) (m : Msg) : (s.send m).perst = s.perst := rfl
@[simp] theorem State.send_evicted (s : State) (m : Msg) : (s.send m).evicted = s.evicted := rfl
@[simp] theorem State.send_merged (s : State) (m : Msg) : (s.send m).merged = s.merged := rfl
@[simp] theorem State.send_domains (s : State) (m : Msg) : (s.send m).domains = s.domains := rfl
@[simp] theorem State.send_boot (s : State) (m : Msg) : (s.send m).boot = s.boot := rfl
@[simp] theorem State.send_resetNext (s : State) (m : Msg) : (s.send m).resetNext = s.resetNext := rfl
@[simp] theorem State.send_dieNext (s : State) (m : Msg) : (s.send m).dieNext = s.dieNext := rfl
@[simp] theorem State.send_rangerLog (s : State) (m : Msg) : (s.send m).rangerLog = s.rangerLog := rfl
@[simp] theorem State.send_cfg (s : State) (m : Msg) : (s.send m).cfg = s.cfg := rfl
@[simp] theorem State.send_msix (s : State) (m : Msg) : (s.send m).msix = s.msix := rfl
@[simp] theorem State.send_ptmDue (s : State) (m : Msg) : (s.send m).ptmDue = s.ptmDue := rfl
@[simp] theorem State.send_fnKill (s : State) (m : Msg) : (s.send m).fnKill = s.fnKill := rfl
@[simp] theorem State.send_auth (s : State) (m : Msg) : (s.send m).auth = s.auth := rfl
@[simp] theorem State.send_subs (s : State) (m : Msg) : (s.send m).subs = s.subs := rfl
@[simp] theorem State.send_slew (s : State) (m : Msg) : (s.send m).slew = s.slew := rfl
@[simp] theorem State.send_timeMeas (s : State) (m : Msg) : (s.send m).timeMeas = s.timeMeas := rfl
@[simp] theorem State.send_fnReset (s : State) (m : Msg) : (s.send m).fnReset = s.fnReset := rfl
@[simp] theorem State.send_jobs (s : State) (m : Msg) : (s.send m).jobs = s.jobs := rfl
@[simp] theorem State.send_farWaits (s : State) (m : Msg) : (s.send m).farWaits = s.farWaits := rfl
@[simp] theorem State.send_invs (s : State) (m : Msg) : (s.send m).invs = s.invs := rfl
@[simp] theorem State.send_alertAt (s : State) (m : Msg) : (s.send m).alertAt = s.alertAt := rfl
@[simp] theorem State.send_pwrMeasAt (s : State) (m : Msg) : (s.send m).pwrMeasAt = s.pwrMeasAt := rfl
@[simp] theorem State.send_jx9p (s : State) (m : Msg) : (s.send m).jx9p = s.jx9p := rfl

/-! ## State.ww -/

@[simp] theorem State.ww_cur (s : State) (o : Nat) (v : Word) : (s.ww o v).cur = s.cur := rfl
@[simp] theorem State.ww_turn (s : State) (o : Nat) (v : Word) : (s.ww o v).turn = s.turn := rfl
@[simp] theorem State.ww_inputs (s : State) (o : Nat) (v : Word) : (s.ww o v).inputs = s.inputs := rfl
@[simp] theorem State.ww_strikes (s : State) (o : Nat) (v : Word) : (s.ww o v).strikes = s.strikes := rfl
@[simp] theorem State.ww_freeCtr (s : State) (o : Nat) (v : Word) : (s.ww o v).freeCtr = s.freeCtr := rfl
@[simp] theorem State.ww_wall (s : State) (o : Nat) (v : Word) : (s.ww o v).wall = s.wall := rfl
@[simp] theorem State.ww_time (s : State) (o : Nat) (v : Word) : (s.ww o v).time = s.time := rfl
@[simp] theorem State.ww_frac (s : State) (o : Nat) (v : Word) : (s.ww o v).frac = s.frac := rfl
@[simp] theorem State.ww_cores (s : State) (o : Nat) (v : Word) : (s.ww o v).cores = s.cores := rfl
@[simp] theorem State.ww_memCap (s : State) (o : Nat) (v : Word) : (s.ww o v).memCap = s.memCap := rfl
@[simp] theorem State.ww_mem (s : State) (o : Nat) (v : Word) : (s.ww o v).mem = s.mem := rfl
@[simp] theorem State.ww_bad (s : State) (o : Nat) (v : Word) : (s.ww o v).bad = s.bad := rfl
@[simp] theorem State.ww_hot (s : State) (o : Nat) (v : Word) : (s.ww o v).hot = s.hot := rfl
@[simp] theorem State.ww_hotSeen (s : State) (o : Nat) (v : Word) : (s.ww o v).hotSeen = s.hotSeen := rfl
@[simp] theorem State.ww_atomCnt (s : State) (o : Nat) (v : Word) : (s.ww o v).atomCnt = s.atomCnt := rfl
@[simp] theorem State.ww_atomCand (s : State) (o : Nat) (v : Word) : (s.ww o v).atomCand = s.atomCand := rfl
@[simp] theorem State.ww_atomSeen (s : State) (o : Nat) (v : Word) : (s.ww o v).atomSeen = s.atomSeen := rfl
@[simp] theorem State.ww_l2 (s : State) (o : Nat) (v : Word) : (s.ww o v).l2 = s.l2 := rfl
@[simp] theorem State.ww_clr (s : State) (o : Nat) (v : Word) : (s.ww o v).clr = s.clr := rfl
@[simp] theorem State.ww_clrBad (s : State) (o : Nat) (v : Word) : (s.ww o v).clrBad = s.clrBad := rfl
@[simp] theorem State.ww_drainPass (s : State) (o : Nat) (v : Word) : (s.ww o v).drainPass = s.drainPass := rfl
@[simp] theorem State.ww_wuDue (s : State) (o : Nat) (v : Word) : (s.ww o v).wuDue = s.wuDue := rfl
@[simp] theorem State.ww_wuNext (s : State) (o : Nat) (v : Word) : (s.ww o v).wuNext = s.wuNext := rfl
@[simp] theorem State.ww_psr (s : State) (o : Nat) (v : Word) : (s.ww o v).psr = s.psr := rfl
@[simp] theorem State.ww_tlb (s : State) (o : Nat) (v : Word) : (s.ww o v).tlb = s.tlb := rfl
@[simp] theorem State.ww_walks (s : State) (o : Nat) (v : Word) : (s.ww o v).walks = s.walks := rfl
@[simp] theorem State.ww_ats (s : State) (o : Nat) (v : Word) : (s.ww o v).ats = s.ats := rfl
@[simp] theorem State.ww_refused (s : State) (o : Nat) (v : Word) : (s.ww o v).refused = s.refused := rfl
@[simp] theorem State.ww_launches (s : State) (o : Nat) (v : Word) : (s.ww o v).launches = s.launches := rfl
@[simp] theorem State.ww_nextKey (s : State) (o : Nat) (v : Word) : (s.ww o v).nextKey = s.nextKey := rfl
@[simp] theorem State.ww_lqFault (s : State) (o : Nat) (v : Word) : (s.ww o v).lqFault = s.lqFault := rfl
@[simp] theorem State.ww_lqLevel (s : State) (o : Nat) (v : Word) : (s.ww o v).lqLevel = s.lqLevel := rfl
@[simp] theorem State.ww_logCount (s : State) (o : Nat) (v : Word) : (s.ww o v).logCount = s.logCount := rfl
@[simp] theorem State.ww_cqCount (s : State) (o : Nat) (v : Word) : (s.ww o v).cqCount = s.cqCount := rfl
@[simp] theorem State.ww_poolStart (s : State) (o : Nat) (v : Word) : (s.ww o v).poolStart = s.poolStart := rfl
@[simp] theorem State.ww_poolNext (s : State) (o : Nat) (v : Word) : (s.ww o v).poolNext = s.poolNext := rfl
@[simp] theorem State.ww_hotStart (s : State) (o : Nat) (v : Word) : (s.ww o v).hotStart = s.hotStart := rfl
@[simp] theorem State.ww_hbStart (s : State) (o : Nat) (v : Word) : (s.ww o v).hbStart = s.hbStart := rfl
@[simp] theorem State.ww_reds (s : State) (o : Nat) (v : Word) : (s.ww o v).reds = s.reds := rfl
@[simp] theorem State.ww_colls (s : State) (o : Nat) (v : Word) : (s.ww o v).colls = s.colls := rfl
@[simp] theorem State.ww_chunks (s : State) (o : Nat) (v : Word) : (s.ww o v).chunks = s.chunks := rfl
@[simp] theorem State.ww_scrubs (s : State) (o : Nat) (v : Word) : (s.ww o v).scrubs = s.scrubs := rfl
@[simp] theorem State.ww_level (s : State) (o : Nat) (v : Word) : (s.ww o v).level = s.level := rfl
@[simp] theorem State.ww_throtLow (s : State) (o : Nat) (v : Word) : (s.ww o v).throtLow = s.throtLow := rfl
@[simp] theorem State.ww_lastMeas (s : State) (o : Nat) (v : Word) : (s.ww o v).lastMeas = s.lastMeas := rfl
@[simp] theorem State.ww_measDue (s : State) (o : Nat) (v : Word) : (s.ww o v).measDue = s.measDue := rfl
@[simp] theorem State.ww_floors (s : State) (o : Nat) (v : Word) : (s.ww o v).floors = s.floors := rfl
@[simp] theorem State.ww_powered (s : State) (o : Nat) (v : Word) : (s.ww o v).powered = s.powered := rfl
@[simp] theorem State.ww_perst (s : State) (o : Nat) (v : Word) : (s.ww o v).perst = s.perst := rfl
@[simp] theorem State.ww_evicted (s : State) (o : Nat) (v : Word) : (s.ww o v).evicted = s.evicted := rfl
@[simp] theorem State.ww_merged (s : State) (o : Nat) (v : Word) : (s.ww o v).merged = s.merged := rfl
@[simp] theorem State.ww_domains (s : State) (o : Nat) (v : Word) : (s.ww o v).domains = s.domains := rfl
@[simp] theorem State.ww_boot (s : State) (o : Nat) (v : Word) : (s.ww o v).boot = s.boot := rfl
@[simp] theorem State.ww_resetNext (s : State) (o : Nat) (v : Word) : (s.ww o v).resetNext = s.resetNext := rfl
@[simp] theorem State.ww_dieNext (s : State) (o : Nat) (v : Word) : (s.ww o v).dieNext = s.dieNext := rfl
@[simp] theorem State.ww_rangerLog (s : State) (o : Nat) (v : Word) : (s.ww o v).rangerLog = s.rangerLog := rfl
@[simp] theorem State.ww_cfg (s : State) (o : Nat) (v : Word) : (s.ww o v).cfg = s.cfg := rfl
@[simp] theorem State.ww_msix (s : State) (o : Nat) (v : Word) : (s.ww o v).msix = s.msix := rfl
@[simp] theorem State.ww_ptmDue (s : State) (o : Nat) (v : Word) : (s.ww o v).ptmDue = s.ptmDue := rfl
@[simp] theorem State.ww_fnKill (s : State) (o : Nat) (v : Word) : (s.ww o v).fnKill = s.fnKill := rfl
@[simp] theorem State.ww_auth (s : State) (o : Nat) (v : Word) : (s.ww o v).auth = s.auth := rfl
@[simp] theorem State.ww_subs (s : State) (o : Nat) (v : Word) : (s.ww o v).subs = s.subs := rfl
@[simp] theorem State.ww_slew (s : State) (o : Nat) (v : Word) : (s.ww o v).slew = s.slew := rfl
@[simp] theorem State.ww_timeMeas (s : State) (o : Nat) (v : Word) : (s.ww o v).timeMeas = s.timeMeas := rfl
@[simp] theorem State.ww_fnReset (s : State) (o : Nat) (v : Word) : (s.ww o v).fnReset = s.fnReset := rfl
@[simp] theorem State.ww_jobs (s : State) (o : Nat) (v : Word) : (s.ww o v).jobs = s.jobs := rfl
@[simp] theorem State.ww_farWaits (s : State) (o : Nat) (v : Word) : (s.ww o v).farWaits = s.farWaits := rfl
@[simp] theorem State.ww_invs (s : State) (o : Nat) (v : Word) : (s.ww o v).invs = s.invs := rfl
@[simp] theorem State.ww_alertAt (s : State) (o : Nat) (v : Word) : (s.ww o v).alertAt = s.alertAt := rfl
@[simp] theorem State.ww_pwrMeasAt (s : State) (o : Nat) (v : Word) : (s.ww o v).pwrMeasAt = s.pwrMeasAt := rfl
@[simp] theorem State.ww_jx9p (s : State) (o : Nat) (v : Word) : (s.ww o v).jx9p = s.jx9p := rfl
@[simp] theorem State.ww_out (s : State) (o : Nat) (v : Word) : (s.ww o v).out = s.out := rfl

/-! ## State.wp -/

@[simp] theorem State.wp_cur (s : State) (p i : Nat) (v : Word) : (s.wp p i v).cur = s.cur := rfl
@[simp] theorem State.wp_turn (s : State) (p i : Nat) (v : Word) : (s.wp p i v).turn = s.turn := rfl
@[simp] theorem State.wp_inputs (s : State) (p i : Nat) (v : Word) : (s.wp p i v).inputs = s.inputs := rfl
@[simp] theorem State.wp_strikes (s : State) (p i : Nat) (v : Word) : (s.wp p i v).strikes = s.strikes := rfl
@[simp] theorem State.wp_freeCtr (s : State) (p i : Nat) (v : Word) : (s.wp p i v).freeCtr = s.freeCtr := rfl
@[simp] theorem State.wp_wall (s : State) (p i : Nat) (v : Word) : (s.wp p i v).wall = s.wall := rfl
@[simp] theorem State.wp_time (s : State) (p i : Nat) (v : Word) : (s.wp p i v).time = s.time := rfl
@[simp] theorem State.wp_frac (s : State) (p i : Nat) (v : Word) : (s.wp p i v).frac = s.frac := rfl
@[simp] theorem State.wp_cores (s : State) (p i : Nat) (v : Word) : (s.wp p i v).cores = s.cores := rfl
@[simp] theorem State.wp_memCap (s : State) (p i : Nat) (v : Word) : (s.wp p i v).memCap = s.memCap := rfl
@[simp] theorem State.wp_mem (s : State) (p i : Nat) (v : Word) : (s.wp p i v).mem = s.mem := rfl
@[simp] theorem State.wp_bad (s : State) (p i : Nat) (v : Word) : (s.wp p i v).bad = s.bad := rfl
@[simp] theorem State.wp_hot (s : State) (p i : Nat) (v : Word) : (s.wp p i v).hot = s.hot := rfl
@[simp] theorem State.wp_hotSeen (s : State) (p i : Nat) (v : Word) : (s.wp p i v).hotSeen = s.hotSeen := rfl
@[simp] theorem State.wp_atomCnt (s : State) (p i : Nat) (v : Word) : (s.wp p i v).atomCnt = s.atomCnt := rfl
@[simp] theorem State.wp_atomCand (s : State) (p i : Nat) (v : Word) : (s.wp p i v).atomCand = s.atomCand := rfl
@[simp] theorem State.wp_atomSeen (s : State) (p i : Nat) (v : Word) : (s.wp p i v).atomSeen = s.atomSeen := rfl
@[simp] theorem State.wp_l2 (s : State) (p i : Nat) (v : Word) : (s.wp p i v).l2 = s.l2 := rfl
@[simp] theorem State.wp_clr (s : State) (p i : Nat) (v : Word) : (s.wp p i v).clr = s.clr := rfl
@[simp] theorem State.wp_clrBad (s : State) (p i : Nat) (v : Word) : (s.wp p i v).clrBad = s.clrBad := rfl
@[simp] theorem State.wp_drainPass (s : State) (p i : Nat) (v : Word) : (s.wp p i v).drainPass = s.drainPass := rfl
@[simp] theorem State.wp_wuDue (s : State) (p i : Nat) (v : Word) : (s.wp p i v).wuDue = s.wuDue := rfl
@[simp] theorem State.wp_wuNext (s : State) (p i : Nat) (v : Word) : (s.wp p i v).wuNext = s.wuNext := rfl
@[simp] theorem State.wp_win (s : State) (p i : Nat) (v : Word) : (s.wp p i v).win = s.win := rfl
@[simp] theorem State.wp_tlb (s : State) (p i : Nat) (v : Word) : (s.wp p i v).tlb = s.tlb := rfl
@[simp] theorem State.wp_walks (s : State) (p i : Nat) (v : Word) : (s.wp p i v).walks = s.walks := rfl
@[simp] theorem State.wp_ats (s : State) (p i : Nat) (v : Word) : (s.wp p i v).ats = s.ats := rfl
@[simp] theorem State.wp_refused (s : State) (p i : Nat) (v : Word) : (s.wp p i v).refused = s.refused := rfl
@[simp] theorem State.wp_launches (s : State) (p i : Nat) (v : Word) : (s.wp p i v).launches = s.launches := rfl
@[simp] theorem State.wp_nextKey (s : State) (p i : Nat) (v : Word) : (s.wp p i v).nextKey = s.nextKey := rfl
@[simp] theorem State.wp_lqFault (s : State) (p i : Nat) (v : Word) : (s.wp p i v).lqFault = s.lqFault := rfl
@[simp] theorem State.wp_lqLevel (s : State) (p i : Nat) (v : Word) : (s.wp p i v).lqLevel = s.lqLevel := rfl
@[simp] theorem State.wp_logCount (s : State) (p i : Nat) (v : Word) : (s.wp p i v).logCount = s.logCount := rfl
@[simp] theorem State.wp_cqCount (s : State) (p i : Nat) (v : Word) : (s.wp p i v).cqCount = s.cqCount := rfl
@[simp] theorem State.wp_poolStart (s : State) (p i : Nat) (v : Word) : (s.wp p i v).poolStart = s.poolStart := rfl
@[simp] theorem State.wp_poolNext (s : State) (p i : Nat) (v : Word) : (s.wp p i v).poolNext = s.poolNext := rfl
@[simp] theorem State.wp_hotStart (s : State) (p i : Nat) (v : Word) : (s.wp p i v).hotStart = s.hotStart := rfl
@[simp] theorem State.wp_hbStart (s : State) (p i : Nat) (v : Word) : (s.wp p i v).hbStart = s.hbStart := rfl
@[simp] theorem State.wp_reds (s : State) (p i : Nat) (v : Word) : (s.wp p i v).reds = s.reds := rfl
@[simp] theorem State.wp_colls (s : State) (p i : Nat) (v : Word) : (s.wp p i v).colls = s.colls := rfl
@[simp] theorem State.wp_chunks (s : State) (p i : Nat) (v : Word) : (s.wp p i v).chunks = s.chunks := rfl
@[simp] theorem State.wp_scrubs (s : State) (p i : Nat) (v : Word) : (s.wp p i v).scrubs = s.scrubs := rfl
@[simp] theorem State.wp_level (s : State) (p i : Nat) (v : Word) : (s.wp p i v).level = s.level := rfl
@[simp] theorem State.wp_throtLow (s : State) (p i : Nat) (v : Word) : (s.wp p i v).throtLow = s.throtLow := rfl
@[simp] theorem State.wp_lastMeas (s : State) (p i : Nat) (v : Word) : (s.wp p i v).lastMeas = s.lastMeas := rfl
@[simp] theorem State.wp_measDue (s : State) (p i : Nat) (v : Word) : (s.wp p i v).measDue = s.measDue := rfl
@[simp] theorem State.wp_floors (s : State) (p i : Nat) (v : Word) : (s.wp p i v).floors = s.floors := rfl
@[simp] theorem State.wp_powered (s : State) (p i : Nat) (v : Word) : (s.wp p i v).powered = s.powered := rfl
@[simp] theorem State.wp_perst (s : State) (p i : Nat) (v : Word) : (s.wp p i v).perst = s.perst := rfl
@[simp] theorem State.wp_evicted (s : State) (p i : Nat) (v : Word) : (s.wp p i v).evicted = s.evicted := rfl
@[simp] theorem State.wp_merged (s : State) (p i : Nat) (v : Word) : (s.wp p i v).merged = s.merged := rfl
@[simp] theorem State.wp_domains (s : State) (p i : Nat) (v : Word) : (s.wp p i v).domains = s.domains := rfl
@[simp] theorem State.wp_boot (s : State) (p i : Nat) (v : Word) : (s.wp p i v).boot = s.boot := rfl
@[simp] theorem State.wp_resetNext (s : State) (p i : Nat) (v : Word) : (s.wp p i v).resetNext = s.resetNext := rfl
@[simp] theorem State.wp_dieNext (s : State) (p i : Nat) (v : Word) : (s.wp p i v).dieNext = s.dieNext := rfl
@[simp] theorem State.wp_rangerLog (s : State) (p i : Nat) (v : Word) : (s.wp p i v).rangerLog = s.rangerLog := rfl
@[simp] theorem State.wp_cfg (s : State) (p i : Nat) (v : Word) : (s.wp p i v).cfg = s.cfg := rfl
@[simp] theorem State.wp_msix (s : State) (p i : Nat) (v : Word) : (s.wp p i v).msix = s.msix := rfl
@[simp] theorem State.wp_ptmDue (s : State) (p i : Nat) (v : Word) : (s.wp p i v).ptmDue = s.ptmDue := rfl
@[simp] theorem State.wp_fnKill (s : State) (p i : Nat) (v : Word) : (s.wp p i v).fnKill = s.fnKill := rfl
@[simp] theorem State.wp_auth (s : State) (p i : Nat) (v : Word) : (s.wp p i v).auth = s.auth := rfl
@[simp] theorem State.wp_subs (s : State) (p i : Nat) (v : Word) : (s.wp p i v).subs = s.subs := rfl
@[simp] theorem State.wp_slew (s : State) (p i : Nat) (v : Word) : (s.wp p i v).slew = s.slew := rfl
@[simp] theorem State.wp_timeMeas (s : State) (p i : Nat) (v : Word) : (s.wp p i v).timeMeas = s.timeMeas := rfl
@[simp] theorem State.wp_fnReset (s : State) (p i : Nat) (v : Word) : (s.wp p i v).fnReset = s.fnReset := rfl
@[simp] theorem State.wp_jobs (s : State) (p i : Nat) (v : Word) : (s.wp p i v).jobs = s.jobs := rfl
@[simp] theorem State.wp_farWaits (s : State) (p i : Nat) (v : Word) : (s.wp p i v).farWaits = s.farWaits := rfl
@[simp] theorem State.wp_invs (s : State) (p i : Nat) (v : Word) : (s.wp p i v).invs = s.invs := rfl
@[simp] theorem State.wp_alertAt (s : State) (p i : Nat) (v : Word) : (s.wp p i v).alertAt = s.alertAt := rfl
@[simp] theorem State.wp_pwrMeasAt (s : State) (p i : Nat) (v : Word) : (s.wp p i v).pwrMeasAt = s.pwrMeasAt := rfl
@[simp] theorem State.wp_jx9p (s : State) (p i : Nat) (v : Word) : (s.wp p i v).jx9p = s.jx9p := rfl
@[simp] theorem State.wp_out (s : State) (p i : Nat) (v : Word) : (s.wp p i v).out = s.out := rfl

/-! ## State.at_ -/

@[simp] theorem State.at__turn (s : State) (u : Cur) : (s.at_ u).turn = s.turn := rfl
@[simp] theorem State.at__inputs (s : State) (u : Cur) : (s.at_ u).inputs = s.inputs := rfl
@[simp] theorem State.at__strikes (s : State) (u : Cur) : (s.at_ u).strikes = s.strikes := rfl
@[simp] theorem State.at__freeCtr (s : State) (u : Cur) : (s.at_ u).freeCtr = s.freeCtr := rfl
@[simp] theorem State.at__wall (s : State) (u : Cur) : (s.at_ u).wall = s.wall := rfl
@[simp] theorem State.at__time (s : State) (u : Cur) : (s.at_ u).time = s.time := rfl
@[simp] theorem State.at__frac (s : State) (u : Cur) : (s.at_ u).frac = s.frac := rfl
@[simp] theorem State.at__cores (s : State) (u : Cur) : (s.at_ u).cores = s.cores := rfl
@[simp] theorem State.at__memCap (s : State) (u : Cur) : (s.at_ u).memCap = s.memCap := rfl
@[simp] theorem State.at__mem (s : State) (u : Cur) : (s.at_ u).mem = s.mem := rfl
@[simp] theorem State.at__bad (s : State) (u : Cur) : (s.at_ u).bad = s.bad := rfl
@[simp] theorem State.at__hot (s : State) (u : Cur) : (s.at_ u).hot = s.hot := rfl
@[simp] theorem State.at__hotSeen (s : State) (u : Cur) : (s.at_ u).hotSeen = s.hotSeen := rfl
@[simp] theorem State.at__atomCnt (s : State) (u : Cur) : (s.at_ u).atomCnt = s.atomCnt := rfl
@[simp] theorem State.at__atomCand (s : State) (u : Cur) : (s.at_ u).atomCand = s.atomCand := rfl
@[simp] theorem State.at__atomSeen (s : State) (u : Cur) : (s.at_ u).atomSeen = s.atomSeen := rfl
@[simp] theorem State.at__l2 (s : State) (u : Cur) : (s.at_ u).l2 = s.l2 := rfl
@[simp] theorem State.at__clr (s : State) (u : Cur) : (s.at_ u).clr = s.clr := rfl
@[simp] theorem State.at__clrBad (s : State) (u : Cur) : (s.at_ u).clrBad = s.clrBad := rfl
@[simp] theorem State.at__drainPass (s : State) (u : Cur) : (s.at_ u).drainPass = s.drainPass := rfl
@[simp] theorem State.at__wuDue (s : State) (u : Cur) : (s.at_ u).wuDue = s.wuDue := rfl
@[simp] theorem State.at__wuNext (s : State) (u : Cur) : (s.at_ u).wuNext = s.wuNext := rfl
@[simp] theorem State.at__win (s : State) (u : Cur) : (s.at_ u).win = s.win := rfl
@[simp] theorem State.at__psr (s : State) (u : Cur) : (s.at_ u).psr = s.psr := rfl
@[simp] theorem State.at__tlb (s : State) (u : Cur) : (s.at_ u).tlb = s.tlb := rfl
@[simp] theorem State.at__walks (s : State) (u : Cur) : (s.at_ u).walks = s.walks := rfl
@[simp] theorem State.at__ats (s : State) (u : Cur) : (s.at_ u).ats = s.ats := rfl
@[simp] theorem State.at__refused (s : State) (u : Cur) : (s.at_ u).refused = s.refused := rfl
@[simp] theorem State.at__launches (s : State) (u : Cur) : (s.at_ u).launches = s.launches := rfl
@[simp] theorem State.at__nextKey (s : State) (u : Cur) : (s.at_ u).nextKey = s.nextKey := rfl
@[simp] theorem State.at__lqFault (s : State) (u : Cur) : (s.at_ u).lqFault = s.lqFault := rfl
@[simp] theorem State.at__lqLevel (s : State) (u : Cur) : (s.at_ u).lqLevel = s.lqLevel := rfl
@[simp] theorem State.at__logCount (s : State) (u : Cur) : (s.at_ u).logCount = s.logCount := rfl
@[simp] theorem State.at__cqCount (s : State) (u : Cur) : (s.at_ u).cqCount = s.cqCount := rfl
@[simp] theorem State.at__poolStart (s : State) (u : Cur) : (s.at_ u).poolStart = s.poolStart := rfl
@[simp] theorem State.at__poolNext (s : State) (u : Cur) : (s.at_ u).poolNext = s.poolNext := rfl
@[simp] theorem State.at__hotStart (s : State) (u : Cur) : (s.at_ u).hotStart = s.hotStart := rfl
@[simp] theorem State.at__hbStart (s : State) (u : Cur) : (s.at_ u).hbStart = s.hbStart := rfl
@[simp] theorem State.at__reds (s : State) (u : Cur) : (s.at_ u).reds = s.reds := rfl
@[simp] theorem State.at__colls (s : State) (u : Cur) : (s.at_ u).colls = s.colls := rfl
@[simp] theorem State.at__chunks (s : State) (u : Cur) : (s.at_ u).chunks = s.chunks := rfl
@[simp] theorem State.at__scrubs (s : State) (u : Cur) : (s.at_ u).scrubs = s.scrubs := rfl
@[simp] theorem State.at__level (s : State) (u : Cur) : (s.at_ u).level = s.level := rfl
@[simp] theorem State.at__throtLow (s : State) (u : Cur) : (s.at_ u).throtLow = s.throtLow := rfl
@[simp] theorem State.at__lastMeas (s : State) (u : Cur) : (s.at_ u).lastMeas = s.lastMeas := rfl
@[simp] theorem State.at__measDue (s : State) (u : Cur) : (s.at_ u).measDue = s.measDue := rfl
@[simp] theorem State.at__floors (s : State) (u : Cur) : (s.at_ u).floors = s.floors := rfl
@[simp] theorem State.at__powered (s : State) (u : Cur) : (s.at_ u).powered = s.powered := rfl
@[simp] theorem State.at__perst (s : State) (u : Cur) : (s.at_ u).perst = s.perst := rfl
@[simp] theorem State.at__evicted (s : State) (u : Cur) : (s.at_ u).evicted = s.evicted := rfl
@[simp] theorem State.at__merged (s : State) (u : Cur) : (s.at_ u).merged = s.merged := rfl
@[simp] theorem State.at__domains (s : State) (u : Cur) : (s.at_ u).domains = s.domains := rfl
@[simp] theorem State.at__boot (s : State) (u : Cur) : (s.at_ u).boot = s.boot := rfl
@[simp] theorem State.at__resetNext (s : State) (u : Cur) : (s.at_ u).resetNext = s.resetNext := rfl
@[simp] theorem State.at__dieNext (s : State) (u : Cur) : (s.at_ u).dieNext = s.dieNext := rfl
@[simp] theorem State.at__rangerLog (s : State) (u : Cur) : (s.at_ u).rangerLog = s.rangerLog := rfl
@[simp] theorem State.at__cfg (s : State) (u : Cur) : (s.at_ u).cfg = s.cfg := rfl
@[simp] theorem State.at__msix (s : State) (u : Cur) : (s.at_ u).msix = s.msix := rfl
@[simp] theorem State.at__ptmDue (s : State) (u : Cur) : (s.at_ u).ptmDue = s.ptmDue := rfl
@[simp] theorem State.at__fnKill (s : State) (u : Cur) : (s.at_ u).fnKill = s.fnKill := rfl
@[simp] theorem State.at__auth (s : State) (u : Cur) : (s.at_ u).auth = s.auth := rfl
@[simp] theorem State.at__subs (s : State) (u : Cur) : (s.at_ u).subs = s.subs := rfl
@[simp] theorem State.at__slew (s : State) (u : Cur) : (s.at_ u).slew = s.slew := rfl
@[simp] theorem State.at__timeMeas (s : State) (u : Cur) : (s.at_ u).timeMeas = s.timeMeas := rfl
@[simp] theorem State.at__fnReset (s : State) (u : Cur) : (s.at_ u).fnReset = s.fnReset := rfl
@[simp] theorem State.at__jobs (s : State) (u : Cur) : (s.at_ u).jobs = s.jobs := rfl
@[simp] theorem State.at__farWaits (s : State) (u : Cur) : (s.at_ u).farWaits = s.farWaits := rfl
@[simp] theorem State.at__invs (s : State) (u : Cur) : (s.at_ u).invs = s.invs := rfl
@[simp] theorem State.at__alertAt (s : State) (u : Cur) : (s.at_ u).alertAt = s.alertAt := rfl
@[simp] theorem State.at__pwrMeasAt (s : State) (u : Cur) : (s.at_ u).pwrMeasAt = s.pwrMeasAt := rfl
@[simp] theorem State.at__jx9p (s : State) (u : Cur) : (s.at_ u).jx9p = s.jx9p := rfl
@[simp] theorem State.at__out (s : State) (u : Cur) : (s.at_ u).out = s.out := rfl

/-! ## State.issue -/

@[simp] theorem State.issue_cur (s : State) (i : Instr) (n : Nat) (f : Core → Op → Op) : (s.issue i n f).cur = s.cur := rfl
@[simp] theorem State.issue_turn (s : State) (i : Instr) (n : Nat) (f : Core → Op → Op) : (s.issue i n f).turn = s.turn := rfl
@[simp] theorem State.issue_inputs (s : State) (i : Instr) (n : Nat) (f : Core → Op → Op) : (s.issue i n f).inputs = s.inputs := rfl
@[simp] theorem State.issue_strikes (s : State) (i : Instr) (n : Nat) (f : Core → Op → Op) : (s.issue i n f).strikes = s.strikes := rfl
@[simp] theorem State.issue_freeCtr (s : State) (i : Instr) (n : Nat) (f : Core → Op → Op) : (s.issue i n f).freeCtr = s.freeCtr := rfl
@[simp] theorem State.issue_wall (s : State) (i : Instr) (n : Nat) (f : Core → Op → Op) : (s.issue i n f).wall = s.wall := rfl
@[simp] theorem State.issue_time (s : State) (i : Instr) (n : Nat) (f : Core → Op → Op) : (s.issue i n f).time = s.time := rfl
@[simp] theorem State.issue_frac (s : State) (i : Instr) (n : Nat) (f : Core → Op → Op) : (s.issue i n f).frac = s.frac := rfl
@[simp] theorem State.issue_memCap (s : State) (i : Instr) (n : Nat) (f : Core → Op → Op) : (s.issue i n f).memCap = s.memCap := rfl
@[simp] theorem State.issue_mem (s : State) (i : Instr) (n : Nat) (f : Core → Op → Op) : (s.issue i n f).mem = s.mem := rfl
@[simp] theorem State.issue_bad (s : State) (i : Instr) (n : Nat) (f : Core → Op → Op) : (s.issue i n f).bad = s.bad := rfl
@[simp] theorem State.issue_hot (s : State) (i : Instr) (n : Nat) (f : Core → Op → Op) : (s.issue i n f).hot = s.hot := rfl
@[simp] theorem State.issue_hotSeen (s : State) (i : Instr) (n : Nat) (f : Core → Op → Op) : (s.issue i n f).hotSeen = s.hotSeen := rfl
@[simp] theorem State.issue_atomCnt (s : State) (i : Instr) (n : Nat) (f : Core → Op → Op) : (s.issue i n f).atomCnt = s.atomCnt := rfl
@[simp] theorem State.issue_atomCand (s : State) (i : Instr) (n : Nat) (f : Core → Op → Op) : (s.issue i n f).atomCand = s.atomCand := rfl
@[simp] theorem State.issue_atomSeen (s : State) (i : Instr) (n : Nat) (f : Core → Op → Op) : (s.issue i n f).atomSeen = s.atomSeen := rfl
@[simp] theorem State.issue_l2 (s : State) (i : Instr) (n : Nat) (f : Core → Op → Op) : (s.issue i n f).l2 = s.l2 := rfl
@[simp] theorem State.issue_clr (s : State) (i : Instr) (n : Nat) (f : Core → Op → Op) : (s.issue i n f).clr = s.clr := rfl
@[simp] theorem State.issue_clrBad (s : State) (i : Instr) (n : Nat) (f : Core → Op → Op) : (s.issue i n f).clrBad = s.clrBad := rfl
@[simp] theorem State.issue_drainPass (s : State) (i : Instr) (n : Nat) (f : Core → Op → Op) : (s.issue i n f).drainPass = s.drainPass := rfl
@[simp] theorem State.issue_wuDue (s : State) (i : Instr) (n : Nat) (f : Core → Op → Op) : (s.issue i n f).wuDue = s.wuDue := rfl
@[simp] theorem State.issue_wuNext (s : State) (i : Instr) (n : Nat) (f : Core → Op → Op) : (s.issue i n f).wuNext = s.wuNext := rfl
@[simp] theorem State.issue_win (s : State) (i : Instr) (n : Nat) (f : Core → Op → Op) : (s.issue i n f).win = s.win := rfl
@[simp] theorem State.issue_psr (s : State) (i : Instr) (n : Nat) (f : Core → Op → Op) : (s.issue i n f).psr = s.psr := rfl
@[simp] theorem State.issue_tlb (s : State) (i : Instr) (n : Nat) (f : Core → Op → Op) : (s.issue i n f).tlb = s.tlb := rfl
@[simp] theorem State.issue_walks (s : State) (i : Instr) (n : Nat) (f : Core → Op → Op) : (s.issue i n f).walks = s.walks := rfl
@[simp] theorem State.issue_ats (s : State) (i : Instr) (n : Nat) (f : Core → Op → Op) : (s.issue i n f).ats = s.ats := rfl
@[simp] theorem State.issue_refused (s : State) (i : Instr) (n : Nat) (f : Core → Op → Op) : (s.issue i n f).refused = s.refused := rfl
@[simp] theorem State.issue_launches (s : State) (i : Instr) (n : Nat) (f : Core → Op → Op) : (s.issue i n f).launches = s.launches := rfl
@[simp] theorem State.issue_nextKey (s : State) (i : Instr) (n : Nat) (f : Core → Op → Op) : (s.issue i n f).nextKey = s.nextKey := rfl
@[simp] theorem State.issue_lqFault (s : State) (i : Instr) (n : Nat) (f : Core → Op → Op) : (s.issue i n f).lqFault = s.lqFault := rfl
@[simp] theorem State.issue_lqLevel (s : State) (i : Instr) (n : Nat) (f : Core → Op → Op) : (s.issue i n f).lqLevel = s.lqLevel := rfl
@[simp] theorem State.issue_logCount (s : State) (i : Instr) (n : Nat) (f : Core → Op → Op) : (s.issue i n f).logCount = s.logCount := rfl
@[simp] theorem State.issue_cqCount (s : State) (i : Instr) (n : Nat) (f : Core → Op → Op) : (s.issue i n f).cqCount = s.cqCount := rfl
@[simp] theorem State.issue_poolStart (s : State) (i : Instr) (n : Nat) (f : Core → Op → Op) : (s.issue i n f).poolStart = s.poolStart := rfl
@[simp] theorem State.issue_poolNext (s : State) (i : Instr) (n : Nat) (f : Core → Op → Op) : (s.issue i n f).poolNext = s.poolNext := rfl
@[simp] theorem State.issue_hotStart (s : State) (i : Instr) (n : Nat) (f : Core → Op → Op) : (s.issue i n f).hotStart = s.hotStart := rfl
@[simp] theorem State.issue_hbStart (s : State) (i : Instr) (n : Nat) (f : Core → Op → Op) : (s.issue i n f).hbStart = s.hbStart := rfl
@[simp] theorem State.issue_reds (s : State) (i : Instr) (n : Nat) (f : Core → Op → Op) : (s.issue i n f).reds = s.reds := rfl
@[simp] theorem State.issue_colls (s : State) (i : Instr) (n : Nat) (f : Core → Op → Op) : (s.issue i n f).colls = s.colls := rfl
@[simp] theorem State.issue_chunks (s : State) (i : Instr) (n : Nat) (f : Core → Op → Op) : (s.issue i n f).chunks = s.chunks := rfl
@[simp] theorem State.issue_scrubs (s : State) (i : Instr) (n : Nat) (f : Core → Op → Op) : (s.issue i n f).scrubs = s.scrubs := rfl
@[simp] theorem State.issue_level (s : State) (i : Instr) (n : Nat) (f : Core → Op → Op) : (s.issue i n f).level = s.level := rfl
@[simp] theorem State.issue_throtLow (s : State) (i : Instr) (n : Nat) (f : Core → Op → Op) : (s.issue i n f).throtLow = s.throtLow := rfl
@[simp] theorem State.issue_lastMeas (s : State) (i : Instr) (n : Nat) (f : Core → Op → Op) : (s.issue i n f).lastMeas = s.lastMeas := rfl
@[simp] theorem State.issue_measDue (s : State) (i : Instr) (n : Nat) (f : Core → Op → Op) : (s.issue i n f).measDue = s.measDue := rfl
@[simp] theorem State.issue_floors (s : State) (i : Instr) (n : Nat) (f : Core → Op → Op) : (s.issue i n f).floors = s.floors := rfl
@[simp] theorem State.issue_powered (s : State) (i : Instr) (n : Nat) (f : Core → Op → Op) : (s.issue i n f).powered = s.powered := rfl
@[simp] theorem State.issue_perst (s : State) (i : Instr) (n : Nat) (f : Core → Op → Op) : (s.issue i n f).perst = s.perst := rfl
@[simp] theorem State.issue_evicted (s : State) (i : Instr) (n : Nat) (f : Core → Op → Op) : (s.issue i n f).evicted = s.evicted := rfl
@[simp] theorem State.issue_merged (s : State) (i : Instr) (n : Nat) (f : Core → Op → Op) : (s.issue i n f).merged = s.merged := rfl
@[simp] theorem State.issue_domains (s : State) (i : Instr) (n : Nat) (f : Core → Op → Op) : (s.issue i n f).domains = s.domains := rfl
@[simp] theorem State.issue_boot (s : State) (i : Instr) (n : Nat) (f : Core → Op → Op) : (s.issue i n f).boot = s.boot := rfl
@[simp] theorem State.issue_resetNext (s : State) (i : Instr) (n : Nat) (f : Core → Op → Op) : (s.issue i n f).resetNext = s.resetNext := rfl
@[simp] theorem State.issue_dieNext (s : State) (i : Instr) (n : Nat) (f : Core → Op → Op) : (s.issue i n f).dieNext = s.dieNext := rfl
@[simp] theorem State.issue_rangerLog (s : State) (i : Instr) (n : Nat) (f : Core → Op → Op) : (s.issue i n f).rangerLog = s.rangerLog := rfl
@[simp] theorem State.issue_cfg (s : State) (i : Instr) (n : Nat) (f : Core → Op → Op) : (s.issue i n f).cfg = s.cfg := rfl
@[simp] theorem State.issue_msix (s : State) (i : Instr) (n : Nat) (f : Core → Op → Op) : (s.issue i n f).msix = s.msix := rfl
@[simp] theorem State.issue_ptmDue (s : State) (i : Instr) (n : Nat) (f : Core → Op → Op) : (s.issue i n f).ptmDue = s.ptmDue := rfl
@[simp] theorem State.issue_fnKill (s : State) (i : Instr) (n : Nat) (f : Core → Op → Op) : (s.issue i n f).fnKill = s.fnKill := rfl
@[simp] theorem State.issue_auth (s : State) (i : Instr) (n : Nat) (f : Core → Op → Op) : (s.issue i n f).auth = s.auth := rfl
@[simp] theorem State.issue_subs (s : State) (i : Instr) (n : Nat) (f : Core → Op → Op) : (s.issue i n f).subs = s.subs := rfl
@[simp] theorem State.issue_slew (s : State) (i : Instr) (n : Nat) (f : Core → Op → Op) : (s.issue i n f).slew = s.slew := rfl
@[simp] theorem State.issue_timeMeas (s : State) (i : Instr) (n : Nat) (f : Core → Op → Op) : (s.issue i n f).timeMeas = s.timeMeas := rfl
@[simp] theorem State.issue_fnReset (s : State) (i : Instr) (n : Nat) (f : Core → Op → Op) : (s.issue i n f).fnReset = s.fnReset := rfl
@[simp] theorem State.issue_jobs (s : State) (i : Instr) (n : Nat) (f : Core → Op → Op) : (s.issue i n f).jobs = s.jobs := rfl
@[simp] theorem State.issue_farWaits (s : State) (i : Instr) (n : Nat) (f : Core → Op → Op) : (s.issue i n f).farWaits = s.farWaits := rfl
@[simp] theorem State.issue_invs (s : State) (i : Instr) (n : Nat) (f : Core → Op → Op) : (s.issue i n f).invs = s.invs := rfl
@[simp] theorem State.issue_alertAt (s : State) (i : Instr) (n : Nat) (f : Core → Op → Op) : (s.issue i n f).alertAt = s.alertAt := rfl
@[simp] theorem State.issue_pwrMeasAt (s : State) (i : Instr) (n : Nat) (f : Core → Op → Op) : (s.issue i n f).pwrMeasAt = s.pwrMeasAt := rfl
@[simp] theorem State.issue_jx9p (s : State) (i : Instr) (n : Nat) (f : Core → Op → Op) : (s.issue i n f).jx9p = s.jx9p := rfl
@[simp] theorem State.issue_out (s : State) (i : Instr) (n : Nat) (f : Core → Op → Op) : (s.issue i n f).out = s.out := rfl

/-! ## Reading a core after an update -/

@[simp] theorem State.core_setCore (s : State) (c j : Nat) (k : Core) : (s.setCore c k).core j = if j = c then k else s.core j := by
  simp [State.core, State.setCore]
@[simp] theorem State.core_modCore (s : State) (c j : Nat) (f : Core → Core) :
    (s.modCore c f).core j = if j = c then f (s.core c) else s.core j := by simp [State.modCore]
@[simp] theorem State.core_modMe (s : State) (j : Nat) (f : Core → Core) :
    (s.modMe f).core j = if j = s.cur.core then f s.me else s.core j := by simp [State.modMe, State.me]
@[simp] theorem State.core_issue (s : State) (j n : Nat) (i : Instr) (f : Core → Op → Op) :
    (s.issue i n f).core j = if j = s.cur.core then s.me.push s.cur i n (f s.me) else s.core j := by simp [State.issue]
@[simp] theorem State.core_tickFree (s : State) (j : Nat) : (s.tickFree).core j = s.core j := rfl
@[simp] theorem State.core_send (s : State) (j : Nat) (m : Msg) : (s.send m).core j = s.core j := rfl
@[simp] theorem State.core_ww (s : State) (j : Nat) (o : Nat) (v : Word) : (s.ww o v).core j = s.core j := rfl
@[simp] theorem State.core_wp (s : State) (j : Nat) (p i : Nat) (v : Word) : (s.wp p i v).core j = s.core j := rfl
@[simp] theorem State.core_at_ (s : State) (j : Nat) (u : Cur) : (s.at_ u).core j = s.core j := rfl

/-! ## Reading a window register and a shared register after a write -/

@[simp] theorem State.rw_ww (s : State) (o j : Nat) (v : Word) : (s.ww o v).rw j = if j = o then v else s.rw j := by
  simp only [State.rw, State.ww]
  by_cases h : j = o
  · subst h; simp
  · simp only [h, if_false]; exact Sparse.get_set_other _ _ _ _ _ _ h
@[simp] theorem State.rp_wp (s : State) (p i j : Nat) (v : Word) : (s.wp p i v).rp p j = if j = i then v else s.rp p j := by
  simp only [State.rp, State.wp]
  by_cases h : j = i
  · subst h; simp
  · simp only [h, if_false]; exact Sparse.get_set_other _ _ _ _ _ _ (by omega)

/-! ## Core.wx -/

@[simp] theorem Core.wx_run (c : Core) (n : Nat) (w : Word) : (c.wx n w).run = c.run := by unfold Core.wx; split <;> rfl
@[simp] theorem Core.wx_sched (c : Core) (n : Nat) (w : Word) : (c.wx n w).sched = c.sched := by unfold Core.wx; split <;> rfl
@[simp] theorem Core.wx_pc (c : Core) (n : Nat) (w : Word) : (c.wx n w).pc = c.pc := by unfold Core.wx; split <;> rfl
@[simp] theorem Core.wx_level (c : Core) (n : Nat) (w : Word) : (c.wx n w).level = c.level := by unfold Core.wx; split <;> rfl
@[simp] theorem Core.wx_nextIssue (c : Core) (n : Nat) (w : Word) : (c.wx n w).nextIssue = c.nextIssue := by unfold Core.wx; split <;> rfl
@[simp] theorem Core.wx_pend (c : Core) (n : Nat) (w : Word) : (c.wx n w).pend = c.pend := by unfold Core.wx; split <;> rfl
@[simp] theorem Core.wx_nextId (c : Core) (n : Nat) (w : Word) : (c.wx n w).nextId = c.nextId := by unfold Core.wx; split <;> rfl
@[simp] theorem Core.wx_pipe (c : Core) (n : Nat) (w : Word) : (c.wx n w).pipe = c.pipe := by unfold Core.wx; split <;> rfl
@[simp] theorem Core.wx_v (c : Core) (n : Nat) (w : Word) : (c.wx n w).v = c.v := by unfold Core.wx; split <;> rfl
@[simp] theorem Core.wx_k (c : Core) (n : Nat) (w : Word) : (c.wx n w).k = c.k := by unfold Core.wx; split <;> rfl
@[simp] theorem Core.wx_latch (c : Core) (n : Nat) (w : Word) : (c.wx n w).latch = c.latch := by unfold Core.wx; split <;> rfl
@[simp] theorem Core.wx_res (c : Core) (n : Nat) (w : Word) : (c.wx n w).res = c.res := by unfold Core.wx; split <;> rfl
@[simp] theorem Core.wx_acc (c : Core) (n : Nat) (w : Word) : (c.wx n w).acc = c.acc := by unfold Core.wx; split <;> rfl
@[simp] theorem Core.wx_sig (c : Core) (n : Nat) (w : Word) : (c.wx n w).sig = c.sig := by unfold Core.wx; split <;> rfl
@[simp] theorem Core.wx_spm (c : Core) (n : Nat) (w : Word) : (c.wx n w).spm = c.spm := by unfold Core.wx; split <;> rfl
@[simp] theorem Core.wx_lane (c : Core) (n : Nat) (w : Word) : (c.wx n w).lane = c.lane := by unfold Core.wx; split <;> rfl
@[simp] theorem Core.wx_queues (c : Core) (n : Nat) (w : Word) : (c.wx n w).queues = c.queues := by unfold Core.wx; split <;> rfl
@[simp] theorem Core.wx_icache (c : Core) (n : Nat) (w : Word) : (c.wx n w).icache = c.icache := by unfold Core.wx; split <;> rfl
@[simp] theorem Core.wx_icAge (c : Core) (n : Nat) (w : Word) : (c.wx n w).icAge = c.icAge := by unfold Core.wx; split <;> rfl
@[simp] theorem Core.wx_fetchWait (c : Core) (n : Nat) (w : Word) : (c.wx n w).fetchWait = c.fetchWait := by unfold Core.wx; split <;> rfl
@[simp] theorem Core.wx_fetchFail (c : Core) (n : Nat) (w : Word) : (c.wx n w).fetchFail = c.fetchFail := by unfold Core.wx; split <;> rfl
@[simp] theorem Core.wx_sr (c : Core) (n : Nat) (w : Word) : (c.wx n w).sr = c.sr := by unfold Core.wx; split <;> rfl
@[simp] theorem Core.wx_mx (c : Core) (n : Nat) (w : Word) : (c.wx n w).mx = c.mx := by unfold Core.wx; split <;> rfl
@[simp] theorem Core.wx_unitEnd (c : Core) (n : Nat) (w : Word) : (c.wx n w).unitEnd = c.unitEnd := by unfold Core.wx; split <;> rfl
@[simp] theorem Core.wx_ports (c : Core) (n : Nat) (w : Word) : (c.wx n w).ports = c.ports := by unfold Core.wx; split <;> rfl
@[simp] theorem Core.wx_chans (c : Core) (n : Nat) (w : Word) : (c.wx n w).chans = c.chans := by unfold Core.wx; split <;> rfl
@[simp] theorem Core.wx_tokens (c : Core) (n : Nat) (w : Word) : (c.wx n w).tokens = c.tokens := by unfold Core.wx; split <;> rfl
@[simp] theorem Core.wx_groups (c : Core) (n : Nat) (w : Word) : (c.wx n w).groups = c.groups := by unfold Core.wx; split <;> rfl
@[simp] theorem Core.wx_handler (c : Core) (n : Nat) (w : Word) : (c.wx n w).handler = c.handler := by unfold Core.wx; split <;> rfl
@[simp] theorem Core.wx_hlevel (c : Core) (n : Nat) (w : Word) : (c.wx n w).hlevel = c.hlevel := by unfold Core.wx; split <;> rfl
@[simp] theorem Core.wx_ext (c : Core) (n : Nat) (w : Word) : (c.wx n w).ext = c.ext := by unfold Core.wx; split <;> rfl
@[simp] theorem Core.wx_trapped (c : Core) (n : Nat) (w : Word) : (c.wx n w).trapped = c.trapped := by unfold Core.wx; split <;> rfl
@[simp] theorem Core.wx_lastAddr (c : Core) (n : Nat) (w : Word) : (c.wx n w).lastAddr = c.lastAddr := by unfold Core.wx; split <;> rfl
@[simp] theorem Core.wx_resuming (c : Core) (n : Nat) (w : Word) : (c.wx n w).resuming = c.resuming := by unfold Core.wx; split <;> rfl
@[simp] theorem Core.wx_kept (c : Core) (n : Nat) (w : Word) : (c.wx n w).kept = c.kept := by unfold Core.wx; split <;> rfl
@[simp] theorem Core.wx_keptH (c : Core) (n : Nat) (w : Word) : (c.wx n w).keptH = c.keptH := by unfold Core.wx; split <;> rfl
@[simp] theorem Core.wx_staged (c : Core) (n : Nat) (w : Word) : (c.wx n w).staged = c.staged := by unfold Core.wx; split <;> rfl
@[simp] theorem Core.wx_hadEnded (c : Core) (n : Nat) (w : Word) : (c.wx n w).hadEnded = c.hadEnded := by unfold Core.wx; split <;> rfl
@[simp] theorem Core.wx_owed (c : Core) (n : Nat) (w : Word) : (c.wx n w).owed = c.owed := by unfold Core.wx; split <;> rfl
@[simp] theorem Core.wx_stopAt (c : Core) (n : Nat) (w : Word) : (c.wx n w).stopAt = c.stopAt := by unfold Core.wx; split <;> rfl
@[simp] theorem Core.wx_pops (c : Core) (n : Nat) (w : Word) : (c.wx n w).pops = c.pops := by unfold Core.wx; split <;> rfl
@[simp] theorem Core.wx_bundleId (c : Core) (n : Nat) (w : Word) : (c.wx n w).bundleId = c.bundleId := by unfold Core.wx; split <;> rfl
@[simp] theorem Core.wx_frozen (c : Core) (n : Nat) (w : Word) : (c.wx n w).frozen = c.frozen := by unfold Core.wx; split <;> rfl
@[simp] theorem Core.wx_swallowed (c : Core) (n : Nat) (w : Word) : (c.wx n w).swallowed = c.swallowed := by unfold Core.wx; split <;> rfl
@[simp] theorem Core.wx_freeze (c : Core) (n : Nat) (w : Word) : (c.wx n w).freeze = c.freeze := by unfold Core.wx; split <;> rfl
@[simp] theorem Core.wx_replay (c : Core) (n : Nat) (w : Word) : (c.wx n w).replay = c.replay := by unfold Core.wx; split <;> rfl
@[simp] theorem Core.wx_stepFrom (c : Core) (n : Nat) (w : Word) : (c.wx n w).stepFrom = c.stepFrom := by unfold Core.wx; split <;> rfl
@[simp] theorem Core.wx_skipBrk (c : Core) (n : Nat) (w : Word) : (c.wx n w).skipBrk = c.skipBrk := by unfold Core.wx; split <;> rfl
@[simp] theorem Core.wx_wmStop (c : Core) (n : Nat) (w : Word) : (c.wx n w).wmStop = c.wmStop := by unfold Core.wx; split <;> rfl
@[simp] theorem Core.wx_wmCount (c : Core) (n : Nat) (w : Word) : (c.wx n w).wmCount = c.wmCount := by unfold Core.wx; split <;> rfl
@[simp] theorem Core.wx_wdStart (c : Core) (n : Nat) (w : Word) : (c.wx n w).wdStart = c.wdStart := by unfold Core.wx; split <;> rfl
@[simp] theorem Core.wx_shadow (c : Core) (n : Nat) (w : Word) : (c.wx n w).shadow = c.shadow := by unfold Core.wx; split <;> rfl
@[simp] theorem Core.wx_launch (c : Core) (n : Nat) (w : Word) : (c.wx n w).launch = c.launch := by unfold Core.wx; split <;> rfl
@[simp] theorem Core.wx_lpos (c : Core) (n : Nat) (w : Word) : (c.wx n w).lpos = c.lpos := by unfold Core.wx; split <;> rfl
@[simp] theorem Core.wx_tile (c : Core) (n : Nat) (w : Word) : (c.wx n w).tile = c.tile := by unfold Core.wx; split <;> rfl
@[simp] theorem Core.wx_part (c : Core) (n : Nat) (w : Word) : (c.wx n w).part = c.part := by unfold Core.wx; split <;> rfl
@[simp] theorem Core.wx_prof (c : Core) (n : Nat) (w : Word) : (c.wx n w).prof = c.prof := by unfold Core.wx; split <;> rfl
@[simp] theorem Core.wx_trcIdx (c : Core) (n : Nat) (w : Word) : (c.wx n w).trcIdx = c.trcIdx := by unfold Core.wx; split <;> rfl
@[simp] theorem Core.wx_escal (c : Core) (n : Nat) (w : Word) : (c.wx n w).escal = c.escal := by unfold Core.wx; split <;> rfl
@[simp] theorem Core.wx_hadDone (c : Core) (n : Nat) (w : Word) : (c.wx n w).hadDone = c.hadDone := by unfold Core.wx; split <;> rfl
@[simp] theorem Core.wx_seat (c : Core) (n : Nat) (w : Word) : (c.wx n w).seat = c.seat := by unfold Core.wx; split <;> rfl
@[simp] theorem Core.wx_savedAt (c : Core) (n : Nat) (w : Word) : (c.wx n w).savedAt = c.savedAt := by unfold Core.wx; split <;> rfl
@[simp] theorem Core.wx_rportHeld (c : Core) (n : Nat) (w : Word) : (c.wx n w).rportHeld = c.rportHeld := by unfold Core.wx; split <;> rfl
@[simp] theorem Core.wx_mouter (c : Core) (n : Nat) (w : Word) : (c.wx n w).mouter = c.mouter := by unfold Core.wx; split <;> rfl
@[simp] theorem Core.wx_trcQ (c : Core) (n : Nat) (w : Word) : (c.wx n w).trcQ = c.trcQ := by unfold Core.wx; split <;> rfl
@[simp] theorem Core.wx_trcDue (c : Core) (n : Nat) (w : Word) : (c.wx n w).trcDue = c.trcDue := by unfold Core.wx; split <;> rfl
@[simp] theorem Core.wx_area (c : Core) (n : Nat) (w : Word) : (c.wx n w).area = c.area := by unfold Core.wx; split <;> rfl
@[simp] theorem Core.wx_rport (c : Core) (n : Nat) (w : Word) : (c.wx n w).rport = c.rport := by unfold Core.wx; split <;> rfl
@[simp] theorem Core.wx_rwrite (c : Core) (n : Nat) (w : Word) : (c.wx n w).rwrite = c.rwrite := by unfold Core.wx; split <;> rfl
@[simp] theorem Core.wx_rportBusy (c : Core) (n : Nat) (w : Word) : (c.wx n w).rportBusy = c.rportBusy := by unfold Core.wx; split <;> rfl
@[simp] theorem Core.wx_replayStart (c : Core) (n : Nat) (w : Word) : (c.wx n w).replayStart = c.replayStart := by unfold Core.wx; split <;> rfl
@[simp] theorem Core.wx_marginDue (c : Core) (n : Nat) (w : Word) : (c.wx n w).marginDue = c.marginDue := by unfold Core.wx; split <;> rfl
@[simp] theorem Core.wx_wit (c : Core) (n : Nat) (w : Word) : (c.wx n w).wit = c.wit := by unfold Core.wx; split <;> rfl
@[simp] theorem Core.wx_mretry (c : Core) (n : Nat) (w : Word) : (c.wx n w).mretry = c.mretry := by unfold Core.wx; split <;> rfl

/-! ## Core.wv -/

@[simp] theorem Core.wv_run (c : Core) (n : Nat) (w : Vec) : (c.wv n w).run = c.run := rfl
@[simp] theorem Core.wv_sched (c : Core) (n : Nat) (w : Vec) : (c.wv n w).sched = c.sched := rfl
@[simp] theorem Core.wv_pc (c : Core) (n : Nat) (w : Vec) : (c.wv n w).pc = c.pc := rfl
@[simp] theorem Core.wv_level (c : Core) (n : Nat) (w : Vec) : (c.wv n w).level = c.level := rfl
@[simp] theorem Core.wv_nextIssue (c : Core) (n : Nat) (w : Vec) : (c.wv n w).nextIssue = c.nextIssue := rfl
@[simp] theorem Core.wv_pend (c : Core) (n : Nat) (w : Vec) : (c.wv n w).pend = c.pend := rfl
@[simp] theorem Core.wv_nextId (c : Core) (n : Nat) (w : Vec) : (c.wv n w).nextId = c.nextId := rfl
@[simp] theorem Core.wv_pipe (c : Core) (n : Nat) (w : Vec) : (c.wv n w).pipe = c.pipe := rfl
@[simp] theorem Core.wv_x (c : Core) (n : Nat) (w : Vec) : (c.wv n w).x = c.x := rfl
@[simp] theorem Core.wv_k (c : Core) (n : Nat) (w : Vec) : (c.wv n w).k = c.k := rfl
@[simp] theorem Core.wv_latch (c : Core) (n : Nat) (w : Vec) : (c.wv n w).latch = c.latch := rfl
@[simp] theorem Core.wv_res (c : Core) (n : Nat) (w : Vec) : (c.wv n w).res = c.res := rfl
@[simp] theorem Core.wv_acc (c : Core) (n : Nat) (w : Vec) : (c.wv n w).acc = c.acc := rfl
@[simp] theorem Core.wv_sig (c : Core) (n : Nat) (w : Vec) : (c.wv n w).sig = c.sig := rfl
@[simp] theorem Core.wv_spm (c : Core) (n : Nat) (w : Vec) : (c.wv n w).spm = c.spm := rfl
@[simp] theorem Core.wv_lane (c : Core) (n : Nat) (w : Vec) : (c.wv n w).lane = c.lane := rfl
@[simp] theorem Core.wv_queues (c : Core) (n : Nat) (w : Vec) : (c.wv n w).queues = c.queues := rfl
@[simp] theorem Core.wv_icache (c : Core) (n : Nat) (w : Vec) : (c.wv n w).icache = c.icache := rfl
@[simp] theorem Core.wv_icAge (c : Core) (n : Nat) (w : Vec) : (c.wv n w).icAge = c.icAge := rfl
@[simp] theorem Core.wv_fetchWait (c : Core) (n : Nat) (w : Vec) : (c.wv n w).fetchWait = c.fetchWait := rfl
@[simp] theorem Core.wv_fetchFail (c : Core) (n : Nat) (w : Vec) : (c.wv n w).fetchFail = c.fetchFail := rfl
@[simp] theorem Core.wv_sr (c : Core) (n : Nat) (w : Vec) : (c.wv n w).sr = c.sr := rfl
@[simp] theorem Core.wv_mx (c : Core) (n : Nat) (w : Vec) : (c.wv n w).mx = c.mx := rfl
@[simp] theorem Core.wv_unitEnd (c : Core) (n : Nat) (w : Vec) : (c.wv n w).unitEnd = c.unitEnd := rfl
@[simp] theorem Core.wv_ports (c : Core) (n : Nat) (w : Vec) : (c.wv n w).ports = c.ports := rfl
@[simp] theorem Core.wv_chans (c : Core) (n : Nat) (w : Vec) : (c.wv n w).chans = c.chans := rfl
@[simp] theorem Core.wv_tokens (c : Core) (n : Nat) (w : Vec) : (c.wv n w).tokens = c.tokens := rfl
@[simp] theorem Core.wv_groups (c : Core) (n : Nat) (w : Vec) : (c.wv n w).groups = c.groups := rfl
@[simp] theorem Core.wv_handler (c : Core) (n : Nat) (w : Vec) : (c.wv n w).handler = c.handler := rfl
@[simp] theorem Core.wv_hlevel (c : Core) (n : Nat) (w : Vec) : (c.wv n w).hlevel = c.hlevel := rfl
@[simp] theorem Core.wv_ext (c : Core) (n : Nat) (w : Vec) : (c.wv n w).ext = c.ext := rfl
@[simp] theorem Core.wv_trapped (c : Core) (n : Nat) (w : Vec) : (c.wv n w).trapped = c.trapped := rfl
@[simp] theorem Core.wv_lastAddr (c : Core) (n : Nat) (w : Vec) : (c.wv n w).lastAddr = c.lastAddr := rfl
@[simp] theorem Core.wv_resuming (c : Core) (n : Nat) (w : Vec) : (c.wv n w).resuming = c.resuming := rfl
@[simp] theorem Core.wv_kept (c : Core) (n : Nat) (w : Vec) : (c.wv n w).kept = c.kept := rfl
@[simp] theorem Core.wv_keptH (c : Core) (n : Nat) (w : Vec) : (c.wv n w).keptH = c.keptH := rfl
@[simp] theorem Core.wv_staged (c : Core) (n : Nat) (w : Vec) : (c.wv n w).staged = c.staged := rfl
@[simp] theorem Core.wv_hadEnded (c : Core) (n : Nat) (w : Vec) : (c.wv n w).hadEnded = c.hadEnded := rfl
@[simp] theorem Core.wv_owed (c : Core) (n : Nat) (w : Vec) : (c.wv n w).owed = c.owed := rfl
@[simp] theorem Core.wv_stopAt (c : Core) (n : Nat) (w : Vec) : (c.wv n w).stopAt = c.stopAt := rfl
@[simp] theorem Core.wv_pops (c : Core) (n : Nat) (w : Vec) : (c.wv n w).pops = c.pops := rfl
@[simp] theorem Core.wv_bundleId (c : Core) (n : Nat) (w : Vec) : (c.wv n w).bundleId = c.bundleId := rfl
@[simp] theorem Core.wv_frozen (c : Core) (n : Nat) (w : Vec) : (c.wv n w).frozen = c.frozen := rfl
@[simp] theorem Core.wv_swallowed (c : Core) (n : Nat) (w : Vec) : (c.wv n w).swallowed = c.swallowed := rfl
@[simp] theorem Core.wv_freeze (c : Core) (n : Nat) (w : Vec) : (c.wv n w).freeze = c.freeze := rfl
@[simp] theorem Core.wv_replay (c : Core) (n : Nat) (w : Vec) : (c.wv n w).replay = c.replay := rfl
@[simp] theorem Core.wv_stepFrom (c : Core) (n : Nat) (w : Vec) : (c.wv n w).stepFrom = c.stepFrom := rfl
@[simp] theorem Core.wv_skipBrk (c : Core) (n : Nat) (w : Vec) : (c.wv n w).skipBrk = c.skipBrk := rfl
@[simp] theorem Core.wv_wmStop (c : Core) (n : Nat) (w : Vec) : (c.wv n w).wmStop = c.wmStop := rfl
@[simp] theorem Core.wv_wmCount (c : Core) (n : Nat) (w : Vec) : (c.wv n w).wmCount = c.wmCount := rfl
@[simp] theorem Core.wv_wdStart (c : Core) (n : Nat) (w : Vec) : (c.wv n w).wdStart = c.wdStart := rfl
@[simp] theorem Core.wv_shadow (c : Core) (n : Nat) (w : Vec) : (c.wv n w).shadow = c.shadow := rfl
@[simp] theorem Core.wv_launch (c : Core) (n : Nat) (w : Vec) : (c.wv n w).launch = c.launch := rfl
@[simp] theorem Core.wv_lpos (c : Core) (n : Nat) (w : Vec) : (c.wv n w).lpos = c.lpos := rfl
@[simp] theorem Core.wv_tile (c : Core) (n : Nat) (w : Vec) : (c.wv n w).tile = c.tile := rfl
@[simp] theorem Core.wv_part (c : Core) (n : Nat) (w : Vec) : (c.wv n w).part = c.part := rfl
@[simp] theorem Core.wv_prof (c : Core) (n : Nat) (w : Vec) : (c.wv n w).prof = c.prof := rfl
@[simp] theorem Core.wv_trcIdx (c : Core) (n : Nat) (w : Vec) : (c.wv n w).trcIdx = c.trcIdx := rfl
@[simp] theorem Core.wv_escal (c : Core) (n : Nat) (w : Vec) : (c.wv n w).escal = c.escal := rfl
@[simp] theorem Core.wv_hadDone (c : Core) (n : Nat) (w : Vec) : (c.wv n w).hadDone = c.hadDone := rfl
@[simp] theorem Core.wv_seat (c : Core) (n : Nat) (w : Vec) : (c.wv n w).seat = c.seat := rfl
@[simp] theorem Core.wv_savedAt (c : Core) (n : Nat) (w : Vec) : (c.wv n w).savedAt = c.savedAt := rfl
@[simp] theorem Core.wv_rportHeld (c : Core) (n : Nat) (w : Vec) : (c.wv n w).rportHeld = c.rportHeld := rfl
@[simp] theorem Core.wv_mouter (c : Core) (n : Nat) (w : Vec) : (c.wv n w).mouter = c.mouter := rfl
@[simp] theorem Core.wv_trcQ (c : Core) (n : Nat) (w : Vec) : (c.wv n w).trcQ = c.trcQ := rfl
@[simp] theorem Core.wv_trcDue (c : Core) (n : Nat) (w : Vec) : (c.wv n w).trcDue = c.trcDue := rfl
@[simp] theorem Core.wv_area (c : Core) (n : Nat) (w : Vec) : (c.wv n w).area = c.area := rfl
@[simp] theorem Core.wv_rport (c : Core) (n : Nat) (w : Vec) : (c.wv n w).rport = c.rport := rfl
@[simp] theorem Core.wv_rwrite (c : Core) (n : Nat) (w : Vec) : (c.wv n w).rwrite = c.rwrite := rfl
@[simp] theorem Core.wv_rportBusy (c : Core) (n : Nat) (w : Vec) : (c.wv n w).rportBusy = c.rportBusy := rfl
@[simp] theorem Core.wv_replayStart (c : Core) (n : Nat) (w : Vec) : (c.wv n w).replayStart = c.replayStart := rfl
@[simp] theorem Core.wv_marginDue (c : Core) (n : Nat) (w : Vec) : (c.wv n w).marginDue = c.marginDue := rfl
@[simp] theorem Core.wv_wit (c : Core) (n : Nat) (w : Vec) : (c.wv n w).wit = c.wit := rfl
@[simp] theorem Core.wv_mretry (c : Core) (n : Nat) (w : Vec) : (c.wv n w).mretry = c.mretry := rfl

/-! ## Core.wk -/

@[simp] theorem Core.wk_run (c : Core) (n : Nat) (w : BitVec 1024) : (c.wk n w).run = c.run := rfl
@[simp] theorem Core.wk_sched (c : Core) (n : Nat) (w : BitVec 1024) : (c.wk n w).sched = c.sched := rfl
@[simp] theorem Core.wk_pc (c : Core) (n : Nat) (w : BitVec 1024) : (c.wk n w).pc = c.pc := rfl
@[simp] theorem Core.wk_level (c : Core) (n : Nat) (w : BitVec 1024) : (c.wk n w).level = c.level := rfl
@[simp] theorem Core.wk_nextIssue (c : Core) (n : Nat) (w : BitVec 1024) : (c.wk n w).nextIssue = c.nextIssue := rfl
@[simp] theorem Core.wk_pend (c : Core) (n : Nat) (w : BitVec 1024) : (c.wk n w).pend = c.pend := rfl
@[simp] theorem Core.wk_nextId (c : Core) (n : Nat) (w : BitVec 1024) : (c.wk n w).nextId = c.nextId := rfl
@[simp] theorem Core.wk_pipe (c : Core) (n : Nat) (w : BitVec 1024) : (c.wk n w).pipe = c.pipe := rfl
@[simp] theorem Core.wk_x (c : Core) (n : Nat) (w : BitVec 1024) : (c.wk n w).x = c.x := rfl
@[simp] theorem Core.wk_v (c : Core) (n : Nat) (w : BitVec 1024) : (c.wk n w).v = c.v := rfl
@[simp] theorem Core.wk_latch (c : Core) (n : Nat) (w : BitVec 1024) : (c.wk n w).latch = c.latch := rfl
@[simp] theorem Core.wk_res (c : Core) (n : Nat) (w : BitVec 1024) : (c.wk n w).res = c.res := rfl
@[simp] theorem Core.wk_acc (c : Core) (n : Nat) (w : BitVec 1024) : (c.wk n w).acc = c.acc := rfl
@[simp] theorem Core.wk_sig (c : Core) (n : Nat) (w : BitVec 1024) : (c.wk n w).sig = c.sig := rfl
@[simp] theorem Core.wk_spm (c : Core) (n : Nat) (w : BitVec 1024) : (c.wk n w).spm = c.spm := rfl
@[simp] theorem Core.wk_lane (c : Core) (n : Nat) (w : BitVec 1024) : (c.wk n w).lane = c.lane := rfl
@[simp] theorem Core.wk_queues (c : Core) (n : Nat) (w : BitVec 1024) : (c.wk n w).queues = c.queues := rfl
@[simp] theorem Core.wk_icache (c : Core) (n : Nat) (w : BitVec 1024) : (c.wk n w).icache = c.icache := rfl
@[simp] theorem Core.wk_icAge (c : Core) (n : Nat) (w : BitVec 1024) : (c.wk n w).icAge = c.icAge := rfl
@[simp] theorem Core.wk_fetchWait (c : Core) (n : Nat) (w : BitVec 1024) : (c.wk n w).fetchWait = c.fetchWait := rfl
@[simp] theorem Core.wk_fetchFail (c : Core) (n : Nat) (w : BitVec 1024) : (c.wk n w).fetchFail = c.fetchFail := rfl
@[simp] theorem Core.wk_sr (c : Core) (n : Nat) (w : BitVec 1024) : (c.wk n w).sr = c.sr := rfl
@[simp] theorem Core.wk_mx (c : Core) (n : Nat) (w : BitVec 1024) : (c.wk n w).mx = c.mx := rfl
@[simp] theorem Core.wk_unitEnd (c : Core) (n : Nat) (w : BitVec 1024) : (c.wk n w).unitEnd = c.unitEnd := rfl
@[simp] theorem Core.wk_ports (c : Core) (n : Nat) (w : BitVec 1024) : (c.wk n w).ports = c.ports := rfl
@[simp] theorem Core.wk_chans (c : Core) (n : Nat) (w : BitVec 1024) : (c.wk n w).chans = c.chans := rfl
@[simp] theorem Core.wk_tokens (c : Core) (n : Nat) (w : BitVec 1024) : (c.wk n w).tokens = c.tokens := rfl
@[simp] theorem Core.wk_groups (c : Core) (n : Nat) (w : BitVec 1024) : (c.wk n w).groups = c.groups := rfl
@[simp] theorem Core.wk_handler (c : Core) (n : Nat) (w : BitVec 1024) : (c.wk n w).handler = c.handler := rfl
@[simp] theorem Core.wk_hlevel (c : Core) (n : Nat) (w : BitVec 1024) : (c.wk n w).hlevel = c.hlevel := rfl
@[simp] theorem Core.wk_ext (c : Core) (n : Nat) (w : BitVec 1024) : (c.wk n w).ext = c.ext := rfl
@[simp] theorem Core.wk_trapped (c : Core) (n : Nat) (w : BitVec 1024) : (c.wk n w).trapped = c.trapped := rfl
@[simp] theorem Core.wk_lastAddr (c : Core) (n : Nat) (w : BitVec 1024) : (c.wk n w).lastAddr = c.lastAddr := rfl
@[simp] theorem Core.wk_resuming (c : Core) (n : Nat) (w : BitVec 1024) : (c.wk n w).resuming = c.resuming := rfl
@[simp] theorem Core.wk_kept (c : Core) (n : Nat) (w : BitVec 1024) : (c.wk n w).kept = c.kept := rfl
@[simp] theorem Core.wk_keptH (c : Core) (n : Nat) (w : BitVec 1024) : (c.wk n w).keptH = c.keptH := rfl
@[simp] theorem Core.wk_staged (c : Core) (n : Nat) (w : BitVec 1024) : (c.wk n w).staged = c.staged := rfl
@[simp] theorem Core.wk_hadEnded (c : Core) (n : Nat) (w : BitVec 1024) : (c.wk n w).hadEnded = c.hadEnded := rfl
@[simp] theorem Core.wk_owed (c : Core) (n : Nat) (w : BitVec 1024) : (c.wk n w).owed = c.owed := rfl
@[simp] theorem Core.wk_stopAt (c : Core) (n : Nat) (w : BitVec 1024) : (c.wk n w).stopAt = c.stopAt := rfl
@[simp] theorem Core.wk_pops (c : Core) (n : Nat) (w : BitVec 1024) : (c.wk n w).pops = c.pops := rfl
@[simp] theorem Core.wk_bundleId (c : Core) (n : Nat) (w : BitVec 1024) : (c.wk n w).bundleId = c.bundleId := rfl
@[simp] theorem Core.wk_frozen (c : Core) (n : Nat) (w : BitVec 1024) : (c.wk n w).frozen = c.frozen := rfl
@[simp] theorem Core.wk_swallowed (c : Core) (n : Nat) (w : BitVec 1024) : (c.wk n w).swallowed = c.swallowed := rfl
@[simp] theorem Core.wk_freeze (c : Core) (n : Nat) (w : BitVec 1024) : (c.wk n w).freeze = c.freeze := rfl
@[simp] theorem Core.wk_replay (c : Core) (n : Nat) (w : BitVec 1024) : (c.wk n w).replay = c.replay := rfl
@[simp] theorem Core.wk_stepFrom (c : Core) (n : Nat) (w : BitVec 1024) : (c.wk n w).stepFrom = c.stepFrom := rfl
@[simp] theorem Core.wk_skipBrk (c : Core) (n : Nat) (w : BitVec 1024) : (c.wk n w).skipBrk = c.skipBrk := rfl
@[simp] theorem Core.wk_wmStop (c : Core) (n : Nat) (w : BitVec 1024) : (c.wk n w).wmStop = c.wmStop := rfl
@[simp] theorem Core.wk_wmCount (c : Core) (n : Nat) (w : BitVec 1024) : (c.wk n w).wmCount = c.wmCount := rfl
@[simp] theorem Core.wk_wdStart (c : Core) (n : Nat) (w : BitVec 1024) : (c.wk n w).wdStart = c.wdStart := rfl
@[simp] theorem Core.wk_shadow (c : Core) (n : Nat) (w : BitVec 1024) : (c.wk n w).shadow = c.shadow := rfl
@[simp] theorem Core.wk_launch (c : Core) (n : Nat) (w : BitVec 1024) : (c.wk n w).launch = c.launch := rfl
@[simp] theorem Core.wk_lpos (c : Core) (n : Nat) (w : BitVec 1024) : (c.wk n w).lpos = c.lpos := rfl
@[simp] theorem Core.wk_tile (c : Core) (n : Nat) (w : BitVec 1024) : (c.wk n w).tile = c.tile := rfl
@[simp] theorem Core.wk_part (c : Core) (n : Nat) (w : BitVec 1024) : (c.wk n w).part = c.part := rfl
@[simp] theorem Core.wk_prof (c : Core) (n : Nat) (w : BitVec 1024) : (c.wk n w).prof = c.prof := rfl
@[simp] theorem Core.wk_trcIdx (c : Core) (n : Nat) (w : BitVec 1024) : (c.wk n w).trcIdx = c.trcIdx := rfl
@[simp] theorem Core.wk_escal (c : Core) (n : Nat) (w : BitVec 1024) : (c.wk n w).escal = c.escal := rfl
@[simp] theorem Core.wk_hadDone (c : Core) (n : Nat) (w : BitVec 1024) : (c.wk n w).hadDone = c.hadDone := rfl
@[simp] theorem Core.wk_seat (c : Core) (n : Nat) (w : BitVec 1024) : (c.wk n w).seat = c.seat := rfl
@[simp] theorem Core.wk_savedAt (c : Core) (n : Nat) (w : BitVec 1024) : (c.wk n w).savedAt = c.savedAt := rfl
@[simp] theorem Core.wk_rportHeld (c : Core) (n : Nat) (w : BitVec 1024) : (c.wk n w).rportHeld = c.rportHeld := rfl
@[simp] theorem Core.wk_mouter (c : Core) (n : Nat) (w : BitVec 1024) : (c.wk n w).mouter = c.mouter := rfl
@[simp] theorem Core.wk_trcQ (c : Core) (n : Nat) (w : BitVec 1024) : (c.wk n w).trcQ = c.trcQ := rfl
@[simp] theorem Core.wk_trcDue (c : Core) (n : Nat) (w : BitVec 1024) : (c.wk n w).trcDue = c.trcDue := rfl
@[simp] theorem Core.wk_area (c : Core) (n : Nat) (w : BitVec 1024) : (c.wk n w).area = c.area := rfl
@[simp] theorem Core.wk_rport (c : Core) (n : Nat) (w : BitVec 1024) : (c.wk n w).rport = c.rport := rfl
@[simp] theorem Core.wk_rwrite (c : Core) (n : Nat) (w : BitVec 1024) : (c.wk n w).rwrite = c.rwrite := rfl
@[simp] theorem Core.wk_rportBusy (c : Core) (n : Nat) (w : BitVec 1024) : (c.wk n w).rportBusy = c.rportBusy := rfl
@[simp] theorem Core.wk_replayStart (c : Core) (n : Nat) (w : BitVec 1024) : (c.wk n w).replayStart = c.replayStart := rfl
@[simp] theorem Core.wk_marginDue (c : Core) (n : Nat) (w : BitVec 1024) : (c.wk n w).marginDue = c.marginDue := rfl
@[simp] theorem Core.wk_wit (c : Core) (n : Nat) (w : BitVec 1024) : (c.wk n w).wit = c.wit := rfl
@[simp] theorem Core.wk_mretry (c : Core) (n : Nat) (w : BitVec 1024) : (c.wk n w).mretry = c.mretry := rfl

/-! ## Core.wLatch -/

@[simp] theorem Core.wLatch_run (c : Core) (n : Nat) (w : Vec) : (c.wLatch n w).run = c.run := rfl
@[simp] theorem Core.wLatch_sched (c : Core) (n : Nat) (w : Vec) : (c.wLatch n w).sched = c.sched := rfl
@[simp] theorem Core.wLatch_pc (c : Core) (n : Nat) (w : Vec) : (c.wLatch n w).pc = c.pc := rfl
@[simp] theorem Core.wLatch_level (c : Core) (n : Nat) (w : Vec) : (c.wLatch n w).level = c.level := rfl
@[simp] theorem Core.wLatch_nextIssue (c : Core) (n : Nat) (w : Vec) : (c.wLatch n w).nextIssue = c.nextIssue := rfl
@[simp] theorem Core.wLatch_pend (c : Core) (n : Nat) (w : Vec) : (c.wLatch n w).pend = c.pend := rfl
@[simp] theorem Core.wLatch_nextId (c : Core) (n : Nat) (w : Vec) : (c.wLatch n w).nextId = c.nextId := rfl
@[simp] theorem Core.wLatch_pipe (c : Core) (n : Nat) (w : Vec) : (c.wLatch n w).pipe = c.pipe := rfl
@[simp] theorem Core.wLatch_x (c : Core) (n : Nat) (w : Vec) : (c.wLatch n w).x = c.x := rfl
@[simp] theorem Core.wLatch_v (c : Core) (n : Nat) (w : Vec) : (c.wLatch n w).v = c.v := rfl
@[simp] theorem Core.wLatch_k (c : Core) (n : Nat) (w : Vec) : (c.wLatch n w).k = c.k := rfl
@[simp] theorem Core.wLatch_res (c : Core) (n : Nat) (w : Vec) : (c.wLatch n w).res = c.res := rfl
@[simp] theorem Core.wLatch_acc (c : Core) (n : Nat) (w : Vec) : (c.wLatch n w).acc = c.acc := rfl
@[simp] theorem Core.wLatch_sig (c : Core) (n : Nat) (w : Vec) : (c.wLatch n w).sig = c.sig := rfl
@[simp] theorem Core.wLatch_spm (c : Core) (n : Nat) (w : Vec) : (c.wLatch n w).spm = c.spm := rfl
@[simp] theorem Core.wLatch_lane (c : Core) (n : Nat) (w : Vec) : (c.wLatch n w).lane = c.lane := rfl
@[simp] theorem Core.wLatch_queues (c : Core) (n : Nat) (w : Vec) : (c.wLatch n w).queues = c.queues := rfl
@[simp] theorem Core.wLatch_icache (c : Core) (n : Nat) (w : Vec) : (c.wLatch n w).icache = c.icache := rfl
@[simp] theorem Core.wLatch_icAge (c : Core) (n : Nat) (w : Vec) : (c.wLatch n w).icAge = c.icAge := rfl
@[simp] theorem Core.wLatch_fetchWait (c : Core) (n : Nat) (w : Vec) : (c.wLatch n w).fetchWait = c.fetchWait := rfl
@[simp] theorem Core.wLatch_fetchFail (c : Core) (n : Nat) (w : Vec) : (c.wLatch n w).fetchFail = c.fetchFail := rfl
@[simp] theorem Core.wLatch_sr (c : Core) (n : Nat) (w : Vec) : (c.wLatch n w).sr = c.sr := rfl
@[simp] theorem Core.wLatch_mx (c : Core) (n : Nat) (w : Vec) : (c.wLatch n w).mx = c.mx := rfl
@[simp] theorem Core.wLatch_unitEnd (c : Core) (n : Nat) (w : Vec) : (c.wLatch n w).unitEnd = c.unitEnd := rfl
@[simp] theorem Core.wLatch_ports (c : Core) (n : Nat) (w : Vec) : (c.wLatch n w).ports = c.ports := rfl
@[simp] theorem Core.wLatch_chans (c : Core) (n : Nat) (w : Vec) : (c.wLatch n w).chans = c.chans := rfl
@[simp] theorem Core.wLatch_tokens (c : Core) (n : Nat) (w : Vec) : (c.wLatch n w).tokens = c.tokens := rfl
@[simp] theorem Core.wLatch_groups (c : Core) (n : Nat) (w : Vec) : (c.wLatch n w).groups = c.groups := rfl
@[simp] theorem Core.wLatch_handler (c : Core) (n : Nat) (w : Vec) : (c.wLatch n w).handler = c.handler := rfl
@[simp] theorem Core.wLatch_hlevel (c : Core) (n : Nat) (w : Vec) : (c.wLatch n w).hlevel = c.hlevel := rfl
@[simp] theorem Core.wLatch_ext (c : Core) (n : Nat) (w : Vec) : (c.wLatch n w).ext = c.ext := rfl
@[simp] theorem Core.wLatch_trapped (c : Core) (n : Nat) (w : Vec) : (c.wLatch n w).trapped = c.trapped := rfl
@[simp] theorem Core.wLatch_lastAddr (c : Core) (n : Nat) (w : Vec) : (c.wLatch n w).lastAddr = c.lastAddr := rfl
@[simp] theorem Core.wLatch_resuming (c : Core) (n : Nat) (w : Vec) : (c.wLatch n w).resuming = c.resuming := rfl
@[simp] theorem Core.wLatch_kept (c : Core) (n : Nat) (w : Vec) : (c.wLatch n w).kept = c.kept := rfl
@[simp] theorem Core.wLatch_keptH (c : Core) (n : Nat) (w : Vec) : (c.wLatch n w).keptH = c.keptH := rfl
@[simp] theorem Core.wLatch_staged (c : Core) (n : Nat) (w : Vec) : (c.wLatch n w).staged = c.staged := rfl
@[simp] theorem Core.wLatch_hadEnded (c : Core) (n : Nat) (w : Vec) : (c.wLatch n w).hadEnded = c.hadEnded := rfl
@[simp] theorem Core.wLatch_owed (c : Core) (n : Nat) (w : Vec) : (c.wLatch n w).owed = c.owed := rfl
@[simp] theorem Core.wLatch_stopAt (c : Core) (n : Nat) (w : Vec) : (c.wLatch n w).stopAt = c.stopAt := rfl
@[simp] theorem Core.wLatch_pops (c : Core) (n : Nat) (w : Vec) : (c.wLatch n w).pops = c.pops := rfl
@[simp] theorem Core.wLatch_bundleId (c : Core) (n : Nat) (w : Vec) : (c.wLatch n w).bundleId = c.bundleId := rfl
@[simp] theorem Core.wLatch_frozen (c : Core) (n : Nat) (w : Vec) : (c.wLatch n w).frozen = c.frozen := rfl
@[simp] theorem Core.wLatch_swallowed (c : Core) (n : Nat) (w : Vec) : (c.wLatch n w).swallowed = c.swallowed := rfl
@[simp] theorem Core.wLatch_freeze (c : Core) (n : Nat) (w : Vec) : (c.wLatch n w).freeze = c.freeze := rfl
@[simp] theorem Core.wLatch_replay (c : Core) (n : Nat) (w : Vec) : (c.wLatch n w).replay = c.replay := rfl
@[simp] theorem Core.wLatch_stepFrom (c : Core) (n : Nat) (w : Vec) : (c.wLatch n w).stepFrom = c.stepFrom := rfl
@[simp] theorem Core.wLatch_skipBrk (c : Core) (n : Nat) (w : Vec) : (c.wLatch n w).skipBrk = c.skipBrk := rfl
@[simp] theorem Core.wLatch_wmStop (c : Core) (n : Nat) (w : Vec) : (c.wLatch n w).wmStop = c.wmStop := rfl
@[simp] theorem Core.wLatch_wmCount (c : Core) (n : Nat) (w : Vec) : (c.wLatch n w).wmCount = c.wmCount := rfl
@[simp] theorem Core.wLatch_wdStart (c : Core) (n : Nat) (w : Vec) : (c.wLatch n w).wdStart = c.wdStart := rfl
@[simp] theorem Core.wLatch_shadow (c : Core) (n : Nat) (w : Vec) : (c.wLatch n w).shadow = c.shadow := rfl
@[simp] theorem Core.wLatch_launch (c : Core) (n : Nat) (w : Vec) : (c.wLatch n w).launch = c.launch := rfl
@[simp] theorem Core.wLatch_lpos (c : Core) (n : Nat) (w : Vec) : (c.wLatch n w).lpos = c.lpos := rfl
@[simp] theorem Core.wLatch_tile (c : Core) (n : Nat) (w : Vec) : (c.wLatch n w).tile = c.tile := rfl
@[simp] theorem Core.wLatch_part (c : Core) (n : Nat) (w : Vec) : (c.wLatch n w).part = c.part := rfl
@[simp] theorem Core.wLatch_prof (c : Core) (n : Nat) (w : Vec) : (c.wLatch n w).prof = c.prof := rfl
@[simp] theorem Core.wLatch_trcIdx (c : Core) (n : Nat) (w : Vec) : (c.wLatch n w).trcIdx = c.trcIdx := rfl
@[simp] theorem Core.wLatch_escal (c : Core) (n : Nat) (w : Vec) : (c.wLatch n w).escal = c.escal := rfl
@[simp] theorem Core.wLatch_hadDone (c : Core) (n : Nat) (w : Vec) : (c.wLatch n w).hadDone = c.hadDone := rfl
@[simp] theorem Core.wLatch_seat (c : Core) (n : Nat) (w : Vec) : (c.wLatch n w).seat = c.seat := rfl
@[simp] theorem Core.wLatch_savedAt (c : Core) (n : Nat) (w : Vec) : (c.wLatch n w).savedAt = c.savedAt := rfl
@[simp] theorem Core.wLatch_rportHeld (c : Core) (n : Nat) (w : Vec) : (c.wLatch n w).rportHeld = c.rportHeld := rfl
@[simp] theorem Core.wLatch_mouter (c : Core) (n : Nat) (w : Vec) : (c.wLatch n w).mouter = c.mouter := rfl
@[simp] theorem Core.wLatch_trcQ (c : Core) (n : Nat) (w : Vec) : (c.wLatch n w).trcQ = c.trcQ := rfl
@[simp] theorem Core.wLatch_trcDue (c : Core) (n : Nat) (w : Vec) : (c.wLatch n w).trcDue = c.trcDue := rfl
@[simp] theorem Core.wLatch_area (c : Core) (n : Nat) (w : Vec) : (c.wLatch n w).area = c.area := rfl
@[simp] theorem Core.wLatch_rport (c : Core) (n : Nat) (w : Vec) : (c.wLatch n w).rport = c.rport := rfl
@[simp] theorem Core.wLatch_rwrite (c : Core) (n : Nat) (w : Vec) : (c.wLatch n w).rwrite = c.rwrite := rfl
@[simp] theorem Core.wLatch_rportBusy (c : Core) (n : Nat) (w : Vec) : (c.wLatch n w).rportBusy = c.rportBusy := rfl
@[simp] theorem Core.wLatch_replayStart (c : Core) (n : Nat) (w : Vec) : (c.wLatch n w).replayStart = c.replayStart := rfl
@[simp] theorem Core.wLatch_marginDue (c : Core) (n : Nat) (w : Vec) : (c.wLatch n w).marginDue = c.marginDue := rfl
@[simp] theorem Core.wLatch_wit (c : Core) (n : Nat) (w : Vec) : (c.wLatch n w).wit = c.wit := rfl
@[simp] theorem Core.wLatch_mretry (c : Core) (n : Nat) (w : Vec) : (c.wLatch n w).mretry = c.mretry := rfl

/-! ## Core.wRes -/

@[simp] theorem Core.wRes_run (c : Core) (n : Nat) (w : Vec) : (c.wRes n w).run = c.run := rfl
@[simp] theorem Core.wRes_sched (c : Core) (n : Nat) (w : Vec) : (c.wRes n w).sched = c.sched := rfl
@[simp] theorem Core.wRes_pc (c : Core) (n : Nat) (w : Vec) : (c.wRes n w).pc = c.pc := rfl
@[simp] theorem Core.wRes_level (c : Core) (n : Nat) (w : Vec) : (c.wRes n w).level = c.level := rfl
@[simp] theorem Core.wRes_nextIssue (c : Core) (n : Nat) (w : Vec) : (c.wRes n w).nextIssue = c.nextIssue := rfl
@[simp] theorem Core.wRes_pend (c : Core) (n : Nat) (w : Vec) : (c.wRes n w).pend = c.pend := rfl
@[simp] theorem Core.wRes_nextId (c : Core) (n : Nat) (w : Vec) : (c.wRes n w).nextId = c.nextId := rfl
@[simp] theorem Core.wRes_pipe (c : Core) (n : Nat) (w : Vec) : (c.wRes n w).pipe = c.pipe := rfl
@[simp] theorem Core.wRes_x (c : Core) (n : Nat) (w : Vec) : (c.wRes n w).x = c.x := rfl
@[simp] theorem Core.wRes_v (c : Core) (n : Nat) (w : Vec) : (c.wRes n w).v = c.v := rfl
@[simp] theorem Core.wRes_k (c : Core) (n : Nat) (w : Vec) : (c.wRes n w).k = c.k := rfl
@[simp] theorem Core.wRes_latch (c : Core) (n : Nat) (w : Vec) : (c.wRes n w).latch = c.latch := rfl
@[simp] theorem Core.wRes_acc (c : Core) (n : Nat) (w : Vec) : (c.wRes n w).acc = c.acc := rfl
@[simp] theorem Core.wRes_sig (c : Core) (n : Nat) (w : Vec) : (c.wRes n w).sig = c.sig := rfl
@[simp] theorem Core.wRes_spm (c : Core) (n : Nat) (w : Vec) : (c.wRes n w).spm = c.spm := rfl
@[simp] theorem Core.wRes_lane (c : Core) (n : Nat) (w : Vec) : (c.wRes n w).lane = c.lane := rfl
@[simp] theorem Core.wRes_queues (c : Core) (n : Nat) (w : Vec) : (c.wRes n w).queues = c.queues := rfl
@[simp] theorem Core.wRes_icache (c : Core) (n : Nat) (w : Vec) : (c.wRes n w).icache = c.icache := rfl
@[simp] theorem Core.wRes_icAge (c : Core) (n : Nat) (w : Vec) : (c.wRes n w).icAge = c.icAge := rfl
@[simp] theorem Core.wRes_fetchWait (c : Core) (n : Nat) (w : Vec) : (c.wRes n w).fetchWait = c.fetchWait := rfl
@[simp] theorem Core.wRes_fetchFail (c : Core) (n : Nat) (w : Vec) : (c.wRes n w).fetchFail = c.fetchFail := rfl
@[simp] theorem Core.wRes_sr (c : Core) (n : Nat) (w : Vec) : (c.wRes n w).sr = c.sr := rfl
@[simp] theorem Core.wRes_mx (c : Core) (n : Nat) (w : Vec) : (c.wRes n w).mx = c.mx := rfl
@[simp] theorem Core.wRes_unitEnd (c : Core) (n : Nat) (w : Vec) : (c.wRes n w).unitEnd = c.unitEnd := rfl
@[simp] theorem Core.wRes_ports (c : Core) (n : Nat) (w : Vec) : (c.wRes n w).ports = c.ports := rfl
@[simp] theorem Core.wRes_chans (c : Core) (n : Nat) (w : Vec) : (c.wRes n w).chans = c.chans := rfl
@[simp] theorem Core.wRes_tokens (c : Core) (n : Nat) (w : Vec) : (c.wRes n w).tokens = c.tokens := rfl
@[simp] theorem Core.wRes_groups (c : Core) (n : Nat) (w : Vec) : (c.wRes n w).groups = c.groups := rfl
@[simp] theorem Core.wRes_handler (c : Core) (n : Nat) (w : Vec) : (c.wRes n w).handler = c.handler := rfl
@[simp] theorem Core.wRes_hlevel (c : Core) (n : Nat) (w : Vec) : (c.wRes n w).hlevel = c.hlevel := rfl
@[simp] theorem Core.wRes_ext (c : Core) (n : Nat) (w : Vec) : (c.wRes n w).ext = c.ext := rfl
@[simp] theorem Core.wRes_trapped (c : Core) (n : Nat) (w : Vec) : (c.wRes n w).trapped = c.trapped := rfl
@[simp] theorem Core.wRes_lastAddr (c : Core) (n : Nat) (w : Vec) : (c.wRes n w).lastAddr = c.lastAddr := rfl
@[simp] theorem Core.wRes_resuming (c : Core) (n : Nat) (w : Vec) : (c.wRes n w).resuming = c.resuming := rfl
@[simp] theorem Core.wRes_kept (c : Core) (n : Nat) (w : Vec) : (c.wRes n w).kept = c.kept := rfl
@[simp] theorem Core.wRes_keptH (c : Core) (n : Nat) (w : Vec) : (c.wRes n w).keptH = c.keptH := rfl
@[simp] theorem Core.wRes_staged (c : Core) (n : Nat) (w : Vec) : (c.wRes n w).staged = c.staged := rfl
@[simp] theorem Core.wRes_hadEnded (c : Core) (n : Nat) (w : Vec) : (c.wRes n w).hadEnded = c.hadEnded := rfl
@[simp] theorem Core.wRes_owed (c : Core) (n : Nat) (w : Vec) : (c.wRes n w).owed = c.owed := rfl
@[simp] theorem Core.wRes_stopAt (c : Core) (n : Nat) (w : Vec) : (c.wRes n w).stopAt = c.stopAt := rfl
@[simp] theorem Core.wRes_pops (c : Core) (n : Nat) (w : Vec) : (c.wRes n w).pops = c.pops := rfl
@[simp] theorem Core.wRes_bundleId (c : Core) (n : Nat) (w : Vec) : (c.wRes n w).bundleId = c.bundleId := rfl
@[simp] theorem Core.wRes_frozen (c : Core) (n : Nat) (w : Vec) : (c.wRes n w).frozen = c.frozen := rfl
@[simp] theorem Core.wRes_swallowed (c : Core) (n : Nat) (w : Vec) : (c.wRes n w).swallowed = c.swallowed := rfl
@[simp] theorem Core.wRes_freeze (c : Core) (n : Nat) (w : Vec) : (c.wRes n w).freeze = c.freeze := rfl
@[simp] theorem Core.wRes_replay (c : Core) (n : Nat) (w : Vec) : (c.wRes n w).replay = c.replay := rfl
@[simp] theorem Core.wRes_stepFrom (c : Core) (n : Nat) (w : Vec) : (c.wRes n w).stepFrom = c.stepFrom := rfl
@[simp] theorem Core.wRes_skipBrk (c : Core) (n : Nat) (w : Vec) : (c.wRes n w).skipBrk = c.skipBrk := rfl
@[simp] theorem Core.wRes_wmStop (c : Core) (n : Nat) (w : Vec) : (c.wRes n w).wmStop = c.wmStop := rfl
@[simp] theorem Core.wRes_wmCount (c : Core) (n : Nat) (w : Vec) : (c.wRes n w).wmCount = c.wmCount := rfl
@[simp] theorem Core.wRes_wdStart (c : Core) (n : Nat) (w : Vec) : (c.wRes n w).wdStart = c.wdStart := rfl
@[simp] theorem Core.wRes_shadow (c : Core) (n : Nat) (w : Vec) : (c.wRes n w).shadow = c.shadow := rfl
@[simp] theorem Core.wRes_launch (c : Core) (n : Nat) (w : Vec) : (c.wRes n w).launch = c.launch := rfl
@[simp] theorem Core.wRes_lpos (c : Core) (n : Nat) (w : Vec) : (c.wRes n w).lpos = c.lpos := rfl
@[simp] theorem Core.wRes_tile (c : Core) (n : Nat) (w : Vec) : (c.wRes n w).tile = c.tile := rfl
@[simp] theorem Core.wRes_part (c : Core) (n : Nat) (w : Vec) : (c.wRes n w).part = c.part := rfl
@[simp] theorem Core.wRes_prof (c : Core) (n : Nat) (w : Vec) : (c.wRes n w).prof = c.prof := rfl
@[simp] theorem Core.wRes_trcIdx (c : Core) (n : Nat) (w : Vec) : (c.wRes n w).trcIdx = c.trcIdx := rfl
@[simp] theorem Core.wRes_escal (c : Core) (n : Nat) (w : Vec) : (c.wRes n w).escal = c.escal := rfl
@[simp] theorem Core.wRes_hadDone (c : Core) (n : Nat) (w : Vec) : (c.wRes n w).hadDone = c.hadDone := rfl
@[simp] theorem Core.wRes_seat (c : Core) (n : Nat) (w : Vec) : (c.wRes n w).seat = c.seat := rfl
@[simp] theorem Core.wRes_savedAt (c : Core) (n : Nat) (w : Vec) : (c.wRes n w).savedAt = c.savedAt := rfl
@[simp] theorem Core.wRes_rportHeld (c : Core) (n : Nat) (w : Vec) : (c.wRes n w).rportHeld = c.rportHeld := rfl
@[simp] theorem Core.wRes_mouter (c : Core) (n : Nat) (w : Vec) : (c.wRes n w).mouter = c.mouter := rfl
@[simp] theorem Core.wRes_trcQ (c : Core) (n : Nat) (w : Vec) : (c.wRes n w).trcQ = c.trcQ := rfl
@[simp] theorem Core.wRes_trcDue (c : Core) (n : Nat) (w : Vec) : (c.wRes n w).trcDue = c.trcDue := rfl
@[simp] theorem Core.wRes_area (c : Core) (n : Nat) (w : Vec) : (c.wRes n w).area = c.area := rfl
@[simp] theorem Core.wRes_rport (c : Core) (n : Nat) (w : Vec) : (c.wRes n w).rport = c.rport := rfl
@[simp] theorem Core.wRes_rwrite (c : Core) (n : Nat) (w : Vec) : (c.wRes n w).rwrite = c.rwrite := rfl
@[simp] theorem Core.wRes_rportBusy (c : Core) (n : Nat) (w : Vec) : (c.wRes n w).rportBusy = c.rportBusy := rfl
@[simp] theorem Core.wRes_replayStart (c : Core) (n : Nat) (w : Vec) : (c.wRes n w).replayStart = c.replayStart := rfl
@[simp] theorem Core.wRes_marginDue (c : Core) (n : Nat) (w : Vec) : (c.wRes n w).marginDue = c.marginDue := rfl
@[simp] theorem Core.wRes_wit (c : Core) (n : Nat) (w : Vec) : (c.wRes n w).wit = c.wit := rfl
@[simp] theorem Core.wRes_mretry (c : Core) (n : Nat) (w : Vec) : (c.wRes n w).mretry = c.mretry := rfl

/-! ## Core.wsr -/

@[simp] theorem Core.wsr_run (c : Core) (n : Nat) (w : Word) : (c.wsr n w).run = c.run := rfl
@[simp] theorem Core.wsr_sched (c : Core) (n : Nat) (w : Word) : (c.wsr n w).sched = c.sched := rfl
@[simp] theorem Core.wsr_pc (c : Core) (n : Nat) (w : Word) : (c.wsr n w).pc = c.pc := rfl
@[simp] theorem Core.wsr_level (c : Core) (n : Nat) (w : Word) : (c.wsr n w).level = c.level := rfl
@[simp] theorem Core.wsr_nextIssue (c : Core) (n : Nat) (w : Word) : (c.wsr n w).nextIssue = c.nextIssue := rfl
@[simp] theorem Core.wsr_pend (c : Core) (n : Nat) (w : Word) : (c.wsr n w).pend = c.pend := rfl
@[simp] theorem Core.wsr_nextId (c : Core) (n : Nat) (w : Word) : (c.wsr n w).nextId = c.nextId := rfl
@[simp] theorem Core.wsr_pipe (c : Core) (n : Nat) (w : Word) : (c.wsr n w).pipe = c.pipe := rfl
@[simp] theorem Core.wsr_x (c : Core) (n : Nat) (w : Word) : (c.wsr n w).x = c.x := rfl
@[simp] theorem Core.wsr_v (c : Core) (n : Nat) (w : Word) : (c.wsr n w).v = c.v := rfl
@[simp] theorem Core.wsr_k (c : Core) (n : Nat) (w : Word) : (c.wsr n w).k = c.k := rfl
@[simp] theorem Core.wsr_latch (c : Core) (n : Nat) (w : Word) : (c.wsr n w).latch = c.latch := rfl
@[simp] theorem Core.wsr_res (c : Core) (n : Nat) (w : Word) : (c.wsr n w).res = c.res := rfl
@[simp] theorem Core.wsr_acc (c : Core) (n : Nat) (w : Word) : (c.wsr n w).acc = c.acc := rfl
@[simp] theorem Core.wsr_sig (c : Core) (n : Nat) (w : Word) : (c.wsr n w).sig = c.sig := rfl
@[simp] theorem Core.wsr_spm (c : Core) (n : Nat) (w : Word) : (c.wsr n w).spm = c.spm := rfl
@[simp] theorem Core.wsr_lane (c : Core) (n : Nat) (w : Word) : (c.wsr n w).lane = c.lane := rfl
@[simp] theorem Core.wsr_queues (c : Core) (n : Nat) (w : Word) : (c.wsr n w).queues = c.queues := rfl
@[simp] theorem Core.wsr_icache (c : Core) (n : Nat) (w : Word) : (c.wsr n w).icache = c.icache := rfl
@[simp] theorem Core.wsr_icAge (c : Core) (n : Nat) (w : Word) : (c.wsr n w).icAge = c.icAge := rfl
@[simp] theorem Core.wsr_fetchWait (c : Core) (n : Nat) (w : Word) : (c.wsr n w).fetchWait = c.fetchWait := rfl
@[simp] theorem Core.wsr_fetchFail (c : Core) (n : Nat) (w : Word) : (c.wsr n w).fetchFail = c.fetchFail := rfl
@[simp] theorem Core.wsr_mx (c : Core) (n : Nat) (w : Word) : (c.wsr n w).mx = c.mx := rfl
@[simp] theorem Core.wsr_unitEnd (c : Core) (n : Nat) (w : Word) : (c.wsr n w).unitEnd = c.unitEnd := rfl
@[simp] theorem Core.wsr_ports (c : Core) (n : Nat) (w : Word) : (c.wsr n w).ports = c.ports := rfl
@[simp] theorem Core.wsr_chans (c : Core) (n : Nat) (w : Word) : (c.wsr n w).chans = c.chans := rfl
@[simp] theorem Core.wsr_tokens (c : Core) (n : Nat) (w : Word) : (c.wsr n w).tokens = c.tokens := rfl
@[simp] theorem Core.wsr_groups (c : Core) (n : Nat) (w : Word) : (c.wsr n w).groups = c.groups := rfl
@[simp] theorem Core.wsr_handler (c : Core) (n : Nat) (w : Word) : (c.wsr n w).handler = c.handler := rfl
@[simp] theorem Core.wsr_hlevel (c : Core) (n : Nat) (w : Word) : (c.wsr n w).hlevel = c.hlevel := rfl
@[simp] theorem Core.wsr_ext (c : Core) (n : Nat) (w : Word) : (c.wsr n w).ext = c.ext := rfl
@[simp] theorem Core.wsr_trapped (c : Core) (n : Nat) (w : Word) : (c.wsr n w).trapped = c.trapped := rfl
@[simp] theorem Core.wsr_lastAddr (c : Core) (n : Nat) (w : Word) : (c.wsr n w).lastAddr = c.lastAddr := rfl
@[simp] theorem Core.wsr_resuming (c : Core) (n : Nat) (w : Word) : (c.wsr n w).resuming = c.resuming := rfl
@[simp] theorem Core.wsr_kept (c : Core) (n : Nat) (w : Word) : (c.wsr n w).kept = c.kept := rfl
@[simp] theorem Core.wsr_keptH (c : Core) (n : Nat) (w : Word) : (c.wsr n w).keptH = c.keptH := rfl
@[simp] theorem Core.wsr_staged (c : Core) (n : Nat) (w : Word) : (c.wsr n w).staged = c.staged := rfl
@[simp] theorem Core.wsr_hadEnded (c : Core) (n : Nat) (w : Word) : (c.wsr n w).hadEnded = c.hadEnded := rfl
@[simp] theorem Core.wsr_owed (c : Core) (n : Nat) (w : Word) : (c.wsr n w).owed = c.owed := rfl
@[simp] theorem Core.wsr_stopAt (c : Core) (n : Nat) (w : Word) : (c.wsr n w).stopAt = c.stopAt := rfl
@[simp] theorem Core.wsr_pops (c : Core) (n : Nat) (w : Word) : (c.wsr n w).pops = c.pops := rfl
@[simp] theorem Core.wsr_bundleId (c : Core) (n : Nat) (w : Word) : (c.wsr n w).bundleId = c.bundleId := rfl
@[simp] theorem Core.wsr_frozen (c : Core) (n : Nat) (w : Word) : (c.wsr n w).frozen = c.frozen := rfl
@[simp] theorem Core.wsr_swallowed (c : Core) (n : Nat) (w : Word) : (c.wsr n w).swallowed = c.swallowed := rfl
@[simp] theorem Core.wsr_freeze (c : Core) (n : Nat) (w : Word) : (c.wsr n w).freeze = c.freeze := rfl
@[simp] theorem Core.wsr_replay (c : Core) (n : Nat) (w : Word) : (c.wsr n w).replay = c.replay := rfl
@[simp] theorem Core.wsr_stepFrom (c : Core) (n : Nat) (w : Word) : (c.wsr n w).stepFrom = c.stepFrom := rfl
@[simp] theorem Core.wsr_skipBrk (c : Core) (n : Nat) (w : Word) : (c.wsr n w).skipBrk = c.skipBrk := rfl
@[simp] theorem Core.wsr_wmStop (c : Core) (n : Nat) (w : Word) : (c.wsr n w).wmStop = c.wmStop := rfl
@[simp] theorem Core.wsr_wmCount (c : Core) (n : Nat) (w : Word) : (c.wsr n w).wmCount = c.wmCount := rfl
@[simp] theorem Core.wsr_wdStart (c : Core) (n : Nat) (w : Word) : (c.wsr n w).wdStart = c.wdStart := rfl
@[simp] theorem Core.wsr_shadow (c : Core) (n : Nat) (w : Word) : (c.wsr n w).shadow = c.shadow := rfl
@[simp] theorem Core.wsr_launch (c : Core) (n : Nat) (w : Word) : (c.wsr n w).launch = c.launch := rfl
@[simp] theorem Core.wsr_lpos (c : Core) (n : Nat) (w : Word) : (c.wsr n w).lpos = c.lpos := rfl
@[simp] theorem Core.wsr_tile (c : Core) (n : Nat) (w : Word) : (c.wsr n w).tile = c.tile := rfl
@[simp] theorem Core.wsr_part (c : Core) (n : Nat) (w : Word) : (c.wsr n w).part = c.part := rfl
@[simp] theorem Core.wsr_prof (c : Core) (n : Nat) (w : Word) : (c.wsr n w).prof = c.prof := rfl
@[simp] theorem Core.wsr_trcIdx (c : Core) (n : Nat) (w : Word) : (c.wsr n w).trcIdx = c.trcIdx := rfl
@[simp] theorem Core.wsr_escal (c : Core) (n : Nat) (w : Word) : (c.wsr n w).escal = c.escal := rfl
@[simp] theorem Core.wsr_hadDone (c : Core) (n : Nat) (w : Word) : (c.wsr n w).hadDone = c.hadDone := rfl
@[simp] theorem Core.wsr_seat (c : Core) (n : Nat) (w : Word) : (c.wsr n w).seat = c.seat := rfl
@[simp] theorem Core.wsr_savedAt (c : Core) (n : Nat) (w : Word) : (c.wsr n w).savedAt = c.savedAt := rfl
@[simp] theorem Core.wsr_rportHeld (c : Core) (n : Nat) (w : Word) : (c.wsr n w).rportHeld = c.rportHeld := rfl
@[simp] theorem Core.wsr_mouter (c : Core) (n : Nat) (w : Word) : (c.wsr n w).mouter = c.mouter := rfl
@[simp] theorem Core.wsr_trcQ (c : Core) (n : Nat) (w : Word) : (c.wsr n w).trcQ = c.trcQ := rfl
@[simp] theorem Core.wsr_trcDue (c : Core) (n : Nat) (w : Word) : (c.wsr n w).trcDue = c.trcDue := rfl
@[simp] theorem Core.wsr_area (c : Core) (n : Nat) (w : Word) : (c.wsr n w).area = c.area := rfl
@[simp] theorem Core.wsr_rport (c : Core) (n : Nat) (w : Word) : (c.wsr n w).rport = c.rport := rfl
@[simp] theorem Core.wsr_rwrite (c : Core) (n : Nat) (w : Word) : (c.wsr n w).rwrite = c.rwrite := rfl
@[simp] theorem Core.wsr_rportBusy (c : Core) (n : Nat) (w : Word) : (c.wsr n w).rportBusy = c.rportBusy := rfl
@[simp] theorem Core.wsr_replayStart (c : Core) (n : Nat) (w : Word) : (c.wsr n w).replayStart = c.replayStart := rfl
@[simp] theorem Core.wsr_marginDue (c : Core) (n : Nat) (w : Word) : (c.wsr n w).marginDue = c.marginDue := rfl
@[simp] theorem Core.wsr_wit (c : Core) (n : Nat) (w : Word) : (c.wsr n w).wit = c.wit := rfl
@[simp] theorem Core.wsr_mretry (c : Core) (n : Nat) (w : Word) : (c.wsr n w).mretry = c.mretry := rfl

/-! ## Core.push -/

@[simp] theorem Core.push_run (c : Core) (u : Cur) (i : Instr) (n : Nat) (g : Op → Op) : (c.push u i n g).run = c.run := rfl
@[simp] theorem Core.push_sched (c : Core) (u : Cur) (i : Instr) (n : Nat) (g : Op → Op) : (c.push u i n g).sched = c.sched := rfl
@[simp] theorem Core.push_pc (c : Core) (u : Cur) (i : Instr) (n : Nat) (g : Op → Op) : (c.push u i n g).pc = c.pc := rfl
@[simp] theorem Core.push_level (c : Core) (u : Cur) (i : Instr) (n : Nat) (g : Op → Op) : (c.push u i n g).level = c.level := rfl
@[simp] theorem Core.push_nextIssue (c : Core) (u : Cur) (i : Instr) (n : Nat) (g : Op → Op) : (c.push u i n g).nextIssue = c.nextIssue := rfl
@[simp] theorem Core.push_pend (c : Core) (u : Cur) (i : Instr) (n : Nat) (g : Op → Op) : (c.push u i n g).pend = c.pend := rfl
@[simp] theorem Core.push_x (c : Core) (u : Cur) (i : Instr) (n : Nat) (g : Op → Op) : (c.push u i n g).x = c.x := rfl
@[simp] theorem Core.push_v (c : Core) (u : Cur) (i : Instr) (n : Nat) (g : Op → Op) : (c.push u i n g).v = c.v := rfl
@[simp] theorem Core.push_k (c : Core) (u : Cur) (i : Instr) (n : Nat) (g : Op → Op) : (c.push u i n g).k = c.k := rfl
@[simp] theorem Core.push_latch (c : Core) (u : Cur) (i : Instr) (n : Nat) (g : Op → Op) : (c.push u i n g).latch = c.latch := rfl
@[simp] theorem Core.push_res (c : Core) (u : Cur) (i : Instr) (n : Nat) (g : Op → Op) : (c.push u i n g).res = c.res := rfl
@[simp] theorem Core.push_acc (c : Core) (u : Cur) (i : Instr) (n : Nat) (g : Op → Op) : (c.push u i n g).acc = c.acc := rfl
@[simp] theorem Core.push_sig (c : Core) (u : Cur) (i : Instr) (n : Nat) (g : Op → Op) : (c.push u i n g).sig = c.sig := rfl
@[simp] theorem Core.push_spm (c : Core) (u : Cur) (i : Instr) (n : Nat) (g : Op → Op) : (c.push u i n g).spm = c.spm := rfl
@[simp] theorem Core.push_lane (c : Core) (u : Cur) (i : Instr) (n : Nat) (g : Op → Op) : (c.push u i n g).lane = c.lane := rfl
@[simp] theorem Core.push_queues (c : Core) (u : Cur) (i : Instr) (n : Nat) (g : Op → Op) : (c.push u i n g).queues = c.queues := rfl
@[simp] theorem Core.push_icache (c : Core) (u : Cur) (i : Instr) (n : Nat) (g : Op → Op) : (c.push u i n g).icache = c.icache := rfl
@[simp] theorem Core.push_icAge (c : Core) (u : Cur) (i : Instr) (n : Nat) (g : Op → Op) : (c.push u i n g).icAge = c.icAge := rfl
@[simp] theorem Core.push_fetchWait (c : Core) (u : Cur) (i : Instr) (n : Nat) (g : Op → Op) : (c.push u i n g).fetchWait = c.fetchWait := rfl
@[simp] theorem Core.push_fetchFail (c : Core) (u : Cur) (i : Instr) (n : Nat) (g : Op → Op) : (c.push u i n g).fetchFail = c.fetchFail := rfl
@[simp] theorem Core.push_sr (c : Core) (u : Cur) (i : Instr) (n : Nat) (g : Op → Op) : (c.push u i n g).sr = c.sr := rfl
@[simp] theorem Core.push_mx (c : Core) (u : Cur) (i : Instr) (n : Nat) (g : Op → Op) : (c.push u i n g).mx = c.mx := rfl
@[simp] theorem Core.push_unitEnd (c : Core) (u : Cur) (i : Instr) (n : Nat) (g : Op → Op) : (c.push u i n g).unitEnd = c.unitEnd := rfl
@[simp] theorem Core.push_ports (c : Core) (u : Cur) (i : Instr) (n : Nat) (g : Op → Op) : (c.push u i n g).ports = c.ports := rfl
@[simp] theorem Core.push_chans (c : Core) (u : Cur) (i : Instr) (n : Nat) (g : Op → Op) : (c.push u i n g).chans = c.chans := rfl
@[simp] theorem Core.push_tokens (c : Core) (u : Cur) (i : Instr) (n : Nat) (g : Op → Op) : (c.push u i n g).tokens = c.tokens := rfl
@[simp] theorem Core.push_groups (c : Core) (u : Cur) (i : Instr) (n : Nat) (g : Op → Op) : (c.push u i n g).groups = c.groups := rfl
@[simp] theorem Core.push_handler (c : Core) (u : Cur) (i : Instr) (n : Nat) (g : Op → Op) : (c.push u i n g).handler = c.handler := rfl
@[simp] theorem Core.push_hlevel (c : Core) (u : Cur) (i : Instr) (n : Nat) (g : Op → Op) : (c.push u i n g).hlevel = c.hlevel := rfl
@[simp] theorem Core.push_ext (c : Core) (u : Cur) (i : Instr) (n : Nat) (g : Op → Op) : (c.push u i n g).ext = c.ext := rfl
@[simp] theorem Core.push_trapped (c : Core) (u : Cur) (i : Instr) (n : Nat) (g : Op → Op) : (c.push u i n g).trapped = c.trapped := rfl
@[simp] theorem Core.push_lastAddr (c : Core) (u : Cur) (i : Instr) (n : Nat) (g : Op → Op) : (c.push u i n g).lastAddr = c.lastAddr := rfl
@[simp] theorem Core.push_resuming (c : Core) (u : Cur) (i : Instr) (n : Nat) (g : Op → Op) : (c.push u i n g).resuming = c.resuming := rfl
@[simp] theorem Core.push_kept (c : Core) (u : Cur) (i : Instr) (n : Nat) (g : Op → Op) : (c.push u i n g).kept = c.kept := rfl
@[simp] theorem Core.push_keptH (c : Core) (u : Cur) (i : Instr) (n : Nat) (g : Op → Op) : (c.push u i n g).keptH = c.keptH := rfl
@[simp] theorem Core.push_staged (c : Core) (u : Cur) (i : Instr) (n : Nat) (g : Op → Op) : (c.push u i n g).staged = c.staged := rfl
@[simp] theorem Core.push_hadEnded (c : Core) (u : Cur) (i : Instr) (n : Nat) (g : Op → Op) : (c.push u i n g).hadEnded = c.hadEnded := rfl
@[simp] theorem Core.push_owed (c : Core) (u : Cur) (i : Instr) (n : Nat) (g : Op → Op) : (c.push u i n g).owed = c.owed := rfl
@[simp] theorem Core.push_stopAt (c : Core) (u : Cur) (i : Instr) (n : Nat) (g : Op → Op) : (c.push u i n g).stopAt = c.stopAt := rfl
@[simp] theorem Core.push_pops (c : Core) (u : Cur) (i : Instr) (n : Nat) (g : Op → Op) : (c.push u i n g).pops = c.pops := rfl
@[simp] theorem Core.push_bundleId (c : Core) (u : Cur) (i : Instr) (n : Nat) (g : Op → Op) : (c.push u i n g).bundleId = c.bundleId := rfl
@[simp] theorem Core.push_frozen (c : Core) (u : Cur) (i : Instr) (n : Nat) (g : Op → Op) : (c.push u i n g).frozen = c.frozen := rfl
@[simp] theorem Core.push_swallowed (c : Core) (u : Cur) (i : Instr) (n : Nat) (g : Op → Op) : (c.push u i n g).swallowed = c.swallowed := rfl
@[simp] theorem Core.push_freeze (c : Core) (u : Cur) (i : Instr) (n : Nat) (g : Op → Op) : (c.push u i n g).freeze = c.freeze := rfl
@[simp] theorem Core.push_replay (c : Core) (u : Cur) (i : Instr) (n : Nat) (g : Op → Op) : (c.push u i n g).replay = c.replay := rfl
@[simp] theorem Core.push_stepFrom (c : Core) (u : Cur) (i : Instr) (n : Nat) (g : Op → Op) : (c.push u i n g).stepFrom = c.stepFrom := rfl
@[simp] theorem Core.push_skipBrk (c : Core) (u : Cur) (i : Instr) (n : Nat) (g : Op → Op) : (c.push u i n g).skipBrk = c.skipBrk := rfl
@[simp] theorem Core.push_wmStop (c : Core) (u : Cur) (i : Instr) (n : Nat) (g : Op → Op) : (c.push u i n g).wmStop = c.wmStop := rfl
@[simp] theorem Core.push_wmCount (c : Core) (u : Cur) (i : Instr) (n : Nat) (g : Op → Op) : (c.push u i n g).wmCount = c.wmCount := rfl
@[simp] theorem Core.push_wdStart (c : Core) (u : Cur) (i : Instr) (n : Nat) (g : Op → Op) : (c.push u i n g).wdStart = c.wdStart := rfl
@[simp] theorem Core.push_shadow (c : Core) (u : Cur) (i : Instr) (n : Nat) (g : Op → Op) : (c.push u i n g).shadow = c.shadow := rfl
@[simp] theorem Core.push_launch (c : Core) (u : Cur) (i : Instr) (n : Nat) (g : Op → Op) : (c.push u i n g).launch = c.launch := rfl
@[simp] theorem Core.push_lpos (c : Core) (u : Cur) (i : Instr) (n : Nat) (g : Op → Op) : (c.push u i n g).lpos = c.lpos := rfl
@[simp] theorem Core.push_tile (c : Core) (u : Cur) (i : Instr) (n : Nat) (g : Op → Op) : (c.push u i n g).tile = c.tile := rfl
@[simp] theorem Core.push_part (c : Core) (u : Cur) (i : Instr) (n : Nat) (g : Op → Op) : (c.push u i n g).part = c.part := rfl
@[simp] theorem Core.push_prof (c : Core) (u : Cur) (i : Instr) (n : Nat) (g : Op → Op) : (c.push u i n g).prof = c.prof := rfl
@[simp] theorem Core.push_trcIdx (c : Core) (u : Cur) (i : Instr) (n : Nat) (g : Op → Op) : (c.push u i n g).trcIdx = c.trcIdx := rfl
@[simp] theorem Core.push_escal (c : Core) (u : Cur) (i : Instr) (n : Nat) (g : Op → Op) : (c.push u i n g).escal = c.escal := rfl
@[simp] theorem Core.push_hadDone (c : Core) (u : Cur) (i : Instr) (n : Nat) (g : Op → Op) : (c.push u i n g).hadDone = c.hadDone := rfl
@[simp] theorem Core.push_seat (c : Core) (u : Cur) (i : Instr) (n : Nat) (g : Op → Op) : (c.push u i n g).seat = c.seat := rfl
@[simp] theorem Core.push_savedAt (c : Core) (u : Cur) (i : Instr) (n : Nat) (g : Op → Op) : (c.push u i n g).savedAt = c.savedAt := rfl
@[simp] theorem Core.push_rportHeld (c : Core) (u : Cur) (i : Instr) (n : Nat) (g : Op → Op) : (c.push u i n g).rportHeld = c.rportHeld := rfl
@[simp] theorem Core.push_mouter (c : Core) (u : Cur) (i : Instr) (n : Nat) (g : Op → Op) : (c.push u i n g).mouter = c.mouter := rfl
@[simp] theorem Core.push_trcQ (c : Core) (u : Cur) (i : Instr) (n : Nat) (g : Op → Op) : (c.push u i n g).trcQ = c.trcQ := rfl
@[simp] theorem Core.push_trcDue (c : Core) (u : Cur) (i : Instr) (n : Nat) (g : Op → Op) : (c.push u i n g).trcDue = c.trcDue := rfl
@[simp] theorem Core.push_area (c : Core) (u : Cur) (i : Instr) (n : Nat) (g : Op → Op) : (c.push u i n g).area = c.area := rfl
@[simp] theorem Core.push_rport (c : Core) (u : Cur) (i : Instr) (n : Nat) (g : Op → Op) : (c.push u i n g).rport = c.rport := rfl
@[simp] theorem Core.push_rwrite (c : Core) (u : Cur) (i : Instr) (n : Nat) (g : Op → Op) : (c.push u i n g).rwrite = c.rwrite := rfl
@[simp] theorem Core.push_rportBusy (c : Core) (u : Cur) (i : Instr) (n : Nat) (g : Op → Op) : (c.push u i n g).rportBusy = c.rportBusy := rfl
@[simp] theorem Core.push_replayStart (c : Core) (u : Cur) (i : Instr) (n : Nat) (g : Op → Op) : (c.push u i n g).replayStart = c.replayStart := rfl
@[simp] theorem Core.push_marginDue (c : Core) (u : Cur) (i : Instr) (n : Nat) (g : Op → Op) : (c.push u i n g).marginDue = c.marginDue := rfl
@[simp] theorem Core.push_wit (c : Core) (u : Cur) (i : Instr) (n : Nat) (g : Op → Op) : (c.push u i n g).wit = c.wit := rfl
@[simp] theorem Core.push_mretry (c : Core) (u : Cur) (i : Instr) (n : Nat) (g : Op → Op) : (c.push u i n g).mretry = c.mretry := rfl

/-! ## Reading a register after a write -/

/-- xn after a write of xm: x0 reads zero and a write of it is discarded (R227). -/
@[simp] theorem Core.rx_wx (c : Core) (n m : Nat) (w : Word) :
    (c.wx m w).rx n = if n = m ∧ n ≠ 0 then w else c.rx n := by
  by_cases h : m = 0
  · subst h; by_cases h2 : n = 0 <;> simp [Core.wx, Core.rx, h2]
  · by_cases h2 : n = 0
    · simp [Core.rx, h2]
    · simp [Core.wx, Core.rx, h, h2]
@[simp] theorem Core.rx_zero (c : Core) : c.rx 0 = 0 := rfl
@[simp] theorem Core.rv_wv (c : Core) (n m : Nat) (w : Vec) : (c.wv m w).rv n = if n = m then w else c.rv n := by
  simp [Core.rv, Core.wv]
@[simp] theorem Core.rk_wk (c : Core) (n m : Nat) (w : BitVec 1024) : (c.wk m w).rk n = if n = m then w else c.rk n := by
  simp [Core.rk, Core.wk]
@[simp] theorem Core.rLatch_wLatch (c : Core) (n m : Nat) (w : Vec) :
    (c.wLatch m w).rLatch n = if n = m then w else c.rLatch n := by simp [Core.rLatch, Core.wLatch]
@[simp] theorem Core.rRes_wRes (c : Core) (n m : Nat) (w : Vec) : (c.wRes m w).rRes n = if n = m then w else c.rRes n := by
  simp [Core.rRes, Core.wRes]
@[simp] theorem Core.rsr_wsr (c : Core) (n m : Nat) (w : Word) : (c.wsr m w).rsr n = if n = m then w else c.rsr n := by
  by_cases h : n = m
  · subst h; simp [Core.rsr, Core.wsr]
  · simp only [Core.rsr, Core.wsr, h, if_false]; exact Sparse.get_set_other _ _ _ _ _ _ h
@[simp] theorem Core.rx_wv (c : Core) (n : Nat) (m : Nat) (w : Vec) : (c.wv m w).rx n = c.rx n := by simp [Core.rx]
@[simp] theorem Core.rx_wk (c : Core) (n : Nat) (m : Nat) (w : BitVec 1024) : (c.wk m w).rx n = c.rx n := by simp [Core.rx]
@[simp] theorem Core.rx_wLatch (c : Core) (n : Nat) (m : Nat) (w : Vec) : (c.wLatch m w).rx n = c.rx n := by simp [Core.rx]
@[simp] theorem Core.rx_wRes (c : Core) (n : Nat) (m : Nat) (w : Vec) : (c.wRes m w).rx n = c.rx n := by simp [Core.rx]
@[simp] theorem Core.rx_wsr (c : Core) (n : Nat) (m : Nat) (w : Word) : (c.wsr m w).rx n = c.rx n := by simp [Core.rx]
@[simp] theorem Core.rx_push (c : Core) (n : Nat) (u : Cur) (i : Instr) (k : Nat) (g : Op → Op) : (c.push u i k g).rx n = c.rx n := rfl
@[simp] theorem Core.rv_wx (c : Core) (n : Nat) (m : Nat) (w : Word) : (c.wx m w).rv n = c.rv n := by simp [Core.rv]
@[simp] theorem Core.rv_wk (c : Core) (n : Nat) (m : Nat) (w : BitVec 1024) : (c.wk m w).rv n = c.rv n := by simp [Core.rv]
@[simp] theorem Core.rv_wLatch (c : Core) (n : Nat) (m : Nat) (w : Vec) : (c.wLatch m w).rv n = c.rv n := by simp [Core.rv]
@[simp] theorem Core.rv_wRes (c : Core) (n : Nat) (m : Nat) (w : Vec) : (c.wRes m w).rv n = c.rv n := by simp [Core.rv]
@[simp] theorem Core.rv_wsr (c : Core) (n : Nat) (m : Nat) (w : Word) : (c.wsr m w).rv n = c.rv n := by simp [Core.rv]
@[simp] theorem Core.rv_push (c : Core) (n : Nat) (u : Cur) (i : Instr) (k : Nat) (g : Op → Op) : (c.push u i k g).rv n = c.rv n := rfl
@[simp] theorem Core.rk_wx (c : Core) (n : Nat) (m : Nat) (w : Word) : (c.wx m w).rk n = c.rk n := by simp [Core.rk]
@[simp] theorem Core.rk_wv (c : Core) (n : Nat) (m : Nat) (w : Vec) : (c.wv m w).rk n = c.rk n := by simp [Core.rk]
@[simp] theorem Core.rk_wLatch (c : Core) (n : Nat) (m : Nat) (w : Vec) : (c.wLatch m w).rk n = c.rk n := by simp [Core.rk]
@[simp] theorem Core.rk_wRes (c : Core) (n : Nat) (m : Nat) (w : Vec) : (c.wRes m w).rk n = c.rk n := by simp [Core.rk]
@[simp] theorem Core.rk_wsr (c : Core) (n : Nat) (m : Nat) (w : Word) : (c.wsr m w).rk n = c.rk n := by simp [Core.rk]
@[simp] theorem Core.rk_push (c : Core) (n : Nat) (u : Cur) (i : Instr) (k : Nat) (g : Op → Op) : (c.push u i k g).rk n = c.rk n := rfl
@[simp] theorem Core.rLatch_wx (c : Core) (n : Nat) (m : Nat) (w : Word) : (c.wx m w).rLatch n = c.rLatch n := by simp [Core.rLatch]
@[simp] theorem Core.rLatch_wv (c : Core) (n : Nat) (m : Nat) (w : Vec) : (c.wv m w).rLatch n = c.rLatch n := by simp [Core.rLatch]
@[simp] theorem Core.rLatch_wk (c : Core) (n : Nat) (m : Nat) (w : BitVec 1024) : (c.wk m w).rLatch n = c.rLatch n := by simp [Core.rLatch]
@[simp] theorem Core.rLatch_wRes (c : Core) (n : Nat) (m : Nat) (w : Vec) : (c.wRes m w).rLatch n = c.rLatch n := by simp [Core.rLatch]
@[simp] theorem Core.rLatch_wsr (c : Core) (n : Nat) (m : Nat) (w : Word) : (c.wsr m w).rLatch n = c.rLatch n := by simp [Core.rLatch]
@[simp] theorem Core.rLatch_push (c : Core) (n : Nat) (u : Cur) (i : Instr) (k : Nat) (g : Op → Op) : (c.push u i k g).rLatch n = c.rLatch n := rfl
@[simp] theorem Core.rRes_wx (c : Core) (n : Nat) (m : Nat) (w : Word) : (c.wx m w).rRes n = c.rRes n := by simp [Core.rRes]
@[simp] theorem Core.rRes_wv (c : Core) (n : Nat) (m : Nat) (w : Vec) : (c.wv m w).rRes n = c.rRes n := by simp [Core.rRes]
@[simp] theorem Core.rRes_wk (c : Core) (n : Nat) (m : Nat) (w : BitVec 1024) : (c.wk m w).rRes n = c.rRes n := by simp [Core.rRes]
@[simp] theorem Core.rRes_wLatch (c : Core) (n : Nat) (m : Nat) (w : Vec) : (c.wLatch m w).rRes n = c.rRes n := by simp [Core.rRes]
@[simp] theorem Core.rRes_wsr (c : Core) (n : Nat) (m : Nat) (w : Word) : (c.wsr m w).rRes n = c.rRes n := by simp [Core.rRes]
@[simp] theorem Core.rRes_push (c : Core) (n : Nat) (u : Cur) (i : Instr) (k : Nat) (g : Op → Op) : (c.push u i k g).rRes n = c.rRes n := rfl
@[simp] theorem Core.rsr_wx (c : Core) (n : Nat) (m : Nat) (w : Word) : (c.wx m w).rsr n = c.rsr n := by simp [Core.rsr]
@[simp] theorem Core.rsr_wv (c : Core) (n : Nat) (m : Nat) (w : Vec) : (c.wv m w).rsr n = c.rsr n := by simp [Core.rsr]
@[simp] theorem Core.rsr_wk (c : Core) (n : Nat) (m : Nat) (w : BitVec 1024) : (c.wk m w).rsr n = c.rsr n := by simp [Core.rsr]
@[simp] theorem Core.rsr_wLatch (c : Core) (n : Nat) (m : Nat) (w : Vec) : (c.wLatch m w).rsr n = c.rsr n := by simp [Core.rsr]
@[simp] theorem Core.rsr_wRes (c : Core) (n : Nat) (m : Nat) (w : Vec) : (c.wRes m w).rsr n = c.rsr n := by simp [Core.rsr]
@[simp] theorem Core.rsr_push (c : Core) (n : Nat) (u : Cur) (i : Instr) (k : Nat) (g : Op → Op) : (c.push u i k g).rsr n = c.rsr n := rfl

/-! ## Where an answer is a next state -/

@[simp] theorem onCore_lt (s : State) (f : State → State) (h : s.cur.core < nCores) : onCore s f = .next (f s) := if_pos h
theorem onCore_next (s t : State) (f : State → State) (h : onCore s f = .next t) : s.cur.core < nCores ∧ t = f s := by
  unfold onCore at h; split at h
  · rename_i hc; injection h with h; exact ⟨hc, h.symm⟩
  · cases h
@[simp] theorem onItem_lt (i n : Nat) (s : State) (f : State → State) (h : i < n) : onItem i n s f = .next (f s) := if_pos h

end Sys2Proof.Machine
end

