-- ==== Sys2Proof/Tests/Slice0.lean ====
section
/-! SUPPORT. This author's tests: ill-formed terms that are refused, words decoded bit by bit from the encodings of the manual, small
steps with results worked out from its rules, and concrete states that meet the hypotheses of the statements. -/
namespace Sys2Proof.Tests

open Sys2Proof Sys2Proof.Machine Sys2Proof.Claims

set_option maxRecDepth 4000
set_option Elab.async false

/-! ## Ill-formed terms -/

/-- A memory operand with the fields that the tests vary. -/
def ma (sp : Space) (tg : BitVec 8 := 0) (off : BitVec 20 := 0) (cls : BitVec 4 := 0) (land : BitVec 12 := 0) (grp : BitVec 3 := 0) (a : BitVec 6 := 1) : MArgs :=
  { sp := sp, cls := cls, land := land, a := a, tg := tg, off := off, grp := grp }

/-- The operands of an atomic: destination x5, address x1, values x2 and x3. -/
def aa (d v b : BitVec 6) : AArgs := { sp := .glb, cls := 0, land := 100, a := 1, d := d, v := v, b := b }

/-- A copy command in channel ch from xs to xd with length register xn and no consumed token. -/
def ca (ch : BitVec 4) (tko n : BitVec 6) (dsp ssp : Space) : CArgs :=
  { ch := ch, tko := tko, tk0 := 0, tk1 := 0, tk2 := 0, nin := 0, d := 5, s := 6, n := n, dsp := dsp, ssp := ssp }

/-- R48, R51 to R53, R250, R214, R239: limits of the scalar, matrix and scale slots: a loop of offset 0; an unassigned system register; a write of a read-only one;
planes on a pair without npi, and none on one with it; a pair the array does not accept; equal generators, and equal slots, of accp; a shift by 0; kw of 3. -/
theorem test_ill_formed_slots :
    ∀ e ∈ ([(.loop 0 1 0, .rsvField), (.loopi 0 1 0, .rsvField), (.srrd 1 0xFFF, .rsvOpcode), (.srwr 0xFFF 1, .rsvOpcode), (.srwr 0x000 1, .slotForm),
      (.srset 0x000 1, .slotForm), (.srclr 0x182 1, .slotForm), (.push 0 0 1 .bf16 .bf16 1 false, .rsvField), (.acc 0 .npi .npi 0 false, .rsvField),
      (.acc 0 .bf16 .f16 0 false, .slotForm), (.push 0 0 1 .e4m3 .i8 0 false, .slotForm), (.accp 0 1 1 .bf16 .bf16 0 false 2, .slotForm),
      (.accp 2 0 1 .bf16 .bf16 0 false 2, .slotForm), (.shift 1 0, .rsvField), (.sidx 0 1 3, .rsvField)] : List (Instr × BadForm)),
      BadForm.worst e.1.faults = some e.2 ∧ e.1.wf = false := by decide +kernel

/-- R61, R62: formats that a unit's operation does not permit, and a rounding form of up-conversion for a format that does not round. -/
theorem test_ill_formed_triggers :
    ∀ e ∈ ([(.vaAnd (.v 0) .va0 .f32, .slotForm), (.vaMulhi (.v 0) .va1 .bf16, .slotForm), (.vaCun (.v 0) .va0 .i32, .slotForm), (.vaKcnt (.v 0) .va0 .f32, .slotForm),
      (.vaMov (.v 0) .va0 .b32, .slotForm), (.vpSumr (.v 0) .b32, .slotForm), (.vpMinc (.v 0) .b32, .slotForm), (.sfExp2 (.v 0) .i32, .slotForm), (.sfErf (.v 0) .b32, .slotForm),
      (.cvUp (.v 0) .i32, .rsvField), (.cvUpRounding (.v 0) .f16 .rne, .rsvField)] : List (Instr × BadForm)),
      BadForm.worst e.1.faults = some e.2 ∧ e.1.wf = false := by decide +kernel

/-- R54, R55: limits of the memory slots: land on a deterministic space; a register number above 63; grp on a load, grp 1 on a store, grp on a store outside glb; an odd
segment; a space that the form does not permit; a queue number above 3; a class or a land on a prefetch; a tag on a form without one. -/
theorem test_ill_formed_accesses :
    ∀ e ∈ ([(.ldw (ma .spm (land := 1)), .rsvField), (.ldw (ma .glb (tg := 64)), .rsvField), (.ldw (ma .glb (grp := 4)), .rsvField), (.stw (ma .glb (grp := 1)), .rsvField),
      (.stw (ma .spm (grp := 4)), .slotForm), (.vld (ma .lane (land := 5)), .rsvField), (.vst (ma .grv (grp := 7)), .slotForm), (.qld (ma .glb (tg := 4)), .rsvField),
      (.qld (ma .lane), .slotForm), (.vld32 { sp := .spm, cls := 0, land := 0, a := 0, tg := 0, seg := 3, off := 0, grp := 0 }, .rsvField),
      (.vst32 { sp := .spm, cls := 0, land := 0, a := 0, tg := 0, seg := 255, off := 0, grp := 0 }, .rsvField),
      (.vgath { sp := .lane, cls := 0, land := 0, a := 0, vd := 0, vi := 0, grp := 0 }, .slotForm), (.vlut { sp := .spm, cls := 0, land := 0, a := 0, vd := 0, vi := 0, grp := 0 }, .slotForm),
      (.pref (ma .glb (cls := 1)), .rsvField), (.pref (ma .glb (land := 1)), .rsvField), (.ipref (ma .spm), .slotForm), (.red (ma .glb (tg := 1)), .rsvField),
      (.coll (ma .clr), .slotForm), (.lqput (ma .glb (tg := 64)), .rsvField), (.tlbiva (ma .grv), .slotForm), (.l2wb (ma .spm), .slotForm)] : List (Instr × BadForm)),
      BadForm.worst e.1.faults = some e.2 ∧ e.1.wf = false := by decide +kernel

/-- R55, R126, R137, R300: limits of atomics, copy commands and waits: a field that the form does not use; a space other than glb or clr; a pair of destinations past x63; a
token beyond nin; a register group past x63; a token above 63; a channel above 15. -/
theorem test_ill_formed_commands :
    ∀ e ∈ ([(.aincW (aa 1 1 1), .rsvField), (.aaddW (aa 1 1 1), .rsvField), (.radd (aa 1 1 0), .rsvField), (.rrd (aa 1 1 0), .rsvField), (.rwait (aa 0 1 1), .rsvField),
      (.aaddD { aa 1 1 0 with sp := .spm, land := 0 }, .slotForm), (.afaddbW (aa 63 1 2), .slotForm), (.afaddbD (aa 63 1 2), .slotForm),
      (.cpy { ca 0 1 7 .spm .spm with tk0 := 2 }, .rsvField), (.cpy { ca 0 1 7 .spm .spm with nin := 1, tk1 := 2 }, .rsvField), (.cpy2d (ca 0 1 61 .spm .spm), .slotForm),
      (.cpyg (ca 0 1 62 .spm .spm), .slotForm), (.cwait 9 64, .rsvField), (.wpwait 9 1 16, .rsvField)] : List (Instr × BadForm)),
      BadForm.worst e.1.faults = some e.2 ∧ e.1.wf = false := by decide +kernel

/-- The operands at the edge of each limit are well formed. -/
theorem test_well_formed_edges :
    ∀ i ∈ ([.loop 0 1 1, .srrd 1 0x000, .srwr 0x0CF 1, .push 0 0 1 .npi .npi 7 false, .accp 2 0 1 .bf16 .bf16 0 false 1, .shift 1 1, .sidx 0 1 2, .vaCun (.v 0) .va0 .bf16,
      .cvUpRounding (.v 0) .n32 .rs, .ldw (ma .glb (tg := 63) (land := 4095)), .stw (ma .glb (grp := 7)), .qld (ma .clr (tg := 3)), .afaddbD (aa 62 1 2),
      .cpy2d (ca 15 63 60 .glb .lane), .cpyg (ca 0 1 61 .spm .grv), .cwait 9 63, .wpwait 9 1 15, .lqput (ma .glb (tg := 63))] : List Instr), i.wf = true := by decide +kernel

/-! ## Words written out from the encodings -/

/-- R48, R49: register-register operations, format SR with opcode 0x01, by their f field; clz, ctz and popc with field b zero. -/
theorem test_decode_SR :
    ∀ e ∈ ([
      (0b00000001_000011_000001_000010_000000, .add 3 1 2),
      (0b00000001_000100_000001_000011_000001, .sub 4 1 3),
      (0b00000001_000101_000001_000100_000010, .and 5 1 4),
      (0b00000001_000110_000001_000101_000011, .or 6 1 5),
      (0b00000001_000111_000001_000110_000100, .xor 7 1 6),
      (0b00000001_001000_000001_000111_000101, .andn 8 1 7),
      (0b00000001_001001_000001_001000_000110, .sll 9 1 8),
      (0b00000001_001010_000001_001001_000111, .srl 10 1 9),
      (0b00000001_001011_000001_001010_001000, .sra 11 1 10),
      (0b00000001_001100_000001_001011_001001, .slt 12 1 11),
      (0b00000001_001101_000001_001100_001010, .sltu 13 1 12),
      (0b00000001_001110_000001_001101_001011, .seq 14 1 13),
      (0b00000001_001111_000001_001110_001100, .min 15 1 14),
      (0b00000001_010000_000001_001111_001101, .max 16 1 15),
      (0b00000001_010001_000001_010000_001110, .minu 17 1 16),
      (0b00000001_010010_000001_010001_001111, .maxu 18 1 17),
      (0b00000001_010011_000001_010010_010000, .mul 19 1 18),
      (0b00000001_010100_000001_010011_010001, .mulh 20 1 19),
      (0b00000001_010101_000001_010100_010010, .mulhu 21 1 20),
      (0b00000001_010110_000001_010101_010011, .div 22 1 21),
      (0b00000001_010111_000001_010110_010100, .divu 23 1 22),
      (0b00000001_011000_000001_010111_010101, .rem 24 1 23),
      (0b00000001_011001_000001_011000_010110, .remu 25 1 24),
      (0b00000001_000111_001001_000000_010111, .clz 7 9),
      (0b00000001_000111_001001_000000_011000, .ctz 7 9),
      (0b00000001_000111_001001_000000_011001, .popc 7 9)] : List (Nat × Instr)),
      (decodeSlot .sb e.1).toOption = some e.2 := by decide +kernel

/-- R48, R49: the immediate forms, formats SI and SU. -/
theorem test_decode_SI_SU :
    ∀ e ∈ ([
      (0b00000010_000101_000110_111111111111, .addi 5 6 0xFFF),
      (0b00000011_000101_000110_111111111110, .andi 5 6 0xFFE),
      (0b00000100_000101_000110_111111111101, .ori 5 6 0xFFD),
      (0b00000101_000101_000110_111111111100, .xori 5 6 0xFFC),
      (0b00000110_000101_000110_000000111111, .slli 5 6 63),
      (0b00000111_000101_000110_000000111110, .srli 5 6 62),
      (0b00001000_000101_000110_000000111101, .srai 5 6 61),
      (0b00001001_111111_000000_100000000000, .slti 63 0 0x800),
      (0b00001010_111111_000000_100000000001, .sltiu 63 0 0x801),
      (0b00001011_000100_100000000000000001, .li 4 0x20001),
      (0b00001100_000100_100000000000000010, .lui 4 0x20002),
      (0b00001101_000100_100000000000000011, .lsh 4 0x20003)] : List (Nat × Instr)),
      (decodeSlot .sb e.1).toOption = some e.2 := by decide +kernel

/-- R48 to R50: what only slot sa carries: branches and jumps, formats SB, SJ, SU and SR; loops, format SL; endings and stops. -/
theorem test_decode_slot_sa :
    ∀ e ∈ ([
      (0b00010000_000001_000010_011111111110, .beq 1 2 0x7FE),
      (0b00010001_000001_000010_011111111111, .bne 1 2 0x7FF),
      (0b00010010_000001_000010_100000000000, .blt 1 2 0x800),
      (0b00010011_000001_000010_100000000001, .bge 1 2 0x801),
      (0b00010100_000001_000010_100000000010, .bltu 1 2 0x802),
      (0b00010101_000001_000010_100000000011, .bgeu 1 2 0x803),
      (0b00010110_111111111111111111111110, .j 0xFFFFFE),
      (0b00010111_111110_000000000000000101, .jl 62 5),
      (0b00011000_000000_001001_000000_000000, .jr 9),
      (0b00011001_111110_001001_000000_000000, .jlr 62 9),
      (0b00100000_10_0000_100001_000000000111, .loop 2 33 7),
      (0b00100001_01_0000001111_000000000010, .loopi 1 15 2),
      (0b00111000_000000_000000_101010111100, .trap 0xABC),
      (0b00111001_000000000000000000000000, .done),
      (0b00111010_000000000000_000000000101, .brk 5),
      (0b00111011_000000000000000000000000, .resume),
      (0b00111100_000000_001011_000000000000, .gsres 11),
      (0b00111101_000000000000000000000000, .gsend)] : List (Nat × Instr)),
      (decodeSlot .sa e.1).toOption = some e.2 := by decide +kernel

/-- R48, R49: loop counters and generators, formats SN and SG, and system registers, format SS. -/
theorem test_decode_SN_SG_SS :
    ∀ e ∈ ([
      (0b00100010_001000_0000_11_000000000000, .lcrd 8 3),
      (0b00101000_0000_00_010001_000000000000, .agbase 0 17),
      (0b00101001_0000_01_010001_000000000000, .agstep 1 17),
      (0b00101010_0000_10_010001_000000000000, .agwrap 2 17),
      (0b00101011_001000_0000_10_000000000000, .agrd 8 2),
      (0b00110000_001000_000000_000110000010, .srrd 8 0x182),
      (0b00110001_000000_001100_000011001111, .srwr 0x0CF 12),
      (0b00110010_000000_001100_000011001111, .srset 0x0CF 12),
      (0b00110011_000000_001100_000011001111, .srclr 0x0CF 12)] : List (Nat × Instr)),
      (decodeSlot .sb e.1).toOption = some e.2 := by decide +kernel

/-- R51, R52: the beats of slot mx. -/
theorem test_decode_mx :
    ∀ e ∈ ([
      (0b0001_10_01_11_0101_1001_000_1_0000000000, .push 2 1 3 .bs8e4b32 .bs8e5b16 0 true),
      (0b0010_11_0000_1011_1011_111_0_0000000000, .acc 3 .npi .npi 7 false),
      (0b0011_01_00_11_0011_0011_000_0_10_00000000, .accp 1 0 3 .bf16 .bf16 0 false 2),
      (0b0100_10_111_00000000000000000000000, .shift 2 7),
      (0b0101_0000000000000000000000000000, .dchk),
      (0b0110_10111_1001_1_1_00000000000000000, .drain 23 9 true true),
      (0b0111_0000000000000000000000000000, .clear),
      (0b1000_11001000_00000000000000000000, .mloc 200),
      (0b1001_1111111_0000011_00000000000000, .mfix 127 3),
      (0b1010_0000000000000000000000000000, .mpass),
      (0b1011_0000000000000000000000000000, .mretry),
      (0b1100_0000000000000000000000000000, .mclaim),
      (0b1101_0000000000000000000000000000, .mrelease)] : List (Nat × Instr)),
      (decodeSlot .mx e.1).toOption = some e.2 := by decide +kernel

/-- R53: the operations of slot sc. -/
theorem test_decode_sc :
    ∀ e ∈ ([
      (0b0001_11_01_00_0000000000000000000000, .scla 3 1),
      (0b0010_10_11_00_0000000000000000000000, .sclb 2 3),
      (0b0011_00_10_00_0000000000000000000000, .smap 2),
      (0b0100_01_10_10_0000000000000000000000, .sidx 1 2 2)] : List (Nat × Instr)),
      (decodeSlot .sc e.1).toOption = some e.2 := by decide +kernel

/-- R54, R55, R34: loads, stores and queue loads, format M. -/
theorem test_decode_M :
    ∀ e ∈ ([
      (0b00000001_000_0000_000001100100_001010_00111111_11111111111111111000_000, .ldb { sp := .glb, cls := 0, land := 100, a := 10, tg := 63, off := 0xFFFF8, grp := 0 }),
      (0b00000010_001_0001_000000000000_001011_00111110_11111111111111110000_000, .ldh { sp := .spm, cls := 1, land := 0, a := 11, tg := 62, off := 0xFFFF0, grp := 0 }),
      (0b00000011_010_0010_000001100110_001100_00111101_11111111111111101000_000, .ldw { sp := .grv, cls := 2, land := 102, a := 12, tg := 61, off := 0xFFFE8, grp := 0 }),
      (0b00000100_011_0011_000001100111_001101_00111100_11111111111111100000_000, .ldd { sp := .clr, cls := 3, land := 103, a := 13, tg := 60, off := 0xFFFE0, grp := 0 }),
      (0b00000101_100_0100_000000000000_001110_00111011_11111111111111011000_000, .ldbs { sp := .lane, cls := 4, land := 0, a := 14, tg := 59, off := 0xFFFD8, grp := 0 }),
      (0b00000110_000_0101_000001101001_001111_00111010_11111111111111010000_000, .ldhs { sp := .glb, cls := 5, land := 105, a := 15, tg := 58, off := 0xFFFD0, grp := 0 }),
      (0b00000111_001_0110_000000000000_010000_00111001_11111111111111001000_000, .ldws { sp := .spm, cls := 6, land := 0, a := 16, tg := 57, off := 0xFFFC8, grp := 0 }),
      (0b00001000_000_1111_000011001000_010100_00000000_00000000000000000001_100, .stb { sp := .glb, cls := 15, land := 200, a := 20, tg := 0, off := 0x1, grp := 4 }),
      (0b00001001_000_1110_000011001001_010101_00000001_00000000000000001001_101, .sth { sp := .glb, cls := 14, land := 201, a := 21, tg := 1, off := 0x9, grp := 5 }),
      (0b00001010_000_1101_000011001010_010110_00000010_00000000000000010001_110, .stw { sp := .glb, cls := 13, land := 202, a := 22, tg := 2, off := 0x11, grp := 6 }),
      (0b00001011_100_1100_000000000000_010111_00000011_00000000000000011001_000, .std { sp := .lane, cls := 12, land := 0, a := 23, tg := 3, off := 0x19, grp := 0 }),
      (0b00010000_011_0011_111111111111_000111_11111111_00000001000000000000_000, .vld { sp := .clr, cls := 3, land := 4095, a := 7, tg := 255, off := 0x1000, grp := 0 }),
      (0b00010001_011_0011_111111111111_000111_11111110_00000001000000000000_000, .vst { sp := .clr, cls := 3, land := 4095, a := 7, tg := 254, off := 0x1000, grp := 0 }),
      (0b00010110_001_0000_000000000000_001001_00000011_00000000000001000000_000, .qld { sp := .spm, cls := 0, land := 0, a := 9, tg := 3, off := 0x40, grp := 0 })] : List (Nat × Instr)),
      (decodeSlot .mem e.1).toOption = some e.2 := by decide +kernel

/-- R54, R55, R137: prefetches, commands and maintenance, format M; fences, format F; groups, format GR; waits, format W. -/
theorem test_decode_M_F_GR_W :
    ∀ e ∈ ([
      (0b00011100_000_0000_000000000000_001001_00000000_11111111111110000000_000, .pref { sp := .glb, cls := 0, land := 0, a := 9, tg := 0, off := 0xFFF80, grp := 0 }),
      (0b00011101_000_0000_000000000000_001001_00000000_00000000000010000000_000, .ipref { sp := .glb, cls := 0, land := 0, a := 9, tg := 0, off := 0x80, grp := 0 }),
      (0b01000101_000_0010_000100101100_001001_00000000_00000000000000000000_000, .red { sp := .glb, cls := 2, land := 300, a := 9, tg := 0, off := 0x0, grp := 0 }),
      (0b01000110_000_0010_000100101100_001001_00000000_00000000000000000000_000, .coll { sp := .glb, cls := 2, land := 300, a := 9, tg := 0, off := 0x0, grp := 0 }),
      (0b01000111_000_0010_000100101100_001001_00111111_00000000000001000000_000, .lqput { sp := .glb, cls := 2, land := 300, a := 9, tg := 63, off := 0x40, grp := 0 }),
      (0b01010000_000_0001_000100101100_001001_00000000_00000000000000000000_000, .tlbiva { sp := .glb, cls := 1, land := 300, a := 9, tg := 0, off := 0x0, grp := 0 }),
      (0b01010010_000_0001_000100101100_001001_00000000_00000000000000000000_000, .l2wb { sp := .glb, cls := 1, land := 300, a := 9, tg := 0, off := 0x0, grp := 0 }),
      (0b01010011_000_0001_000100101100_001001_00000000_00000000000000000000_000, .l2inv { sp := .glb, cls := 1, land := 300, a := 9, tg := 0, off := 0x0, grp := 0 }),
      (0b01010100_000_0001_000100101100_001001_00000000_00000000000000000000_000, .l2wbinv { sp := .glb, cls := 1, land := 300, a := 9, tg := 0, off := 0x0, grp := 0 }),
      (0b01010001_00000000000000000000000000000000000000000000000000000000, .tlbiall),
      (0b00110100_0000000000000000000000000000000000000_011_0000000000000011, .fence 3 .device),
      (0b00110110_11_000000000000000000000000000000000000000000000000000000, .gopen 3),
      (0b00110111_10_000000000000000000000000000000000000000000000000000000, .gcommit 2),
      (0b00111000_01_000000000000000000000000000000000000000000000000000000, .gabort 1),
      (0b01000011_0000000_000111110100_000000_00111111_00000000000000000000000, .cwait 500 63),
      (0b01000100_0000000_000111110100_100001_00001111_00000000000000000000000, .wpwait 500 33 15)] : List (Nat × Instr)),
      (decodeSlot .mem e.1).toOption = some e.2 := by decide +kernel

/-- R54, R55: segment loads and stores, format MS; gathers, scatters and lane tables, format G. -/
theorem test_decode_MS_G :
    ∀ e ∈ ([
      (0b00010010_000_0101_000001001101_001001_11001000_11111111_111111110000_000, .vld16 { sp := .glb, cls := 5, land := 77, a := 9, tg := 200, seg := 255, off := 0xFF0, grp := 0 }),
      (0b00010011_000_0101_000001001101_001001_11001001_11111100_111111100000_000, .vld32 { sp := .glb, cls := 5, land := 77, a := 9, tg := 201, seg := 252, off := 0xFE0, grp := 0 }),
      (0b00010100_000_0101_000001001101_001001_11001010_11111111_111111010000_111, .vst16 { sp := .glb, cls := 5, land := 77, a := 9, tg := 202, seg := 255, off := 0xFD0, grp := 7 }),
      (0b00010101_000_0101_000001001101_001001_11001011_11111000_111111000000_111, .vst32 { sp := .glb, cls := 5, land := 77, a := 9, tg := 203, seg := 248, off := 0xFC0, grp := 7 }),
      (0b00011000_001_0110_000000000000_011111_01100100_00110010_000000000000_000, .vgath { sp := .spm, cls := 6, land := 0, a := 31, vd := 100, vi := 50, grp := 0 }),
      (0b00011001_001_0110_000000000000_011111_01100101_00110011_000000000000_000, .vscat { sp := .spm, cls := 6, land := 0, a := 31, vd := 101, vi := 51, grp := 0 }),
      (0b00011010_100_0110_000000000000_011111_01100110_00110100_000000000000_000, .vlut { sp := .lane, cls := 6, land := 0, a := 31, vd := 102, vi := 52, grp := 0 }),
      (0b00011011_100_0110_000000000000_011111_01100111_00110101_000000000000_000, .vlst { sp := .lane, cls := 6, land := 0, a := 31, vd := 103, vi := 53, grp := 0 })] : List (Nat × Instr)),
      (decodeSlot .mem e.1).toOption = some e.2 := by decide +kernel

/-- R54, R55: atomics and ring operations, format A. -/
theorem test_decode_A :
    ∀ e ∈ ([
      (0b00100000_000_0000_001111101000_001000_111110_000000_101000_0000000000000, .aincW { sp := .glb, cls := 0, land := 1000, a := 8, d := 62, v := 0, b := 40 }),
      (0b00100001_011_0001_001111101001_001000_111101_000000_101001_0000000000000, .aincD { sp := .clr, cls := 1, land := 1001, a := 8, d := 61, v := 0, b := 41 }),
      (0b00100010_000_0010_001111101010_001000_111100_000011_101010_0000000000000, .afaddbW { sp := .glb, cls := 2, land := 1002, a := 8, d := 60, v := 3, b := 42 }),
      (0b00100011_011_0011_001111101011_001000_111011_000100_101011_0000000000000, .afaddbD { sp := .clr, cls := 3, land := 1003, a := 8, d := 59, v := 4, b := 43 }),
      (0b00100100_000_0100_001111101100_001000_111010_000101_000000_0000000000000, .aaddW { sp := .glb, cls := 4, land := 1004, a := 8, d := 58, v := 5, b := 0 }),
      (0b00100101_011_0101_001111101101_001000_111001_000110_000000_0000000000000, .aaddD { sp := .clr, cls := 5, land := 1005, a := 8, d := 57, v := 6, b := 0 }),
      (0b00100110_000_0110_001111101110_001000_111000_000111_000000_0000000000000, .aaddfW { sp := .glb, cls := 6, land := 1006, a := 8, d := 56, v := 7, b := 0 }),
      (0b00101000_011_0111_001111101111_001000_110111_001000_101111_0000000000000, .acasW { sp := .clr, cls := 7, land := 1007, a := 8, d := 55, v := 8, b := 47 }),
      (0b00101001_000_1000_001111110000_001000_110110_001001_110000_0000000000000, .acasD { sp := .glb, cls := 8, land := 1008, a := 8, d := 54, v := 9, b := 48 }),
      (0b00101010_011_1001_001111110001_001000_110101_001010_000000_0000000000000, .axchgW { sp := .clr, cls := 9, land := 1009, a := 8, d := 53, v := 10, b := 0 }),
      (0b00101011_000_1010_001111110010_001000_110100_001011_000000_0000000000000, .axchgD { sp := .glb, cls := 10, land := 1010, a := 8, d := 52, v := 11, b := 0 }),
      (0b00101100_011_1011_001111110011_001000_110011_001100_000000_0000000000000, .amaxW { sp := .clr, cls := 11, land := 1011, a := 8, d := 51, v := 12, b := 0 }),
      (0b00101101_000_1100_001111110100_001000_110010_001101_000000_0000000000000, .amaxD { sp := .glb, cls := 12, land := 1012, a := 8, d := 50, v := 13, b := 0 }),
      (0b00101110_011_1101_001111110101_001000_110001_001110_000000_0000000000000, .aminW { sp := .clr, cls := 13, land := 1013, a := 8, d := 49, v := 14, b := 0 }),
      (0b00101111_000_1110_001111110110_001000_110000_001111_000000_0000000000000, .aminD { sp := .glb, cls := 14, land := 1014, a := 8, d := 48, v := 15, b := 0 }),
      (0b00110000_011_1111_001111110111_001000_000000_010000_000000_0000000000000, .radd { sp := .clr, cls := 15, land := 1015, a := 8, d := 0, v := 16, b := 0 }),
      (0b00110001_000_0000_001111111000_001000_000000_010001_000000_0000000000000, .rwait { sp := .glb, cls := 0, land := 1016, a := 8, d := 0, v := 17, b := 0 }),
      (0b00110010_011_0001_001111111001_001000_101101_000000_000000_0000000000000, .rrd { sp := .clr, cls := 1, land := 1017, a := 8, d := 45, v := 0, b := 0 })] : List (Nat × Instr)),
      (decodeSlot .mem e.1).toOption = some e.2 := by decide +kernel

/-- R54, R55, R126: copy commands, format C. -/
theorem test_decode_C :
    ∀ e ∈ ([
      (0b01000000_1111_111111_001001_000000_000000_01_000101_000110_111111_100_010_00, .cpy { ch := 15, tko := 63, tk0 := 9, tk1 := 0, tk2 := 0, nin := 1, d := 5, s := 6, n := 63, dsp := .lane, ssp := .grv }),
      (0b01000001_1110_111111_001001_001000_000000_10_000101_000110_111100_100_010_00, .cpy2d { ch := 14, tko := 63, tk0 := 9, tk1 := 8, tk2 := 0, nin := 2, d := 5, s := 6, n := 60, dsp := .lane, ssp := .grv }),
      (0b01000010_1101_111111_001001_001000_000111_11_000101_000110_111101_100_010_00, .cpyg { ch := 13, tko := 63, tk0 := 9, tk1 := 8, tk2 := 7, nin := 3, d := 5, s := 6, n := 61, dsp := .lane, ssp := .grv })] : List (Nat × Instr)),
      (decodeSlot .mem e.1).toOption = some e.2 := by decide +kernel

/-- R57 to R59: moves between registers, latches, queues, masks and constants, op zero. -/
theorem test_decode_moves :
    ∀ e ∈ ([
      (0b011111111_011111110_000000, .move (.v 255) (.v 254)),
      (0b100111111_100000001_000000, .move (.x 63) (.x 1)),
      (0b101000000_101000000_000000, .move (.y .va0) (.latch .va0a)),
      (0b101000110_101010000_000000, .move (.y .ap) (.latch .apb)),
      (0b101001011_111111111_000000, .move (.pop 3) (.k 15)),
      (0b101001100_101001100_000000, .move (.peek 0) (.latch .cvb)),
      (0b101011111_111110000_000000, .move (.k 15) (.k 0)),
      (0b111000001_101000111_000000, .move (.cst 65) (.latch .va1m))] : List (Nat × Instr)),
      (decodeSlot .mv e.1).toOption = some e.2 := by decide +kernel

/-- R59 to R61: the operations of va0 and va1 by the op field of a move to their trigger ports. -/
theorem test_decode_va :
    ∀ e ∈ ([
      (0b000000000_101100000_000000, .vaMov (.v 0) .va0 .f32),
      (0b000000001_101100110_000001, .vaAdd (.v 1) .va1 .bf16),
      (0b000000010_101100000_000010, .vaSub (.v 2) .va0 .f32),
      (0b000000011_101100110_000011, .vaMul (.v 3) .va1 .bf16),
      (0b000000100_101100000_000100, .vaFma (.v 4) .va0 .f32),
      (0b000000101_101100110_000101, .vaFms (.v 5) .va1 .bf16),
      (0b000000110_101100000_000110, .vaFnma (.v 6) .va0 .f32),
      (0b000000111_101100110_000111, .vaMin (.v 7) .va1 .bf16),
      (0b000001000_101100000_001000, .vaMax (.v 8) .va0 .f32),
      (0b000001001_101100110_001001, .vaAbs (.v 9) .va1 .bf16),
      (0b000001010_101100000_001010, .vaNeg (.v 10) .va0 .f32),
      (0b000001011_101100101_001011, .vaAnd (.v 11) .va1 .i32),
      (0b000001100_101100001_001100, .vaOr (.v 12) .va0 .i32),
      (0b000001101_101100101_001101, .vaXor (.v 13) .va1 .i32),
      (0b000001110_101100001_001110, .vaAndn (.v 14) .va0 .i32),
      (0b000001111_101100101_001111, .vaNot (.v 15) .va1 .i32),
      (0b000010000_101100001_010000, .vaSll (.v 16) .va0 .i32),
      (0b000010001_101100101_010001, .vaSrl (.v 17) .va1 .i32),
      (0b000010010_101100001_010010, .vaSra (.v 18) .va0 .i32),
      (0b000010011_101100101_010011, .vaMulhi (.v 19) .va1 .i32),
      (0b000010100_101100000_010100, .vaSel (.v 20) .va0 .f32),
      (0b000010101_101100110_010101, .vaCeq (.v 21) .va1 .bf16),
      (0b000010110_101100000_010110, .vaCne (.v 22) .va0 .f32),
      (0b000010111_101100110_010111, .vaClt (.v 23) .va1 .bf16),
      (0b000011000_101100000_011000, .vaCle (.v 24) .va0 .f32),
      (0b000011001_101100110_011001, .vaCun (.v 25) .va1 .bf16),
      (0b000011010_101100001_011010, .vaKand (.v 26) .va0 .i32),
      (0b000011011_101100101_011011, .vaKor (.v 27) .va1 .i32),
      (0b000011100_101100001_011100, .vaKxor (.v 28) .va0 .i32),
      (0b000011101_101100101_011101, .vaKandn (.v 29) .va1 .i32),
      (0b000011110_101100001_011110, .vaKnot (.v 30) .va0 .i32),
      (0b000011111_101100101_011111, .vaKcnt (.v 31) .va1 .i32)] : List (Nat × Instr)),
      (decodeSlot .mv e.1).toOption = some e.2 := by decide +kernel

/-- R59, R61: the operations of vp, sf, wc and ap. -/
theorem test_decode_vp_sf_wc_ap :
    ∀ e ∈ ([
      (0b000000000_101101001_000000, .vpRotr (.v 0) .f32),
      (0b000000001_101101010_000001, .vpBcr (.v 1) .i32),
      (0b000000010_101101011_000010, .vpSumr (.v 2) .bf16),
      (0b000000011_101101001_000011, .vpMaxr (.v 3) .f32),
      (0b000000100_101101010_000100, .vpMinr (.v 4) .i32),
      (0b000001000_101101011_001000, .vpRotc (.v 8) .bf16),
      (0b000001001_101101001_001001, .vpBcc (.v 9) .f32),
      (0b000001010_101101010_001010, .vpSumc (.v 10) .i32),
      (0b000001011_101101011_001011, .vpMaxc (.v 11) .bf16),
      (0b000001100_101101001_001100, .vpMinc (.v 12) .f32),
      (0b000010000_101101010_010000, .vpTrn16 (.v 16) .i32),
      (0b000010001_101101011_010001, .vpShuf (.v 17) .bf16),
      (0b000000001_101101000_000000, .vpRotr (.v 1) .b32),
      (0b100000000_101101100_000000, .sfExp2 (.x 0) .f32),
      (0b100000001_101101101_000001, .sfLog2 (.x 1) .bf16),
      (0b100000010_101101100_000010, .sfRcp (.x 2) .f32),
      (0b100000011_101101101_000011, .sfRsqrt (.x 3) .bf16),
      (0b100000100_101101100_000100, .sfSqrt (.x 4) .f32),
      (0b100000101_101101101_000101, .sfTanh (.x 5) .bf16),
      (0b100000110_101101100_000110, .sfSin (.x 6) .f32),
      (0b100000111_101101101_000111, .sfCos (.x 7) .bf16),
      (0b100001000_101101100_001000, .sfErf (.x 8) .f32),
      (0b101010000_101101110_000000, .wcSig (.k 0)),
      (0b101010001_101101110_000001, .wcSigclr (.k 1)),
      (0b101010010_101101110_000010, .wcCmp (.k 2)),
      (0b101000010_101101111_000000, .apRd (.y .vp)),
      (0b101000010_101101111_000001, .apWr (.y .vp)),
      (0b101000010_101101111_000010, .apAcc (.y .vp))] : List (Nat × Instr)),
      (decodeSlot .mv e.1).toOption = some e.2 := by decide +kernel

/-- R59, R62: conversions down and up, with their rounding and overflow fields. -/
theorem test_decode_cv :
    ∀ e ∈ ([
      (0b000000000_101110000_000000, .cvDn (.v 0) .bf16 .rne .sat),
      (0b000000001_101110001_000101, .cvDn (.v 1) .f16 .rna .inf),
      (0b000000010_101110010_001010, .cvDn (.v 2) .e4m3 .rtz .nan),
      (0b000000011_101110011_001111, .cvDn (.v 3) .e5m2 .rup .stop),
      (0b000000100_101110100_010000, .cvDn (.v 4) .e2m1 .rdn .sat),
      (0b000000101_101110101_010101, .cvDn (.v 5) .i8 .rs .inf),
      (0b000000110_101110110_011010, .cvDn (.v 6) .i16 .rto .nan),
      (0b000000111_101110111_000011, .cvDn (.v 7) .i32 .rne .stop),
      (0b000001000_101111000_000100, .cvDn (.v 8) .n8 .rna .sat),
      (0b000001001_101111001_001001, .cvDn (.v 9) .n16 .rtz .inf),
      (0b000001010_101111010_001110, .cvDn (.v 10) .n32 .rup .nan),
      (0b000000000_101111011_000000, .cvUp (.v 0) .bf16),
      (0b000000001_101111100_000000, .cvUp (.v 1) .f16),
      (0b000000010_101111101_000000, .cvUp (.v 2) .e4m3),
      (0b000000011_101111110_000000, .cvUp (.v 3) .e5m2),
      (0b000000100_101111111_000000, .cvUp (.v 4) .e2m1),
      (0b000000101_110000000_000000, .cvUp (.v 5) .i8),
      (0b000000110_110000001_000000, .cvUp (.v 6) .i16),
      (0b000000111_110000010_001100, .cvUpRounding (.v 7) .i32 .rup),
      (0b000001000_110000011_000000, .cvUp (.v 8) .n8),
      (0b000001001_110000100_000000, .cvUp (.v 9) .n16),
      (0b000001010_110000101_010000, .cvUpRounding (.v 10) .n32 .rdn)] : List (Nat × Instr)),
      (decodeSlot .mv e.1).toOption = some e.2 := by decide +kernel

/-- The words that the manual itself works out (R102, R119, R288, R300, R312, R319, R340, R344, R411, R126, R137, and the examples of chapters 10 and 23). -/
theorem test_words_of_the_manual :
    (∀ e ∈ ([(0x5204190200000800, .l2wb { sp := .glb, cls := 2, land := 200, a := 4, tg := 0, off := 256, grp := 0 }),
        (0x230425850828C000, .afaddbD { sp := .glb, cls := 2, land := 300, a := 10, d := 4, v := 5, b := 6 }),
        (0x3006258600080000, .radd { sp := .glb, cls := 3, land := 300, a := 12, d := 0, v := 1, b := 0 }),
        (0x3400000000030006, .fence 6 .device), (0x3780000000000000, .gcommit 2),
        (0x4704258482800400, .lqput { sp := .glb, cls := 2, land := 300, a := 9, tg := 5, off := 128, grp := 0 }),
        (0x4602258180000000, .coll { sp := .glb, cls := 1, land := 300, a := 3, tg := 0, off := 0, grp := 0 }),
        (0x4032441C08A2CC20, .cpy { ch := 3, tko := 9, tk0 := 4, tk1 := 7, tk2 := 0, nin := 2, d := 10, s := 11, n := 12, dsp := .spm, ssp := .glb }),
        (0x4400050681800000, .wpwait 40 13 3)] : List (Nat × Instr)), (decodeSlot .mem e.1).toOption = some e.2) ∧
    (decodeSlot .mv 0x04D801).toOption = some (.vaAdd (.v 9) .va0 .f32) ∧ (decodeSlot .mv 0x84DB82).toOption = some (.wcCmp (.x 9)) ∧
    (decodeSlot .sa 0x3C007000).toOption = some (.gsres 7) ∧ (decodeSlot .sa 0x3D000000).toOption = some .gsend := by decide +kernel

/-- R43 to R45, R68, R69: a bundle of li x5, 3 in sa and addi x6, x5, -1 in sb with idle 2; the witness bundle of chapter 23; a header without its marker; a reserved header
bit; a nonzero padding byte, reported in slot 7. -/
theorem test_bundles :
    (decodeBundle (0xB0000200 + 0x0B140003 * 2 ^ 32 + 0x02185FFF * 2 ^ 64)).toOption.map (fun b => (b.slots, b.wit, b.len)) =
      some ([(1, .li 5 3), (2, .addi 6 5 0xFFF)], false, 12) ∧
    (decodeBundle (0x80014000 + 0x84DB82 * 2 ^ 32)).toOption.map (fun b => (b.slots.map (·.2), b.wit, b.len)) = some ([.wcCmp (.x 9)], true, 8) ∧
    (match decodeBundle 0x40000000 with | .error e => e.1 | .ok _ => 0) = 1 ∧
    (match decodeBundle 0x80000001 with | .error e => e.1 | .ok _ => 0) = 1 ∧
    (match decodeBundle (0x80014000 + 0x0184DB82 * 2 ^ 32) with | .error e => e | .ok _ => (0, 0)) = (3, 7) := by decide +kernel

/-- The host's placing of a word: the next step fetches, decodes and issues it. -/
theorem test_placed_word_runs :
    decodeTableWord 32 0x0B140003 = some (.li 5 3) ∧
    (match step (State.reset.withFetchWord 32 0x0B140003) with | .next t => ((t.core 0).pipe.map (·.act), (t.core 0).pc) | _ => ([], 0)) =
      ([some (.li 5 3)], 8) := by decide +kernel

/-! ## Small steps -/

/-- The state after reset with core 0, that of its cursor, changed. -/
def on (k : Core) : State := State.reset.setCore 0 k

/-- The next state of one instruction, and s itself where there is none. -/
def after (i : Instr) (s : State) : State := match exec i s with | .next t => t | _ => s

/-- Core 0 after one instruction and the landing of the operation that it issued. -/
def landed (i : Instr) (s : State) : Core :=
  match ((after i s).core 0).pipe.getLast? with
  | some o => ((after i s).landOp 0 o).core 0
  | none => (after i s).core 0

/-- x1 = 7, x2 = -1, x3 = -2^63, x4 = 100. -/
def kx : Core := { x := [(1, 7), (2, BitVec.allOnes 64), (3, BitVec.intMin 64), (4, 100)] }

/-- R228: results worked out by hand, into x5. -/
theorem test_scalar_results :
    ∀ e ∈ ([(.add 5 1 2, 6), (.sub 5 1 4, -93), (.and 5 1 4, 4), (.or 5 1 4, 103), (.xor 5 1 4, 99), (.andn 5 1 4, 3), (.sll 5 1 2, 0x8000000000000000),
      (.srl 5 3 1, 0x0100000000000000), (.sra 5 3 1, 0xFF00000000000000), (.slt 5 2 1, 1), (.sltu 5 2 1, 0), (.seq 5 1 1, 1), (.min 5 2 1, -1), (.max 5 2 1, 7),
      (.minu 5 2 1, 7), (.maxu 5 2 1, -1), (.mul 5 2 1, -7), (.mulh 5 2 1, -1), (.mulhu 5 2 1, 6), (.clz 5 1, 61), (.ctz 5 4, 2), (.popc 5 2, 64), (.clz 5 0, 64),
      (.addi 5 1 0xFF8, -1), (.andi 5 2 0xFFF, 0xFFF), (.ori 5 1 0x800, 0x807), (.xori 5 1 7, 0), (.slli 5 1 61, 0xE000000000000000), (.srli 5 2 63, 1), (.srai 5 3 63, -1),
      (.slti 5 2 0, 1), (.sltiu 5 1 0xFFF, 1), (.li 5 0x20000, -131072), (.lui 5 0x3FFFF, -262144)] : List (Instr × Word)), (landed e.1 (on kx)).rx 5 = e.2 := by decide +kernel

/-- R230: the constant of chapter 11, by li and three lsh. -/
theorem test_li_lsh :
    (landed (.lsh 4 0x3CDEF) (on (landed (.lsh 4 0x1E26A) (on (landed (.lsh 4 0x23456) (on (landed (.li 4 4) (on kx)))))))).rx 4 = 0x0123456789ABCDEF := by decide +kernel

/-- R229: quotients and remainders, with a divisor of zero and the quotient that does not fit; the flags DZ (2) and IW (32) with V in EXC.SA. -/
theorem test_scalar_division :
    (∀ e ∈ ([(.div 5 4 1, 14, 0), (.rem 5 4 1, 2, 0), (.divu 5 2 1, 0x2492492492492492, 0), (.remu 5 2 1, 1, 0), (.div 5 1 0, -1, 0x102), (.rem 5 1 0, 7, 0x102),
      (.divu 5 1 0, -1, 0x102), (.remu 5 1 0, 7, 0x102), (.div 5 3 2, BitVec.intMin 64, 0x120), (.rem 5 3 2, 0, 0x120)] : List (Instr × Word × Word)),
      (landed e.1 (on kx)).rx 5 = e.2.1 ∧ (landed e.1 (on kx)).rsr 0x010 = e.2.2) := by decide +kernel

/-- R200: the record of chapter 9's example: OF and NX at bundle address 0x4_1200. -/
theorem test_exception_record : excAfter 0 0x14 0x41200 = 0x08240114 := by decide +kernel

/-- R227: a write of x0 is discarded. -/
theorem test_x0 : (landed (.add 0 1 2) (on kx)).rx 0 = 0 ∧ (landed (.add 0 1 2) (on kx)).x = kx.x := by decide +kernel

/-- R232: targets of branches and jumps from bundle address 0x100, two delay bundles on. -/
theorem test_transfers :
    let s : State := { on kx with cur := { core := 0, slot := 1, addr := 0x100 } }
    (∀ e ∈ ([(.beq 1 1 0xFFE, [(0xF8, 3)]), (.bne 1 1 4, []), (.blt 2 1 4, [(0x110, 3)]), (.bge 2 1 4, []), (.bltu 2 1 4, []), (.bgeu 2 1 4, [(0x110, 3)]),
      (.j 0xFFFFC0, [(0, 3)]), (.jr 4, [(100, 3)]), (.jr 1, [(4, 3)])] : List (Instr × List (Nat × Nat))), ((after e.1 s).core 0).pend = e.2) := by decide +kernel

/-- R233, R237, R238: a loop counter armed, a generator written and stepped around its wrap of 8 from 6 by 7: 13 - 8 = 5. -/
theorem test_loops_and_generators :
    (landed (.agbase 1 4) (on kx)).rsr 0x034 = 100 ∧ (landed (.agstep 2 1) (on kx)).rsr 0x039 = 7 ∧ (landed (.agwrap 3 1) (on kx)).rsr 0x03E = 7 ∧
    (landed (.agrd 5 0) (on { kx with sr := [(0x30, 40), (0x33, 2)] })).rx 5 = 42 ∧
    (({ kx with sr := [(0x31, 7), (0x32, 8), (0x33, 6)] } : Core).agStep 0).rsr 0x33 = 5 ∧
    (landed (.lcrd 5 2) (on { kx with sr := [(0x28, 9)] })).rx 5 = 9 := by decide +kernel

/-- R239, R401: system registers read, written, set and cleared; the read of CNTRD.LO and the shadow of CNTRD.HI, as in chapter 24's example. -/
theorem test_system_registers :
    (landed (.srrd 5 0x0C9) (on kx)).rx 5 = 16 ∧ (landed (.srwr 0x0C9 1) (on { kx with level := .root })).rsr 0x0C9 = 7 ∧
    (landed (.srset 0x0C9 1) (on kx)).rsr 0x0C9 = 23 ∧ (landed (.srclr 0x0C9 4) (on kx)).rsr 0x0C9 = 16 ∧
    (let s : State := { on kx with time := 0x00000005FFFFFFFE }
     (s.sysRead 0 0x002, ((after .cntrdLoRead s).core 0).shadow) = (0xFFFFFFFE, 5)) := by decide +kernel

/-- R240, R242, R243, R364, R344: a privileged slot below its level, trap, brk, done, resume without a handler, and gsend outside a guarded tile. -/
theorem test_stops :
    ((after (.srwr 0x0C7 1) (on kx)).core 0).trapped = some (0x81, 0x17) ∧ ((after (.trap 5) (on kx)).core 0).trapped = some (0x87, 5) ∧
    ((after (.brk 0xFFF) (on kx)).core 0).trapped = some (0x88, 0xFFF) ∧ ((after .done (on kx)).core 0).run = .ended ∧
    ((after .resume (on { kx with level := .root })).core 0).trapped = some (0xA6, 0) ∧ (((after .gsend (on kx)).core 0).pipe.map (·.cause)) = [0xA3] := by decide +kernel

/-- R151: the conflict of chapter 7's example, and the port that the vld still holds in cycle 5 but not in cycle 8. -/
theorem test_bank_conflict :
    let k : Core := { x := [(4, 0x10000)] }
    let vld : Instr := .vld (ma .spm (tg := 1) (a := 2))
    let ldw : Instr := .ldw (ma .spm (tg := 3) (off := 8) (a := 4))
    k.conflict [(5, vld), (6, ldw)] = some 0x8560 ∧
    ({ k with sched := 5, ports := [(0, 8, 5)] } : Core).conflict [(6, ldw)] = some 0x3F60 ∧
    ({ k with sched := 8, ports := [(0, 8, 5)] } : Core).conflict [(6, ldw)] = none := by decide +kernel

/-- R159, R160: chapter 7's lane: element (6, 9) of a register at lane offset 0x20 lies at lane address 0x4_4824. -/
theorem test_lane_place :
    (memForm (.vld (ma .lane))).map (fun f => detByte (.vld (ma .lane)) f 0x20 [] (4 * (64 * 6 + 9))) = some 0x44824 := by decide +kernel

/-- R170: a load of the bytes FE FF at scratchpad offset 2, with zeros and with the sign above; a store of the low bytes of a register. -/
theorem test_scalar_accesses :
    let k : Core := { kx with spm := [(2, 0xFE), (3, 0xFF)] }
    (landed (.ldh (ma .spm (tg := 5) (off := 2) (a := 0))) (on k)).rx 5 = 0xFFFE ∧ (landed (.ldhs (ma .spm (tg := 5) (off := 2) (a := 0))) (on k)).rx 5 = -2 ∧
    (landed (.ldb (ma .spm (tg := 5) (off := 3) (a := 0))) (on k)).rx 5 = 0xFF ∧ (landed (.ldws (ma .spm (tg := 5) (a := 0))) (on k)).rx 5 = 0xFFFFFFFFFFFE0000 ∧
    (landed (.sth (ma .spm (tg := 4) (off := 2) (a := 0))) (on k)).spm = [(2, 100)] ∧ (landed (.std (ma .lane (tg := 2) (a := 0))) (on k)).lane.length = 8 := by decide +kernel

/-- R169: MISALIGN (0x92) before the range; SPM_RANGE (0x93); LANE_RANGE (0x95); GRV_RANGE (0x94); CLR_RANGE (0x96). -/
theorem test_access_checks :
    (∀ e ∈ ([(.ldw (ma .spm (off := 2) (a := 0)), 0x92), (.ldw (ma .spm (a := 2)), 0x92), (.ldb (ma .spm (a := 2)), 0x93), (.ldb (ma .lane (a := 2)), 0x95), (.ldb (ma .grv (a := 0)), 0x94),
      (.ldb (ma .clr (a := 0)), 0x96)] : List (Instr × Nat)), ((after e.1 (on kx)).core 0).pipe.map (fun o => (o.fault, o.cause)) = [(true, e.2)]) := by decide +kernel

/-- R209 to R212: one element: wrapping i32 arithmetic with IW (32), shifts by the width, compares; f32 by hand: 1 + 2 = 3, the largest times 2 overflows (OF and NX), a NaN. -/
theorem test_elements :
    eAdd .i32 0x7FFFFFFF 1 0 0 = (0x80000000, 32) ∧ eMulhi .i32 0x80000000 2 0 0 = (0xFFFFFFFF, 0) ∧ eSll .i32 1 32 0 0 = (0, 0) ∧ eSra .i32 0x80000000 99 0 0 = (0xFFFFFFFF, 0) ∧
    eClt .i32 0xFFFFFFFF 0 0 0 = (0xFFFFFFFF, 0) ∧ eSel .i32 1 2 0 0 = (2, 0) ∧ eAdd .f32 0x3F800000 0x40000000 0 0 = (0x40400000, 0) ∧
    eMul .f32 0x7F7FFFFF 0x40000000 0 0 = (0x7F800000, 20) ∧ (eMin .f32 0x7FC00000 0 0 0).1 = 0x7FC00000 := by decide +kernel

/-- R198, R214: chapter 9's sum of 2^24, 1, 1 and 1 in f32 is 16,777,218 exactly. -/
theorem test_tree_sum : (sumList .f32 2 [0x4B800000, 0x3F800000, 0x3F800000, 0x3F800000]).1 = 0x4B800001 := by decide +kernel

/-- R196: chapter 9's plane value: x = -87 read to k = 4 planes is rounded down to a multiple of 16, -96. -/
theorem test_planes : planeValue 8 0xA9 = -87 ∧ planeValue 4 0xA9 = -96 := by decide +kernel

/-- R59, R205, R209: a trigger of va0 with v1 adds it to latch .b; the result stands in va0.y after five cycles. -/
theorem test_vector_add :
    let k : Core := { v := [(1, [(0, 5), (1023, 7)])], latch := [(0x141, [(0, 1)])] }
    ((landed (.vaAdd (.v 1) .va0 .i32) (on k)).rRes 0x140) = [(0, 6), (1023, 7)] ∧ ((after (.vaAdd (.v 1) .va0 .i32) (on k)).core 0).pipe.map (·.land) = [5] := by decide +kernel

/-- R308: ainc wraps at its bound; afaddb adds only within its bound; a compare-and-swap of the wrong value writes nothing; radd saturates. -/
theorem test_atomic_values :
    atomicVal (.aincW (aa 5 0 3)) 32 9 0 9 = (some 0, false) ∧ atomicVal (.afaddbD (aa 5 2 3)) 64 9 2 10 = (none, false) ∧
    atomicVal (.afaddbD (aa 5 2 3)) 64 8 2 10 = (some 10, true) ∧ atomicVal (.acasW (aa 5 2 3)) 32 4 7 5 = (none, false) ∧
    atomicVal (.aminD (aa 5 2 0)) 64 3 (2 ^ 64 - 1) 0 = (some (2 ^ 64 - 1), false) ∧ atomicVal (.radd (aa 0 2 0)) 64 (2 ^ 64 - 2) 5 0 = (some (2 ^ 64 - 1), false) := by decide +kernel

/-- R137, R138: chapter 6's wait: CH.WP.3 = 2,560 is below the target 3,072; once it is reached the wait holds. -/
theorem test_waypoint_wait :
    let k : Core := { x := [(13, 3072)], sr := [(0x063, 2560)] }
    ((after (.wpwait 40 13 3) (on k)).core 0).pipe.map (fun o => (o.land, k.waitHolds o, (k.wsr 0x063 3072).waitHolds o)) = [(40, false, true)] := by decide +kernel

/-- R230, R234: the bundle at the end of a loop of two rounds goes back to its first bundle, and then on. -/
theorem test_loop_end :
    let k : Core := { sr := [(0x20, 2), (0x21, 0x40), (0x22, 0x80)] }
    ((k.sequence 0x80 4).1.pc, ((k.sequence 0x80 4).1.sequence 0x80 4).1.pc) = (0x40, 0x84) := by decide +kernel

/-! ## Concrete states that meet the hypotheses of the statements -/

/-- A core that runs. -/
def run : Core := { run := .running }

/-- The placed bundle of li x5, 3. -/
def placed : State := State.reset.withFetchWord 32 0x0B140003

/-- Core 0 at the bundle of one instruction, and changed. -/
def at_ (i : Instr) (bits : Nat) (f : Core → Core) : State :=
  let s := State.reset.withFetchWord bits (encode i)
  s.setCore 0 (f (s.core 0))

/-- The partition with block 0 of main memory. -/
def owned : State := State.reset.ww (rpage 0x6000) 0x110

theorem witness_EncodedInstructionsDecode :
    (Instr.add 3 1 2).kind = some .sa ∧ (Instr.add 3 1 2).wf = true ∧ saOnly (fldN (encode (.add 3 1 2)) 24 8) = false ∧
    (Instr.rrd (aa 5 0 0)).kind = some .mem ∧ (Instr.rrd (aa 5 0 0)).wf = true := by decide +kernel

theorem witness_DecodedWordsAreEncodings :
    (0x0B140003 < 2 ^ (8 * SlotKind.sa.bytes)) ∧ decodeSlot .sa 0x0B140003 = .ok (.li 5 3) := ⟨by decide, rfl⟩

/-- An input due in this cycle (the boundary), one that is not yet due with a turn, an empty queue with a turn, and neither. -/
theorem witness_AStepTakesTheNextHappening :
    let h : Happening := { cur := {}, act := .budgetRefill }
    (∃ s : State, s.inputs = [{ wall := s.wall, hap := h }] ∧ s.wall ≤ s.wall) ∧
    (∃ s : State, s.inputs = [{ wall := s.wall + 1, hap := h }] ∧ s.wall < s.wall + 1 ∧ s.turn = [h]) ∧
    (∃ s : State, s.inputs = [] ∧ s.turn = [h]) ∧ (∃ s : State, s.inputs = [] ∧ s.turn = []) :=
  ⟨⟨{ State.reset with inputs := [{ wall := 0, hap := { cur := {}, act := .budgetRefill } }] }, by decide +kernel⟩,
   ⟨{ State.reset with inputs := [{ wall := 1, hap := { cur := {}, act := .budgetRefill } }], turn := [{ cur := {}, act := .budgetRefill }] }, by decide +kernel⟩,
   ⟨{ State.reset with turn := [{ cur := {}, act := .budgetRefill }] }, by decide +kernel⟩, ⟨State.reset, by decide +kernel⟩⟩

theorem witness_BundlesAreDecodedAndIssued_look :
    (∀ m ∈ [0, 7], let k : Core := { placed.core 0 with wmStop := m, handler := true }
     let t := placed.setCore 0 k
     let h := 0xA0000000
     let w := 0xA0000000 + 0x0B140003 * 2 ^ 32
     (k.skipBrk = true ∨ k.hits k.pc = 0) ∧ k.stepFrom = false ∧ t.code 0 k.pc 4 = some h ∧ t.missing 0 k.pc (Header.len h) = none ∧
     (Header.way h = false ∨ k.wmStop = 0 ∨ k.handler = true) ∧ t.code 0 k.pc (Header.len h) = some w ∧
     (decodeBundle w).toOption.map (·.slots) = some [(1, .li 5 3)] ∧ k.illegal [(1, .li 5 3)] = none ∧ hasLink [(1, .li 5 3)] = false ∧
     k.conflict [(1, .li 5 3)] = none ∧ k.queueLook [(1, .li 5 3)] = none ∧ k.preFreeze [(1, .li 5 3)] = none) ∧
    (∀ b ∈ [0, 1], let k : Core := { (placed.core 0).wsr 0x18F (BitVec.ofNat 64 b) with skipBrk := false, stepFrom := true }
     k.skipBrk = false ∧ (k.hits k.pc ≠ 0 ↔ b = 1) ∧ k.stepFrom = true) := by decide +kernel

/-- A bundle that does not decode, one whose slot lacks its level, one that finds a port held, one that overfills a queue, and one that waits for a head. -/
theorem witness_BundlesAreDecodedAndIssued_stops :
    let found (s : State) : Bool := (s.me.skipBrk || s.me.hits s.me.pc == 0) && !s.me.stepFrom && (match s.code 0 s.me.pc 4 with
      | some h => (s.missing 0 s.me.pc (Header.len h)).isNone && !Header.way h && (s.code 0 s.me.pc (Header.len h)).isSome | none => false)
    let slots (s : State) : List (Nat × Instr) := (match decodeBundle ((s.code 0 s.me.pc (match s.code 0 s.me.pc 4 with | some h => Header.len h | none => 0)).getD 0) with
      | .ok b => b.slots | .error _ => [])
    (let s := State.reset.withFetchWord 32 0xFF000000
     found s = true ∧ slots s = []) ∧
    (let s := at_ (.srwr 0x0C7 1) 32 fun k => { k with level := .user }
     found s = true ∧ s.me.illegal (slots s) = some (7, 1)) ∧
    (let s := at_ (.ldb (ma .spm)) 64 fun k => { k with ports := [(0, k.sched + 1, 3)] }
     found s = true ∧ s.me.illegal (slots s) = none ∧ hasLink (slots s) = false ∧ (s.me.conflict (slots s)).isSome = true) ∧
    (let s := at_ (.qld (ma .spm)) 64 fun k => { k with queues := [List.replicate 8 { op := 0, spm := true, filled := false, data := [] }, [], [], []] }
     found s = true ∧ s.me.illegal (slots s) = none ∧ hasLink (slots s) = false ∧ s.me.conflict (slots s) = none ∧
     (match s.me.queueLook (slots s) with | some (.inl st) => st.cause | _ => 0) = 0x83) ∧
    (let q : Op := { id := 4, act := some (.qld (ma .glb)), land := 9, phase := .fly }
     let s := at_ (.move (.pop 0) (.v 1)) 24 fun k => { k with pipe := [q], queues := [[{ op := 4, spm := false, filled := false, data := [] }], [], [], []] }
     found s = true ∧ s.me.illegal (slots s) = none ∧ hasLink (slots s) = false ∧ s.me.conflict (slots s) = none ∧
     (match s.me.queueLook (slots s) with | some (.inr ids) => ids | _ => []) = [4] ∧ s.me.preFreeze (slots s) = none) := by decide +kernel

/-- A vector unit that is busy and one that is not; an access of the scratchpad; a queue's names. -/
theorem witness_BundlesAreDecodedAndIssued_units :
    (∃ a v, Instr.trigger (.vaAdd (.v 9) .va0 .f32) = some (a, v) ∧ (0 : Nat) < Sparse.get 0 ({ run with unitEnd := [(v.code, 1)] } : Core).unitEnd v.code) ∧
    run.busySlot [(1, .li 5 3)] = none ∧ (ma .spm).sp = .spm ∧ run.sched < run.sched + 1 ∧ ({ run with ports := [(2 * 0, 1, 3)] } : Core).ports = [(2 * 0, 1, 3)] ∧
    (ma .spm (tg := 3)).tg.toNat = (3 : BitVec 2).toNat ∧ Instr.moveSrc (.move (.pop 3) (.v 1)) = some (.pop 3) ∧ fillsQueue (.move (.peek 3) (.v 1)) = none ∧
    placed.strikes = [] := ⟨⟨_, _, rfl, by decide +kernel⟩, by decide +kernel⟩

/-- What a due core finds: a breakpoint and a step stop, a stop of its bundle, a bundle to issue with a word that is upset in two bits, a freeze, and a line that it lacks. -/
theorem witness_BundlesAreDecodedAndIssued_issue :
    let due (s : State) : Bool := decide (s.cur.core < nCores) && s.me.freeze == 0 && s.me.pipe.all (fun o => !o.fault) && s.me.dueIssue
    let look (s : State) : Look := (s.landAll 0).look 0
    due placed = true ∧ (match look placed with | .go b => b.slots | _ => []) = [(1, .li 5 3)] ∧ (placed.codeRead 0 0).1 = true ∧
    (∀ c ∈ [0x88, 0x89], let s := placed.setCore 0 { (placed.core 0).wsr 0x188 1 with skipBrk := c == 0x89, stepFrom := true }
     due s = true ∧ (match look s with | .stop st _ => st.cause | _ => 0) = c) ∧
    (let s := State.reset.withFetchWord 32 0xFF000000
     due s = true ∧ (match look s with | .stop st none => st.cause | _ => 0) = 0x81 ∧ (s.codeRead 0 s.me.pc).1 = true) ∧
    (let s : State := { placed with strikes := [{ wall := 0, core := 0, arr := 4, word := 0, double := true }] }
     due s = true ∧ (match look s with | .go b => b.slots | _ => []) = [(1, .li 5 3)] ∧ (s.codeRead 0 s.me.pc).1 = false) ∧
    (let s := at_ (.move (.pop 0) (.v 1)) 24 fun k => { k with pipe := [{ id := 4, act := some (.qld (ma .glb)), land := 9, phase := .fly }], queues := [[{ op := 4, spm := false, filled := false, data := [] }], [], [], []] }
     due s = true ∧ (match look s with | .freeze n ids => (n, ids) | _ => (0, [])) = (20, [4]) ∧ (s.codeRead 0 s.me.pc).1 = true) ∧
    (let s := placed.setCore 0 { placed.core 0 with icache := [] }
     due s = true ∧ (match look s with | .fetch n => n | _ => 9) = 0) := by decide +kernel

/-- Two operations in flight that nothing waits for in a table. -/
theorem witness_CoresLandAndFreeze_waits :
    let p : Op := { id := 0, act := some (.std (ma .glb)), land := 0, phase := .fly }
    let o : Op := { id := 1, act := some (.ldd (ma .glb)), land := 0, phase := .fly }
    ({ run with pipe := [p, o] } : Core).pipe = [p, o] ∧ o.id ≠ p.id ∧ (∀ x, o.act ≠ some (.rwait x)) ∧ (∀ l t, o.act ≠ some (.cwait l t)) ∧
    ∀ l a n, o.act ≠ some (.wpwait l a n) :=
  ⟨rfl, by decide, fun _ => nofun, fun _ _ => nofun, fun _ _ _ => nofun⟩

/-- The slots of a bundle, each by what exec makes of it, from the state that begins the issue. -/
theorem witness_BundlesAreDecodedAndIssued_slots :
    let b : Bundle := { slots := [(1, .li 5 3)], idle := 0, way := false, wit := false, len := 8 }
    (∀ e ∈ b.slots, e.2.kind.isSome = true) ∧
    ∃ f : Nat → State, f 0 = (placed.useLines 0 (placed.core 0).pc b.len).modCore 0 Core.beginIssue ∧
      ∀ k e, (actOrder b.slots)[k]? = some e →
        exec e.2 { f k with cur := { core := 0, slot := e.1, addr := (placed.core 0).pc, wit := b.wit } } = .next (f (k + 1)) := by
  refine ⟨by decide +kernel, fun n => match n with
    | 0 => (placed.useLines 0 (placed.core 0).pc 8).modCore 0 Core.beginIssue
    | _ + 1 => after (.li 5 3) { (placed.useLines 0 (placed.core 0).pc 8).modCore 0 Core.beginIssue with
        cur := { core := 0, slot := 1, addr := (placed.core 0).pc, wit := false } }, rfl, ?_⟩
  intro k e h
  match k, h with
  | 0, h => cases h; rfl
  | k + 1, h => simp [actOrder, Instr.trigger] at h

theorem witness_BundlesAreDecodedAndIssued_frozen : (on { run with freeze := 19 }).me.freeze ≠ 0 := by decide +kernel

/-- A replay cycle; a pulse that the throttle swallows; a cycle with no late load, and one that waits for a late load. -/
theorem witness_CoresLandAndFreeze_cycle :
    let st (s : State) : State := s.settle s.cur.core
    let load : Op := { id := 0, act := some (.ldw (ma .glb)), land := 0, phase := .fly }
    (let s := on { run with replay := 2 };
      s.me.run = .running ∧ ((st s).core 0).replay ≠ 0) ∧
    (let s : State := { on { run with nextIssue := 1 } with level := 1 };
      s.me.run = .running ∧ ((st s).core 0).replay = 0 ∧ (st s).swallows 0 = true ∧ ((st s).core 0).mretry = none ∧ ((st s).core 0).resuming = false ∧
      (st s).late 0 = [] ∧ (st s).lookAhead 0 = none) ∧
    (∀ e ∈ [(([] : List Op), ([] : List Nat)), ([load], [19])],
      let s := on { run with nextIssue := 1, pipe := e.1 };
      s.me.run = .running ∧ (st s).swallows 0 = false ∧ ((st s).core 0).replay = 0 ∧ ((st s).core 0).mretry = none ∧ ((st s).core 0).staged = false ∧
      ((st s).core 0).resuming = false ∧ (st s).urgent 0 = none ∧ ((st s).core 0).ext = [] ∧ (((st s).landAll 0).core 0).claiming = none ∧
      (st s).lookAhead 0 = none ∧ (st s).late 0 = e.2 ∧ (e.2 = [] → ∀ o ∈ ((st s).core 0).pipe, (st s).takenNow 0 o = false)) := by
  decide +kernel

theorem witness_CoresLandAndFreeze_landing :
    let o : Op := { id := 0, act := some (.addi 5 0 1), land := 0, ws := [1], dest := 0x105 }
    let u := on { run with pipe := [o] }
    u.setCore 0 (u.core 0) = u ∧ (u.core 0).pipe = [o] ∧ o.accpDue (u.core 0).sched = false := by decide +kernel

/-- A remote write, and a pipe with an access that is waited for. -/
theorem witness_CoresLandAndFreeze_remote :
    (({ run with rwrite := [(5, 1)] } : Core).rwrite ≠ []) ∧
    (({ run with pipe := [{ id := 0, act := some (.ldd (ma .clr)), land := 9, phase := .fly }] } : Core).pipe[0]?).isSome = true := by decide +kernel

/-- A line that is read, one whose fill is uncorrectable, and a core frozen for an entry. -/
theorem witness_CoresLandAndFreeze_lines :
    (placed.fetchLine 0 1 .none).1.toOption.isSome = true ∧ (placed.fetchLine 0 1 .uncorrectable).1.toOption.isSome = false ∧
    (on { run with freeze := 19 }).me.freeze = 19 ∧ (on { run with freeze := 19 }).me.requests < 1024 := by decide +kernel

theorem witness_EveryInstructionIsCarriedOut : State.reset.cur.core < nCores ∧ (Instr.add 1 2 3).kind.isSome = true := by decide +kernel

theorem witness_StepsKeepTheMemoryForm :
    let s : State := { placed with mem := [(5, 1), (7, 2)] }
    s.memWf ∧ ∃ t, step s = .next t := ⟨⟨by decide +kernel, by decide +kernel⟩, _, rfl⟩

theorem witness_ScalarResults : (on kx).cur.core < nCores := by decide +kernel

theorem witness_ScalarDivision :
    (on kx).cur.core < nCores ∧ (on kx).me.rx 0 = 0 ∧ (on kx).me.rx 3 = BitVec.intMin 64 ∧ (on kx).me.rx 2 = BitVec.allOnes 64 ∧
    (on kx).me.rx 1 ≠ 0 ∧ ¬ ((on kx).me.rx 3 = BitVec.intMin 64 ∧ (on kx).me.rx 1 = BitVec.allOnes 64) := by decide +kernel

theorem witness_ScalarDivision_flags : (∀ d a b, Instr.add 3 1 2 ≠ .div d a b ∧ Instr.add 3 1 2 ≠ .divu d a b ∧ Instr.add 3 1 2 ≠ .rem d a b ∧ Instr.add 3 1 2 ≠ .remu d a b) ∧
    scalarVal (.add 3 1 2) 5 6 0 = some (11, 0) := ⟨fun _ _ _ => ⟨nofun, nofun, nofun, nofun⟩, by decide +kernel⟩

/-- jl at 0 with the headers of the bundle and of its two delay bundles held. -/
theorem witness_BranchesAndJumps :
    let s := State.reset.placeBundle (bytesLE 16 (0xA0000000 + 0x17F80005 * 2 ^ 32 + 0x80000000 * 2 ^ 64 + 0x80000000 * 2 ^ 96))
    s.cur.core < nCores ∧ s.header s.cur.addr = some 0xA0000000 ∧ s.header (codeAddr (0 + Header.len 0xA0000000)) = some 0x80000000 ∧
    s.header (codeAddr (codeAddr (0 + Header.len 0xA0000000) + Header.len 0x80000000)) = some 0x80000000 := by decide +kernel

/-- No active loop; one active loop at its end, with count 2 and with count 1, the boundary. -/
theorem witness_TheSequencerChoosesTheNextBundle :
    (∀ n, n < 4 → ({} : Core).loopCnt n = 0) ∧ ({} : Core).pend = [] ∧
    (∀ cnt ∈ [2, 1], let c : Core := { sr := [(0x2C, BitVec.ofNat 64 cnt), (0x2D, 0x40), (0x2E, 0x80)] }
      c.loopCnt 3 ≠ 0 ∧ c.loopEnd 3 = 0x80 ∧ (∀ m, m < 4 → m ≠ 3 → c.loopCnt m = 0) ∧ c.loopCnt 3 = cnt) := by decide +kernel

theorem witness_LoopsAndGeneratorsAreSet :
    placed.cur.core < nCores ∧ placed.header placed.cur.addr = some 0xA0000000 ∧
    (let c : Core := { sr := [(0x31, 7), (0x32, 8), (0x33, 6)] }
     c.rsr 0x32 ≠ 0 ∧ (0 < 4) ∧ c.rsr 0x36 = 0) := by decide +kernel

theorem witness_SystemRegisterSlots :
    (on kx).cur.core < nCores ∧ (on kx).me.level.reaches (Instr.srrd 5 0x001).needs = true ∧ (on kx).me.level.reaches (Instr.srrd 5 0x002).needs = true ∧
    (on kx).me.level.reaches (Instr.srwr 0x0C9 1).needs = true ∧ (on kx).me.level.reaches (Instr.srset 0x0C9 1).needs = true ∧
    (on kx).me.level.reaches (Instr.srclr 0x0C9 1).needs = true ∧ (on { kx with level := .partition }).me.level.reaches (Instr.srwr 0x108 1).needs = true := by decide +kernel

/-- The first and the last core, a shared register and one of the core, and WC.SIG. -/
theorem witness_SystemRegisterValues :
    (∀ c ∈ [0, 127], c < nCores ∧ (State.reset.core c).lpos < 128 ∧ (State.reset.core c).part < 16) ∧ sysShared 0x108 = true ∧ sysShared 0x0C9 = false ∧
    (0x0C9 : Nat) ≠ 0x018 ∧ ¬ (0x1A0 ≤ 0x0C9 ∧ 0x0C9 < 0x1B0) ∧ sysShared 0x018 = false := by decide +kernel

theorem witness_StopsAndEndings :
    (on kx).cur.core < nCores ∧
    (∀ i ∈ [Instr.srrd 5 0x0C7, .srwr 0x0C7 1, .srset 0x0C7 1, .srclr 0x0C7 1, .resume, .mretry, .mclaim, .mrelease, .tlbiva (ma .glb), .tlbiall, .l2inv (ma .glb)],
      (on kx).me.level.reaches i.needs = false) ∧
    (∀ b ∈ [true, false], let s := on { kx with level := .partition, handler := true, mx := { claim := b } }
      s.me.level.reaches .partition = true ∧ s.me.handler = true ∧ s.me.mx.claim = b) ∧
    (on { kx with level := .partition }).me.handler = false ∧ (on kx).me.guarded = false := by decide +kernel

/-- A scratchpad without upsets, and one whose first word has one in two bits; the blocks are those of a push, of a scale read and of a load. -/
def struck : State := { on run with strikes := [{ wall := 0, core := 0, arr := 0, word := 0, double := true }] }

/-- A core in tile 2 of a guarded launch: the first residual, a greater one, and one that is NaN. -/
def guarded (got : Bool) (r v : Elem) : State :=
  { on { x := [(1, v.setWidth 64)], launch := some 7, tile := some 2, sr := [(0x161, 0x10002)] } with
    launches := [{ key := 7, part := 0, q := 0, idx := 0, desc := [], st := .running, tiles := [{ n := 2, cores := [0], rcores := [], got := got, r := r }, { n := 3, cores := [], rcores := [] }] }] }

theorem witness_StopsAndEndings_gsres :
    ∀ e ∈ [(false, 0, 0xBF800000), (true, 0x3F800000, 0x40000000), (true, 0x7FC00000, 0x40000000), (true, 0x3F800000, 0x7FC00001)],
      let s := guarded e.1 e.2.1 e.2.2
      s.me.guarded = true ∧ (∃ l x, s.launches[0]? = some l ∧ l.tiles[0]? = some x ∧ s.me.launch = some l.key ∧ s.me.tile = some x.n) ∧
      ∃ l x, s.launches[0]? = some l ∧ l.tiles[1]? = some x ∧ s.me.tile ≠ some x.n := by
  intro e h
  simp only [List.mem_cons, List.not_mem_nil, or_false] at h
  rcases h with rfl | rfl | rfl | rfl <;> exact ⟨by decide +kernel, ⟨_, _, rfl, rfl, rfl, rfl⟩, _, _, rfl, rfl, by decide⟩

/-- Each urgent stop of the order in turn, and none; a conversion that overflows at its landing. -/
theorem witness_UrgentStopsAreTaken :
    let o : Op := { id := 0, act := some (.gsres 1), land := 1, fault := true, cause := 0xA3 }
    let d : Op := { id := 0, act := some (.cvDn (.v 1) .i8 .rne .stop), land := 0, vs := [[(0, 0x7F7FFFFF)], []] }
    (∀ x ∈ [0x8C, 0x8E, 0x8A], ([0x8C, 0x8E, 0x8A] : List Nat).find? ({ run with ext := [x] } : Core).ext.contains = some x) ∧
    ([0x8C, 0x8E, 0x8A] : List Nat).find? run.ext.contains = none ∧ run.landStops = [] ∧ run.trapped = none ∧ run.pipe.find? (·.fault) = none ∧
    ({ run with trapped := some (0x87, 5) } : Core).landStops = [] ∧ ({ run with pipe := [o] } : Core).landStops = [] ∧
    ({ run with pipe := [o] } : Core).pipe.find? (·.fault) = some o ∧ ({ run with pipe := [d] } : Core).landStops = [(d, 0x90)] ∧ d.fault = false ∧
    ({ run with pipe := [d] } : Core).landStop d = some 0x90 ∧ ({ d with land := 1 } : Op).due run.sched = false ∧
    (0 : Nat) < nCores ∧ bitN (((on run).core 0).rsr 0x198).toNat 2 = false ∧ bitN ((on run).rp 0 0x108).toNat 0 = false ∧ ((on { run with handler := true }).core 0).handler = true ∧
    rootCause 0x8C 0 = true := by decide +kernel

/-- A core whose in-place area is written: the commit word, the memories that are read, and all the parts. -/
theorem witness_TheHandlerIsEntered :
    (0 : Nat) < nCores ∧ (127 : Nat) < nCores ∧
    (let s := (owned.wwF (rpage 0x8018) 0 1 0).setCore 0 { run with run := .saving 2 0, level := .root }
     let a := s.inplaceArea 0
     let w := Area.virt (s.handlerCtx 0)
     let h := s.areaHead 0 2 (s.core 0).recordBlob
     let u := s.storeArea w (a + 8) (h.commit false)
     u.1 = none ∧ (u.2.readSaved 0 [(0, 0x2F0000, 0x10000)]).1 = true) := by decide +kernel

/-- A push at the last 16 KiB of a bank group, a sparse push with a segment and one without, one whose block is not aligned, one past the scratchpad, and one that
meets an uncorrectable word. -/
theorem witness_PushesFillTheirSlot :
    (on run).me.arrayDenied = none ∧ (on run).strikes = [] ∧
    (let k : Core := { run with sr := [(0x30, BitVec.ofNat 64 (0x400000 - lenA .bf16 0 false)), (0x34, 0x100000)] }
     pushCheck (k.ag 0).toNat ((k.agStep 0).ag 1).toNat .bf16 .bf16 0 false = none) ∧
    pushCheck 0 0x100000 .bf16 .bf16 0 true = none ∧ (({ run with sr := [(0x0C6, 0)] } : Core).segPush (pairW .bf16 0)).isSome = true ∧
    (run.segPush (pairW .bf16 0)).isNone = true ∧
    firstCause [(on run).me.arrayDenied, pushCheck 64 0 .bf16 .bf16 0 false] = some 0x92 ∧
    firstCause [(on run).me.arrayDenied, pushCheck 0x400000 0 .bf16 .bf16 0 false] = some 0x93 ∧
    firstCause [(on { run with handler := true }).me.arrayDenied, none] = some 0x98 ∧
    (∀ e ∈ [(on run, true), (struck, false)], let r := e.1.arrayRead 0 0 [(0, 16384), (0x100000, 16384)]
      r.1 = e.2 ∧ r.2.cur = e.1.cur ∧ r.2.me = e.1.me ∧ e.1.me.arrayDenied = none) := by decide +kernel

/-- A slot that records the beat's pair, before and after the first beat; and one that does not; the blocks of an accp, dense and sparse, that are whole. -/
theorem witness_BeatsAccumulate :
    (on run).me.arrayDenied = none ∧ (on run).me.accCheck ((on run).me.slot 3) .e4m3 .e4m3 0 false = none ∧
    (on { run with mx := { cls := 4 } }).me.accCheck {} .e4m3 .e4m3 0 false = none ∧
    firstCause [(on run).me.arrayDenied, (on run).me.accCheck ((on run).me.slot 3) .bf16 .bf16 0 false] = some 0x99 ∧
    firstCause [(on run).me.arrayDenied, (on { run with mx := { cls := 3 } }).me.accCheck {} .e4m3 .e4m3 0 false] = some 0x99 ∧
    bitN ((on run).me.rsr 0x0C7).toNat 63 = false ∧ (on run).strikes = [] ∧ intClass (pairClass .i8) = true ∧ intClass (pairClass .e4m3) = false ∧
    (∀ sp ∈ [true, false], let s := on { run with mx := { slots := [{ sp := sp }, {}, {}, {}] } }
     (s.arrayRead 0 0 [(0, lenA .e4m3 0 sp), (0x100000, lenB .e4m3 .e4m3 0 sp)]).1 = true ∧ pushCheck 0 0x100000 .e4m3 .e4m3 0 sp = none ∧
     s.me.accCheck (s.me.slot 0) .e4m3 .e4m3 0 sp = none) ∧
    (run.segPush (pairW .e4m3 0)).isNone = true ∧ (({ run with sr := [(0x0C6, 0)] } : Core).segPush (pairW .e4m3 0)).isSome = true := by decide +kernel

theorem witness_ShiftsAndClears :
    (on run).cur.core < nCores ∧ (on run).me.arrayDenied = none ∧ samePair ((on run).me.slot 3) ((on run).me.slot ((3 + 1) % 4)) = true ∧
    (let k : Core := { run with mx := { slots := [{ fa := .npi, fb := .npi }, { fa := .npi, fb := .npi }, {}, {}] } }
     samePair (k.slot 0) (k.slot 1) = true ∧ (k.slot 0).fa = .npi) ∧
    samePair ((on { run with mx := { slots := [{ fa := .bf16 }, {}, {}, {}] } }).me.slot 0) ((on { run with mx := { slots := [{ fa := .bf16 }, {}, {}, {}] } }).me.slot 1) = false := by
  decide +kernel

/-- An integer pass; an mretry that can and one that cannot, outside and in a handler. -/
theorem witness_ChecksAndRecovery :
    (on { run with mx := { cls := 1, p := [(0, 5)] } }).me.arrayDenied = none ∧ (on { run with mx := { cls := 1, p := [(0, 5)] } }).me.mx.cls = 1 ∧
    (let s := on { run with level := .partition }
     s.me.level.reaches .partition = true ∧ ¬ (bitN (s.me.rsr 0x0C1).toNat 1 = true ∧ bitN (s.me.rsr 0x0C2).toNat 0 = true)) ∧
    (∀ h ∈ [true, false], let s := on { run with level := .partition, handler := h, sr := [(0x0C1, 3), (0x0C2, 0x41)] }
     s.me.level.reaches .partition = true ∧ s.me.handler = h ∧ bitN (s.me.rsr 0x0C1).toNat 1 = true ∧ bitN (s.me.rsr 0x0C2).toNat 0 = true) := by decide +kernel

theorem witness_DrainsPutRowsInTheirTile :
    (on run).cur.core < nCores ∧ (on run).me.arrayDenied = none ∧ bitN (run.rsr 0x0C1).toNat 1 = false ∧ bitN (({ run with sr := [(0x0C1, 2)] } : Core).rsr 0x0C1).toNat 1 = true := by
  decide +kernel

theorem witness_ClaimsAndReleases :
    ∀ b ∈ [true, false], let s := on { run with level := .partition, mx := { claim := b } }
      s.cur.core < nCores ∧ s.me.level.reaches .partition = true ∧ s.me.mx.claim = b := by decide +kernel

/-- The last place of each size that the scratchpad holds, and an uncorrectable word. -/
theorem witness_ScalesAndIndicesAreRead :
    (on run).cur.core < nCores ∧ (on run).me.arrayDenied = none ∧ (on run).strikes = [] ∧ blockCheck 128 (0x400000 - 128) 128 = none ∧ blockCheck 128 0 (64 * 2 ^ 2 + 64) = none ∧
    blockCheck 8 (0x400000 - 8) 8 = none ∧ blockCheck 128 64 128 = some 0x92 ∧
    (∀ e ∈ [(on run, true), (struck, false)], let r := e.1.arrayRead 0 0 [(0, 128)]
      r.1 = e.2 ∧ r.2.cur = e.1.cur ∧ r.2.me = e.1.me) := by decide +kernel

/-- A load of the scratchpad from a word that is whole and from one that is not. -/
theorem witness_AccessesJoinTheOperations_read :
    (on run).strikes = [] ∧
    ∀ e ∈ [(on run, true), (struck, false)], ∃ f a vi, e.1.me.level.reaches (Instr.ldd (ma .spm (a := 0))).needs = true ∧
      accessAt e.1.me (.ldd (ma .spm (a := 0))) = some (a, vi) ∧ memForm (.ldd (ma .spm (a := 0))) = some f ∧
      (readAtIssue e.1 (.ldd (ma .spm (a := 0))) f a vi).1 = e.2 ∧ (readAtIssue e.1 (.ldd (ma .spm (a := 0))) f a vi).2.cur = e.1.cur ∧
      (readAtIssue e.1 (.ldd (ma .spm (a := 0))) f a vi).2.me = e.1.me := by
  refine ⟨rfl, ?_⟩
  intro e h
  simp only [List.mem_cons, List.not_mem_nil, or_false] at h
  rcases h with rfl | rfl <;> exact ⟨_, _, _, by decide +kernel, rfl, rfl, by decide +kernel⟩

/-- A partition's memory-error log that is off, and one that has place for a record. -/
theorem witness_AccessesAreChecked_records :
    getF (State.reset.rw (memLog (some 0))) 3 45 = 0 ∧
    (let s := (owned.wwF (rpage 0x8018) 0 1 0).ww (memLog (some 0)) (0x10000 + 2 ^ 48)
     let base := getF (s.rw (memLog (some 0))) 3 45 * 8
     base ≠ 0 ∧ s.agentOk (some 0) { r := true } base = some 0x10000 ∧ s.sectorBad false (0x10000 / 32) = false ∧
     (s.gran false 0x10000 + 2 ^ 32 - getF (s.rw (memAck (some 0))) 0 32) % 2 ^ 32 ≠ 2 ^ getF (s.rw (memLog (some 0))) 48 4) := by decide +kernel

/-- Table entries of each sort; a read of each outcome. -/
theorem witness_AccessesAreChecked_entries :
    bitN 0 0 = false ∧ (bitN 0x20001 0 = true ∧ bitN 0x20001 1 = false ∧ fldN 0x20001 11 5 = 0 ∧ fldN 0x20001 56 8 = 0 ∧ fldN 0x20001 2 9 = 0 ∧ (2 : Nat) ≠ 1) ∧
    (bitN 0x4003F 0 = true ∧ bitN 0x4003F 1 = true ∧ fldN 0x4003F 11 5 = 0 ∧ fldN 0x4003F 56 8 = 0 ∧ fldN 0x4003F 8 2 ≠ 3 ∧ bitN 0x4003F 5 = true) ∧
    (∀ e ∈ [((0 : Nat), some 1), (0x20001, none), (0x4003F, none), (0x8000000000000001, some 3)], (match readEntry e.1 2 false with | .error k => some k | .ok _ => none) = if e.1 = 0x4003F then some 3 else e.2) ∧
    (readEntry 0x4003F 1 true).toOption.isSome = true ∧ (1 : Nat) ≤ 3 ∧
    (let l : Leaf := { pa := 0, size := 65536, r := true, w := true, x := false, u := false, g := false, ms := false, ca := 0, tier := 0, lvl := 1 }
     l.lvl ≠ 0 ∧ l.r = true ∧ l.w = true ∧ l.u = false ∧ { l with r := false }.r = false) := by decide +kernel

/-- A walk of three tables to a page, one whose last entry is not valid, one whose second stage fails, and an address past the space. -/
theorem witness_AccessesAreChecked_walks :
    let s : State := { owned.wwF (rpage 0x8018) 0 1 0 with mem := [(0x10000, 1), (0x10002, 2), (0x20000, 1), (0x20002, 3), (0x30000, 0x3F), (0x30002, 4)] }
    let cx : Ctx := { s.ctx 0 with part := 0, level := .root, root := 0x10001 }
    let first (va : Nat) := walkFrom va false (stage1Read s cx.part cx.level (dieOf cx.core) false) 3 (fldN cx.root.toNat 16 32 * 65536)
    bitN cx.root.toNat 0 = true ∧ (first 8).1.toOption.map (fun l => (l.pa, l.lvl)) = some (0x40000, 1) ∧ (first 65536).1.toOption.isNone = true ∧
    ((first 8).1.toOption.bind fun l₁ => let gpa := (l₁.pa + 8 % l₁.size) % 2 ^ 48
      (stage2Walk s cx.part cx.level gpa).1.toOption.map fun l₂ => let pa := l₂.pa + gpa % l₂.size
        leafFits l₁ l₂ pa && leafFits l₂ { l₁ with lvl := 0 } pa) = some true ∧
    (let t := s.ww (rpage 0x8018) 1
     bitN (t.s2 0).toNat 0 = true ∧ (stage2Walk t 0 cx.level 0).1.toOption.isNone = true) ∧
    (let t : State := { s.ww (rpage 0x8018) 0x50001 with mem := [(0x10000, 1), (0x10002, 2), (0x20000, 1), (0x20002, 3), (0x30000, 0x3F), (0x30003, 0x20), (0x50000, 1), (0x50002, 6), (0x60000, 0x3F)] }
     let l := (walkFrom 8 false (stage1Read t 0 cx.level 0 false) 3 0x10000).1.toOption
     l.map (·.pa) = some 0x20000000 ∧ (l.map fun l => (stage2Walk t 0 cx.level ((l.pa + 8 % l.size) % 2 ^ 48)).1.toOption.isNone) = some true) ∧
    bitN (s.s2 1).toNat 0 = false ∧ s.partRoot 1 = false ∧ 2 ^ 55 ≤ (2 ^ 55 : Nat) := by decide +kernel

theorem witness_MovesCarryWholeVectors :
    (on run).cur.core < nCores ∧ (1023 : Nat) < 1024 ∧ (31 : BitVec 7).toNat < 32 ∧
    (let e : QEntry := { op := 0, spm := true, filled := true, data := [(0, 1)] }
     ({ run with queues := [[], [], [], [e]] } : Core).queues.getD 3 [] = e :: []) := by decide +kernel

theorem witness_ArithmeticUnitOperations : (on run).cur.core < nCores := by decide +kernel

/-- A vector in canonical form up to element 1023; NaN operands, and operands that are not. -/
theorem witness_ElementsOfTheArithmeticUnits :
    (let v : Vec := [(0, 1), (1023, 2)]
     Sparse.wf 0 v = true ∧ (∀ x ∈ v, x.1 < 1024)) ∧
    0x7F800000 < ((0x7F800001 : Elem) &&& 0x7FFFFFFF).toNat ∧ ¬ 0x7F800000 < ((0xFF800000 : Elem) &&& 0x7FFFFFFF).toNat ∧
    (eAdd .i32 1 2 0 0).2.testBit 5 = false ∧ (eAdd .i32 0x7FFFFFFF 1 0 0).2.testBit 5 = true := by decide +kernel

theorem witness_PermuteUnitOperations :
    (on run).cur.core < nCores ∧ (List.replicate 64 (1 : Elem)).length = 64 ∧ (List.replicate 16 (1 : Elem)).length = 16 ∧ [(0x80000000 : Elem)] ≠ [] := by decide +kernel

/-- A down-conversion that is due, under policy stop and under another; a tie, and a value past the range of i8. -/
theorem witness_FunctionsAndConversions :
    let o : Op := { id := 0, act := some (.cvDn (.v 1) .i8 .rne .stop), land := 6, vs := [[(0, 0x7F7FFFFF)], []] }
    (on run).cur.core < nCores ∧ o.act = some (.cvDn (.v 1) .i8 .rne .stop) ∧ o.due 6 = true ∧ (vecDown .i8 .rne .stop o.vs).2.2 = true ∧ OvPol.sat ≠ .stop ∧
    (1023 < 1024) ∧ (convDown .i8 .rne .stop 0 (f32 0x4348B333)).stop = true ∧ (convDown .i8 .rne .sat 0 (f32 0x4348B333)).flags.testBit 2 = true ∧
    cvInt .i8 = some (8, true) ∧ cvInt .n32 = some (32, false) ∧
    (∀ e ∈ ([(1, 2, 2), (200, 0, 200), (126, 3, 127)] : List (Nat × Nat × Int)), e.2.1 < 4 ∧ 0 < 4 * e.1 + e.2.1 ∧
      (((e.2.1 = 3 ∨ (e.2.1 = 2 ∧ e.1 % 2 = 1)) ∧ e.2.2.natAbs = e.1 + 1) ∨ (¬ (e.2.1 = 3 ∨ (e.2.1 = 2 ∧ e.1 % 2 = 1)) ∧ e.2.2.natAbs = e.1)) ∧ 0 < e.2.2) := by decide +kernel

theorem witness_SignatureUnitOperations :
    let k : Core := { run with sig := 5, v := [(1, [(0, 5)]), (2, [(0, 6)])] }
    (on k).cur.core < nCores ∧ (on k).me.sig = Sparse.get 0 ((on k).me.src (.v 1)) 0 ∧ (on k).me.sig ≠ Sparse.get 0 ((on k).me.src (.v 2)) 0 := by decide +kernel

theorem witness_AccumulatorPortOperations :
    let o : Op := { id := 0, act := some (.apWr (.v 1)), land := 6, vs := [[], [(0, 24)]] }
    (on run).cur.core < nCores ∧ Instr.apWr (.v 1) ∈ [Instr.apRd (.v 1), .apWr (.v 1), .apAcc (.v 1)] ∧ o.act = some (.apWr (.v 1)) ∧ o.due 6 = true ∧
    bitN (512 : Nat) 9 = true ∧ bitN (0 : Nat) 9 = false ∧ (addF32 0x3F800000 0x30000000).2.testBit 4 = true := by decide +kernel

/-- Core 0 at root level with translation off, and one operation in flight. -/
def flight (o : Op) : State := placed.setCore 0 { run with level := .root, pipe := [o] }

/-- An access of eight bytes at physical address 0x1000 whose only part is on its way. -/
def fly (i : Instr) (n : Nat) : Op :=
  { id := 0, act := some i, land := 100, phase := .fly, va := 0x1000, ws := [0x1000, 5, 9], pieces := [{ off := 0, len := n, home := .main 0 false, at_ := 0x1000, gpa := 0x1000, due := 0 }] }

/-- An access in each space, at its last place and one that fails its check; with and without a store. -/
theorem witness_AccessesJoinTheOperations :
    let s := on { kx with sr := [(0x084, 0x8)] }
    s.cur.core < nCores ∧
    (∀ e ∈ ([(.ldw (ma .glb (a := 0)), none), (.stw (ma .spm (a := 0) (off := 0x3FFFC)), none), (.vld (ma .lane (a := 0)), none), (.ldb (ma .grv (a := 1)), none), (.qld (ma .spm (a := 0)), none),
      (.ldw (ma .spm (off := 2) (a := 0)), some 0x92), (.ldd (ma .clr (a := 0)), some 0x96), (.aaddW (aa 5 4 0), some 0x92)] : List (Instr × Option Nat)),
      ∃ f a vi, s.me.level.reaches e.1.needs = true ∧ accessAt s.me e.1 = some (a, vi) ∧ memForm e.1 = some f ∧ s.accessCheck 0 e.1 f a vi = e.2) := by
  refine ⟨by decide +kernel, ?_⟩
  intro e h
  simp only [List.mem_cons, List.not_mem_nil, or_false] at h
  rcases h with rfl | rfl | rfl | rfl | rfl | rfl | rfl | rfl <;> exact ⟨_, _, _, by decide +kernel, rfl, rfl, by decide +kernel⟩

theorem witness_AccessesJoinTheOperations_prefetch :
    (on run).me.requests < 1024 ∧ 1024 ≤ (on { run with pipe := List.replicate 1024 (fly (.ldd (ma .glb)) 8) }).me.requests ∧
    (on { run with level := .partition }).me.level.reaches .partition = true := by decide +kernel

/-- Addresses at the edges of main memory, of what MEM.CAP populates, and of the blocks. -/
theorem witness_AccessesAreChecked :
    (memForm (.ldd (ma .spm))).isSome = true ∧ (memForm (.stb (ma .clr))).isSome = true ∧
    blockOf (2 ^ 39) = none ∧ blockOf (2 ^ 39 - 1) = some 255 ∧ blockOf (2 ^ 40) = some 256 ∧ blockOf (2 ^ 41) = none ∧
    State.reset.populated 0 = true ∧ ({ State.reset with memCap := 0 } : State).populated 767 = false := by decide +kernel

theorem witness_LoadsAndStoresInTheOwnSpaces :
    let o : Op := { id := 0, act := some (.ldhs (ma .spm (tg := 5))), land := 4, dest := 0x105, got := [(0, 0xFE), (1, 0xFF)] }
    o.act = some (.ldhs (ma .spm (tg := 5))) ∧ o.dest = 0x100 + 5 ∧
    (∀ i ∈ [Instr.stb (ma .spm), .vst (ma .lane), .vscat { sp := .spm, cls := 0, land := 0, a := 1, vd := 0, vi := 0, grp := 0 }, .vlst { sp := .lane, cls := 0, land := 0, a := 1, vd := 0, vi := 0, grp := 0 }],
      (memForm i).map (fun f => (f.acc == .store, f.sp.det)) = some (true, true)) ∧
    ((memForm (.vgath { sp := .spm, cls := 0, land := 0, a := 1, vd := 0, vi := 0, grp := 0 })).map (·.elems)) = some true ∧ ((memForm (.ldd (ma .lane))).map (·.elems)) = some false := by
  decide +kernel

/-- Bytes that end at a line's end; a failing sector and a good one; a dirty line among the lines; canonical vectors and images. -/
theorem witness_BytesAtTheirHome :
    let l : L2Line := { wu := 0, line := 3, tag := 0, part := 0, stream := false, dirty := true, data := [(1, 7)] }
    let s : State := { State.reset with bad := [4], l2 := [l] }
    ((List.replicate 16 (1 : Byte)) ≠ [] ∧ 112 / 128 = (112 + 16 - 1) / 128) ∧ (List.replicate 31 (1 : Byte)).length < 32 ∧
    s.sectorBad true (128 / 32) = true ∧ s.sectorBad true (96 / 32) = false ∧ (s.l2.map (·.line)).Nodup ∧ l ∈ s.l2 ∧ l.dirty = true ∧
    Sparse.wf (0 : Elem) [(0, 1), (1023, 2)] = true ∧ Sparse.wf (0 : Byte) [(4095, 1)] = true := by decide +kernel

/-- A load whose translation is refused (an address past the virtual space), and one whose translation returns. -/
theorem witness_TranslationsReturn :
    let o : Op := { fly (.ldw (ma .glb)) 4 with phase := .walk 7, pieces := [] }
    let f : Form := (memForm (.ldw (ma .glb))).getD { sp := .glb, cls := 0, land := 0, det := 0, bytes := 0, align := 1, acc := .load }
    (flight o).cur.core < nCores ∧ (flight o).me.op (flight o).cur.i = some o ∧ o.act = some (.ldw (ma .glb)) ∧ o.phase = .walk 7 ∧ o.form = some f ∧ f.acc = .load ∧ f.elems = false ∧
    accessParts f (BitVec.ofNat 64 o.va) (o.vs.getD 0 []) = [(0, o.va, 4)] ∧
    ((flight o).freeTime.2.route ((flight o).opCtx 0 o) (accessNeed (.ldw (ma .glb)) f) o.va).1.toOption = some (.main 0 false, 0x1000, 0x1000) ∧
    accessParts f (BitVec.ofNat 64 (2 ^ 55)) [] = [(0, 2 ^ 55, 4)] ∧
    (let o := { o with va := 2 ^ 55 }
     (((flight o).freeTime.2.route ((flight o).opCtx 0 o) (accessNeed (.ldw (ma .glb)) f) (2 ^ 55)).1.toOption).isNone = true) := by decide +kernel

/-- Invalidations and prefetches that have returned, one of an address past the virtual space, and one that may perform; a page that faults and one that is not cached. -/
theorem witness_TranslationsReturn_others :
    (∀ e ∈ [(Instr.tlbiva (ma .glb), 2 ^ 55), (.tlbiva (ma .glb), 0), (.tlbiall, 0), (.pref (ma .glb), 0), (.ipref (ma .glb), 0)],
      let o : Op := { id := 0, act := some e.1, land := 100, va := e.2, phase := .walk 7 }
      (flight o).cur.core < nCores ∧ (flight o).me.op (flight o).cur.i = some o ∧ o.phase = .walk 7 ∧ o.act = some e.1 ∧ o.va = e.2) ∧
    (let o : Op := { id := 0, act := some (.tlbiva (ma .glb)), land := 100, phase := .fly }
     (flight o).me.free_ o = true ∧ (flight o).me.postHeld o = false) ∧
    (let o : Op := { id := 0, act := some .tlbiall, land := 100, phase := .walk 7 }
     let cx := (flight o).opCtx 0 o
     ((flight o).xlate cx { r := true } (2 ^ 55) true).1.toOption.isNone = true ∧
     (((flight o).xlate cx { r := true } (2 ^ 47) true).1.toOption.map fun e => inMain (e.out (2 ^ 47))) = some false) := by decide +kernel

/-- A load and a queue load whose part performs, and one that meets an uncorrectable error. -/
theorem witness_AccessesPerformAtTheirHome_loads :
    (∀ i ∈ [Instr.ldd (ma .glb), .qld (ma .glb)], let o := fly i 8
      let s := flight o
      let q : Piece := { off := 0, len := 8, home := .main 0 false, at_ := 0x1000, gpa := 0x1000, due := 0 }
      s.cur.core < nCores ∧ s.me.op s.cur.i = some o ∧ s.me.free_ o = true ∧ (o.form.map (fun f => f.acc == .load || f.acc == .queue)) = some true ∧
      o.pieces = [q] ∧ q.arrived s.wall s.me.sched = true ∧ q.counted = false ∧ s.cur.j = 0 ∧ o.phase = .fly ∧
      (s.readMain (s.opCtx 0 o).req 0 false 0x1000 8 true .none).1 = some (List.replicate 8 0) ∧ (s.readMain (s.opCtx 0 o).req 0 false 0x1000 8 true .uncorrectable).1 = none ∧
      (let r := s.readMain (s.opCtx 0 o).req 0 false 0x1000 8 true .none
       let full : Op := { o with pieces := [{ q with done := true, counted := false || !s.inL2 false q.at_ }],
                                 got := Sparse.setBytes o.got q.off ((r.2.core 0).overlay q.at_ (List.replicate 8 0)), phase := .arrived }
       ((r.2.setOp 0 full).core 0).op o.id = some full) ∧
      (let r := s.readMain (s.opCtx 0 o).req 0 false 0x1000 8 true .uncorrectable
       ((r.2.failOp 0 o 0x91).core 0).op o.id = some { o with fault := true, cause := 0x91 })) := by decide +kernel

/-- A store whose only part performs, one that is refused (a part of a failing sector), and maintenance of a line that the L2 holds, of one that it does not, of a
page that is not cached, and of a reserved address. -/
theorem witness_AccessesPerformAtTheirHome_stores :
    let o := fly (.std (ma .glb)) 8
    let line : L2Line := { wu := 0, line := 0x1000 / 128, tag := 0, part := 0, stream := false, dirty := true, data := [(1, 7)] }
    let bytes : List Byte := (List.range 8).map fun j => Sparse.get 0 o.bs (0 + j)
    (flight o).me.op (flight o).cur.i = some o ∧ (flight o).me.free_ o = true ∧ (flight o).me.postHeld o = false ∧ (flight o).cur.j = 0 ∧
    (∀ q ∈ o.pieces, q.arrived (flight o).wall (flight o).me.sched = true ∧ q.counted = false) ∧
    (o.form.map (fun f => (f.acc == .store, decide (f.grp < 4)))) = some (true, true) ∧
    ((flight o).writeMain ((flight o).opCtx 0 o).req 0 false 0x1000 bytes true .none).1 = true ∧
    (let s : State := { flight o with bad := [0x1000 / 32] }
     (s.writeMain (s.opCtx 0 o).req 2 false 0x1000 bytes true .none).1 = false) ∧
    (∀ i ∈ [Instr.l2wb (ma .glb), .l2inv (ma .glb), .l2wbinv (ma .glb)],
      let o := fly i 128
      let s : State := { flight o with l2 := [line] }
      s.me.op s.cur.i = some o ∧ s.me.free_ o = true ∧ s.me.postHeld o = false ∧ o.form.isSome = true ∧ s.lineOf (0x1000 / 128) = some line ∧
      (flight o).lineOf (0x1000 / 128) = none ∧ s.admits { (s.opCtx 0 o).req with root := true } 0x1000 = (true, s) ∧
      (s.admits { (s.opCtx 0 o).req with root := true } (2 ^ 39)).1 = false) := by decide +kernel

/-- Operands at their greatest values; an atomic, a radd, an rrd and an rwait below and at its target, with a place and without; an atomic that writes nothing. -/
theorem witness_AtomicsAndRingOperations :
    (2 ^ 64 - 1 < 2 ^ 64) ∧ (2 ^ 32 - 1 < 2 ^ 32) ∧
    (∀ i ∈ [Instr.aaddD (aa 5 4 0), .radd (aa 0 4 0), .rrd (aa 5 0 0), .rwait (aa 0 4 0)], let o := fly i 8
      let s := flight o
      let r := s.readMain (s.opCtx 0 o).req 0 false 0x1000 8 true .none
      s.cur.core < nCores ∧ s.me.op s.cur.i = some o ∧ s.me.free_ o = true ∧ (o.form.map (fun f => f.acc == .atomic)) = some true ∧
      (∀ q ∈ o.pieces, q.arrived s.wall s.me.sched = true ∧ q.len = 8) ∧
      (∀ j, j < 8 → s.me.heldByte (0x1000 + j) = none) ∧ r.1 = some (List.replicate 8 0) ∧ natLE (List.replicate 8 0) + (o.ws.getD 1 0).toNat < 2 ^ 64 ∧
      ((r.2.countAtomic 0x1000 0).putMain false 0x1000 (bytesLE 8 5)).isSome = true) ∧
    (atomicVal (.acasD (aa 5 4 0)) 64 0 1 1).1 = none ∧
    natLE (List.replicate 8 0) < 5 ∧ (0 : Nat) ≤ natLE (List.replicate 8 0) ∧ (flight (fly (.rwait (aa 0 4 0)) 8)).parkedAt { off := 0, len := 8, home := .main 0 false, at_ := 0x1000, due := 0 } < 512 ∧
    512 ≤ (placed.setCore 0 { run with pipe := List.replicate 512 { fly (.rwait (aa 0 4 0)) 8 with phase := .parked } }).parkedAt
      { off := 0, len := 8, home := .main 0 false, at_ := 0x1000, due := 0 } := by decide +kernel

/-- A parked wait, and one to be compared again whose counter can be read and cannot. -/
theorem witness_AtomicsAndRingOperations_parked :
    ∀ ph ∈ [Phase.parked, .recheck 9], let o := { fly (.rwait (aa 0 4 0)) 8 with phase := ph }
      let q : Piece := { off := 0, len := 8, home := .main 0 false, at_ := 0x1000, gpa := 0x1000, due := 0 }
      (flight o).cur.core < nCores ∧ (flight o).me.op (flight o).cur.i = some o ∧ o.act = some (.rwait (aa 0 4 0)) ∧ o.phase = ph ∧ o.pieces = [q] ∧
      ((flight o).watchedNow ((flight o).opCtx 0 o).req q).1 = some 0 ∧ (({ flight o with bad := [0x1000 / 32] } : State).watchedNow ((flight o).opCtx 0 o).req q).1 = none := by decide +kernel

/-- A parked wait for 5 whose counter is written with 5 and with 4. -/
theorem witness_AtomicsAndRingOperations_woken :
    let o := { fly (.rwait (aa 0 4 0)) 8 with phase := .parked }
    let q : Piece := { off := 0, len := 8, home := .main 0 false, at_ := 0x1000, gpa := 0x1000, due := 0 }
    o ∈ ((flight o).core 0).pipe ∧ o.phase = .parked ∧ o.pieces = [q] ∧ q.home = .main 0 false ∧ q.at_ < 0x1000 + 8 ∧ 0x1000 < q.at_ + 8 ∧ (o.ws.getD 1 0).toNat ≤ 5 ∧
    4 < (o.ws.getD 1 0).toNat ∧ ((flight o).writeBytes false 0x1000 (bytesLE 8 5)).isSome = true := by decide +kernel

/-- A fence behind a store that has not performed and behind one that has; a group of each state; held bytes with a stamp no later. -/
theorem witness_FencesAndCommitGroups :
    let f : Op := { id := 1, act := some (.fence 1 .device), land := 0, deps := [0] }
    let st : Op := fly (.std (ma .glb)) 8
    (∃ id ∈ f.deps, ∃ p ∈ ({ run with pipe := [st, f] } : Core).pipe, p.id = id ∧ p.performed = false) ∧
    (∀ id ∈ f.deps, ∀ p ∈ ({ run with pipe := [{ st with phase := .arrived }, f] } : Core).pipe, p.id = id → p.performed = true) ∧ Scope.device.code < 4 ∧
    ((on run).me.groups.getD 3 {}).st = 0 ∧ ((on { run with groups := [{}, {}, {}, { st := 1 }] }).me.groups.getD 3 {}).st ≠ 0 ∧
    (({ run with groups := [{}, {}, {}, { st := 1 }] } : Core).groupPending { id := 1, act := some (.gabort 3), land := 0 } 3 = false) ∧
    (let s := on { run with groups := [{ st := 1, lines := [2], held := [(256, (1, 7))] }, {}, {}, {}] }
     ((s.core 0).groups.getD 0 {}).spilt = false ∧ (s.core 0).groups.length = 4 ∧ ((s.core 0).groups.getD 0 {}).lines.contains (257 / 128) = true) := by decide +kernel

theorem witness_FencesAndCommitGroups_stamp :
    ∀ m e, m < 4 → (Sparse.get (0, 0) (((on { run with groups := [{ st := 1, lines := [2], held := [(256, (1, 7))] }, {}, {}, {}] }).core 0).groups.getD m {}).held e).1 ≤ 1 := by
  intro m e h
  have hc : ∀ m < 4, (((on { run with groups := [{ st := 1, lines := [2], held := [(256, (1, 7))] }, {}, {}, {}] }).core 0).groups.getD m {}).held =
    if m = 0 then [(256, (1, 7))] else [] := by decide +kernel
  rw [hc m h]
  by_cases hm : m = 0
  · rw [if_pos hm]
    simp only [Sparse.get]
    by_cases he : e = 256
    · subst he; exact Nat.le_refl 1
    · rw [if_neg he]; exact Nat.zero_le 1
  · rw [if_neg hm]; exact Nat.zero_le 1

/-- A core with a pending token of channel 3 and one that is not; a wait that has set out. -/
theorem witness_CopyCommandsEnterTheirChannel :
    let c : Core := { run with tokens := [(4, { pend := true, ch := 15, seq := 2 ^ 56 - 1 })] }
    (on c).cur.core < nCores ∧ ((on c).me.token 4).pend = true ∧ ((on c).me.token 4).ch < 16 ∧ ((on c).me.token 4).seq < 2 ^ 56 ∧ ((on c).me.token 5).pend = false ∧
    (∀ q ∈ c.chan 0, q.seq < 2 ^ 56 - 1) ∧
    (let o : Op := { id := 0, act := some (.cwait 9 4), land := 9, phase := .fly }
     (flight o).me.op (flight o).cur.i = some o ∧ o.phase = .fly) := by decide +kernel

/-- A copy of n bytes from spm 0x100 to spm 0x200 in channel 0. -/
def copy (n : Word) : Cmd := { kind := 0, m := ca 0 1 7 .spm .spm, dst := 0x200, src := 0x100, n := [n], stat := 0, ring := 0, seq := 0, level := .user, root := 0, deps := [] }

/-- Core 0 with a command at the head of channel 0. -/
def copying (q : Cmd) : State := on { run with chans := [(0, { cmds := [q] })] }

/-- The head of a channel: ready with a failed dependence, a bad argument, a bad route, nothing to move, and a good one; one that is killed before its start; one that is
delivered; and bytes that a grove window's port has and that lie in the window. -/
theorem witness_CopyCommandsStartAndComplete :
    (∀ e ∈ [({ copy 8 with depBad := true }, (true, true, true)), ({ copy 8 with kind := 2, n := [3, 1, 0] }, (false, false, true)), (copy 0, (false, true, true)), (copy 8, (false, true, true)),
        ({ copy 8 with ring := 1 }, (false, true, false))],
      (copying e.1).cur.core < nCores ∧ (copying e.1).me.head (copying e.1).cur.i = some e.1 ∧ e.1.kill = false ∧ e.1.ready (copying e.1).me.pipe = true ∧ (e.1.depBad, e.1.argsOk, e.1.routeOk) = e.2) ∧
    (copy 0).total = 0 ∧ (copy 8).total ≠ 0 ∧ ({ copy 8 with kill := true } : Cmd).phase = 0 ∧
    (let q := { copy 8 with phase := 1, progress := 8 }
     (copying q).me.head (copying q).cur.i = some q ∧ q.phase = 1 ∧ q.paused = false ∧ q.pauseCause = 0 ∧ q.total ≤ q.progress ∧ q.win = none) ∧
    (let q := { copy 8 with phase := 1, progress := 8, win := some 3, late := 8 }
     q.win = some 3 ∧ ((copying q).core 3).rwrite = [] ∧ (((copying q).setCore 3 { rwrite := [(0x300000, 1)] }).core 3).rwrite ≠ []) ∧
    bitN (copy 8).stat.toNat 1 = false ∧ bitN (copy 8).ring.toNat 1 = false := by decide +kernel

/-- Core 0 at root level, with translation off, a clearing way unit and its own grove window. -/
def mover (f : Core → Core) : State := ((owned.wwF (rpage 0x8018) 0 1 0).ww (rpage 0) 0x1030).setCore 0 (f { run with level := .root, sr := [(0x084, 8)] })

/-- A run in a free port's cycle, one whose port a slot uses, and one whose source has an uncorrectable word. -/
theorem witness_CopyRunsMoveBytes :
    let q := { copy 0x1000 with src := 0x3FF000, phase := 1, progress := 0xFFF }
    (0 : Nat) < nCores ∧ q.progress < q.total ∧ (0 : Nat) < 1 ∧ q.kind ≠ 2 ∧ 0x400000 < 0x400000 + 1 ∧ 0x3FFFFF + 1 ≤ 0x400000 ∧
    (on run).strikes = [] ∧ ((on run).tableEntry 0 q 0).1 = some (some 0) ∧ (run.portFree (portOf 3 false) && run.portFree (portOf 0 true)) = true ∧
    (({ run with ports := [(portOf 3 false, 9, 3)] } : Core).portFree (portOf 3 false)) = false ∧
    (struck.core 0).portFree (portOf 0 false) = true ∧ (struck.arrayRead 0 0 [(0 / 32 * 32, 32)]).1 = false ∧
    (let g : Cmd := { copy 8 with kind := 2, n := [8, 1, 0x100] }
     g.kind = 2 ∧ g.idx = none ∧ g.progress < g.total ∧ ((on run).core 0).portFree (portOf 0 false) = true ∧ (({ run with ports := [(portOf 0 false, 9, 3)] } : Core).portFree (portOf 0 false)) = false ∧
     (({ g with idx := some 4 } : Cmd).idx = some 4)) := by
  decide +kernel

/-- A run from and to main memory, of a sector that is whole and one that is not, out of the memories' range, and with an address that faults. -/
theorem witness_CopyRunsMoveBytes_main :
    let s := mover id
    let q : Cmd := { copy 8 with m := ca 0 1 7 .spm .glb, src := 0x1000 }
    let w : Cmd := { copy 8 with m := ca 0 1 7 .glb .spm, dst := 0x1000 }
    let cx := s.cmdCtx 0 q
    q.bulk = false ∧ (s.route cx { r := true } 0x1000).1.toOption = some (.main 0 false, 0x1000, 0x1000) ∧ (s.route cx { r := true } (2 ^ 40)).1.toOption = some (.main 0 false, 2 ^ 40, 2 ^ 40) ∧
    (s.route cx { r := true } (2 ^ 55)).1.toOption.isNone = true ∧
    (let s₁ := (s.route cx { r := true } 0x1000).2
     (s₁.core 0).portFree (portOf 0 true) = true ∧ (s₁.readMain cx.copyReq 0 false 0x1000 8 true .none).1.isSome = true ∧ (s₁.readMain cx.copyReq 0 false 0x1000 8 true .none).2.strikes = [] ∧
     (s₁.readMain cx.copyReq 0 false 0x1000 8 true .uncorrectable).1 = none) ∧
    (let cx := s.cmdCtx 0 w
     let s₁ := (s.route cx { w := true } 0x1000).2
     (s.route cx { w := true } 0x1000).1.toOption = some (.main 0 false, 0x1000, 0x1000) ∧ (s₁.core 0).portFree (portOf 0 false) = true ∧ s₁.strikes = [] ∧
     (s₁.writeMain cx.copyReq 0 false 0x1000 (List.replicate 8 0) true .none).1 = true ∧ (({ s₁ with bad := [0x1000 / 32] } : State).writeMain cx.copyReq 2 false 0x1000 (List.replicate 8 0) true .none).1 = false) ∧
    q.kill = false := by decide +kernel

/-- Runs from and to the clearing and a grove window, in and out of range, with a grant that is free and one that is taken; and one to a host. -/
theorem witness_CopyRunsMoveBytes_windows :
    let s := mover id
    let q : Cmd := { copy 8 with m := ca 0 1 7 .glb .clr, ring := 1, dst := 0x200000000000 }
    s.rangeCheck 0 .clr 0 8 false = none ∧ s.rangeCheck 0 .clr 0x100000 8 false ≠ none ∧ s.rangeCheck 0 .grv 0 8 false = none ∧ s.strikes = [] ∧
    (s.core 0).portFree (portOf 0 true) = true ∧ (s.core 0).portFree (portOf 0 false) = true ∧
    (let h := s.clrHome (s.core 0).part 0
     (s.readClr (s.cmdCtx 0 q).req h.1 h.2 8 .none).1.isSome = true ∧ (s.readClr (s.cmdCtx 0 q).req h.1 h.2 8 .none).2.strikes = [] ∧
     (s.writeClr (s.cmdCtx 0 q).req h.1 h.2 (List.replicate 8 0) .none).1 = true) ∧
    (s.grantAt (s.grvCore 0 0) 0 true).isSome = true ∧ (s.grantAt (s.grvCore 0 0) 0 false).isSome = true ∧
    ((s.grantAt (s.grvCore 0 0) 0 false).map fun t => (t.core 0).portFree (portOf 0 true)) = some true ∧
    ((mover fun k => { k with rportBusy := [(1, 1)] }).grantAt 0 0 true).isNone = true ∧
    q.bulk = true ∧ s.linkUp 1 = true := by decide +kernel

/-- A command's address in the host window, with a cached translation, where the host has enabled ATS. -/
theorem witness_CopyRunsMoveBytes_host (h : Config.atsEnabled 0 0 = true) :
    let s : State := { mover id with ats := [{ link := 0, fn := 0, page := 0, out := 5 }] }
    let q : Cmd := { copy 8 with m := ca 0 1 7 .glb .clr, ring := 1, dst := 2 ^ 46 }
    ∃ l ca pa gp s₁, s.route (s.cmdCtx 0 q) { w := true } (2 ^ 46) = (.ok (.host l ca, pa, gp), s₁) := by
  intro s q
  have hd : (match s.xlate (s.cmdCtx 0 q) { w := true } (2 ^ 46) with
      | (.ok e, s') => e.out (2 ^ 46) == 2 ^ 46 && bitN (s'.partLinks 0) 0 && s'.partFN 0 == 0 &&
        (s'.ats.find? fun a => a.link == 0 && a.fn == 0 && a.page == 0) == some { link := 0, fn := 0, page := 0, out := 5 }
      | _ => false) = true := by decide +kernel
  have hp : (s.cmdCtx 0 q).part = 0 := by decide +kernel
  revert hd
  cases hx : s.xlate (s.cmdCtx 0 q) { w := true } (2 ^ 46) with
  | mk r s' =>
    cases r with
    | error k => exact nofun
    | ok e =>
      intro hd
      simp only [Bool.and_eq_true, beq_iff_eq] at hd
      obtain ⟨⟨⟨h1, h2⟩, h3⟩, h4⟩ := hd
      have n1 : inWindow (2 ^ 46) = false := by decide
      have n2 : inHost (2 ^ 46) = true := by decide
      have n3 : (2 : Nat) ^ 46 / 2 ^ 45 % 2 = 0 := by decide
      have n4 : (2 : Nat) ^ 46 % 2 ^ 45 / 4096 = 0 := by decide
      have n5 : (2 : Nat) ^ 46 % 4096 = 0 := by decide
      refine ⟨0, e.ca, 5 * 4096, 2 ^ 46, s', ?_⟩
      simp only [State.route, hx, h1, State.homeOf, n1, n2, State.hostHome, hp, n3, n4, n5, Nat.add_zero, h2, h3, h, h4, Bool.false_eq_true, if_false, if_true, Bool.not_true]

theorem witness_PausesEnginesAndBudgets_spaces : (copy 8).m.ssp ≠ .glb ∧ (copy 8).m.dsp ≠ .glb := by decide

/-- A command that met a fault; one that is paused in channel 15; a bulk command that is eligible, with a level of one byte, the least that is positive. -/
theorem witness_PausesEnginesAndBudgets :
    let q := { copy 8 with phase := 1, pauseCause := 0x41 }
    (copying q).cur.core < nCores ∧ (copying q).me.head (copying q).cur.i = some q ∧ q.pauseCause ≠ 0 ∧ q.paused = false ∧ getF ((copying q).rw (faultQ (copying q).me.part)) 3 45 = 0 ∧
    (match State.reset.matchFres 15 0 with | .none => true | _ => false) = true ∧
    (let q := { copy 8 with phase := 1, pauseCause := 0x41, paused := true, m := ca 15 1 7 .spm .spm }
     let s := on { run with chans := [(15, { cmds := [q] })] }
     (match s.matchFres 0 (0xF00 + 0x4000) with | .cmd 0 15 => true | _ => false) = true ∧ (s.core 0).head 15 = some q ∧ q.phase = 1) ∧
    (State.reset.cur.i < 2 ∧ (∀ k ∈ State.reset.chunks, ¬ (k.die = 0 ∧ k.eng = 0)) ∧ State.reset.eligible 0 = []) ∧
    (let q := { copy 8 with phase := 1, ring := 1, m := ca 0 1 7 .glb .glb }
     let s := (copying q).ww (ppage 0 0x2010) 1
     s.eligible s.cur.i = [(0, 0, q)] ∧ (s.core 0).part < 16 ∧ 0 < s.budLevel (s.core 0).part q.bunit) := by decide +kernel

theorem witness_PausesEnginesAndBudgets_chunk :
    let q := { copy 8 with phase := 1, ring := 1, m := ca 0 1 7 .glb .glb }
    let k : Chunk := { die := 0, eng := 0, core := 0, ch := 0, seq := 0, bytes := 8, due := 0 }
    (∀ cmds ∈ [[], [q]], let s : State := { placed.setCore 0 { run with chans := [(0, { cmds := cmds })] } with chunks := [k] }
      s.cur.i < 2 ∧ (s.chunks.find? fun k => k.die == s.cur.i && k.eng == s.cur.j % 8) = some k) ∧
    (let s : State := { placed.setCore 0 { run with chans := [(0, { cmds := [] })] } with chunks := [k] }
     ((s.progressCmd 0 0 65536 .none).core 0).head 0 = none) ∧
    (let s : State := { placed.setCore 0 { run with chans := [(0, { cmds := [q] })] } with chunks := [k] }
     (((s.progressCmd 0 0 65536 .none).core 0).head 0).map (fun q => (q.seq, q.pauseCause)) = some (0, 0)) := by decide +kernel

/-- A reduction of eight elements of one source at 0x20000 to 0x10000, with its flag at 0x30000; dst and srcs as given. -/
def red (dst src : Word) : Red :=
  { key := 0, stack := 0, core := 0, part := 0, level := .root, root := 0, words := [dst, src, 0, 0, 0, 0, 0, 0, 0, 8 + 2 ^ 32, 0x30000, 1, 0, 0, 0, 0], due := 0 }

/-- A block that is in, with a free place and with sixteen commands held; a bad block; a buffer that faults; one outside the stack; one that begins at its stack. -/
theorem witness_ReductionsAndCollectives_reductions :
    (let o : Op := { fly (.red (ma .glb)) 128 with phase := .arrived }
     (flight o).cur.core < nCores ∧ (flight o).me.op (flight o).cur.i = some o ∧ o.act = some (.red (ma .glb)) ∧ o.phase = .arrived ∧ o.progress = 0 ∧
     (let w := (flight o).redStack ((flight o).opCtx 0 o) 0; w.2.redsAt w.1 < 16) ∧
     (let s : State := { flight o with reds := List.replicate 16 (red 0 0) }
      let w := s.redStack (s.opCtx 0 o) 0; 16 ≤ w.2.redsAt w.1)) ∧
    (∀ e ∈ [(red 0x10001 0x20000, (false, true)), (red 0x10000 (2 ^ 55), (true, false)), (red 0x10000 0x20000, (true, true))],
      let s : State := { placed with reds := [e.1] }
      (s.reds.find? fun r => r.key == s.cur.i) = some e.1 ∧ e.1.paused = false ∧ e.1.begun = false ∧ e.1.ok = e.2.1 ∧
      (e.1.ok = true → (s.rangesMap e.1.ctx e.1.ranges).1.toOption.isSome = e.2.2)) ∧
    (∀ e ∈ [(red 0x10000 0x20000, true), (red 0x10000 (2 ^ 40), false)],
      let s : State := { placed with reds := [e.1] }
      ((s.rangesMap e.1.ctx e.1.ranges).1.toOption.bind fun ps => (({ e.1 with map := ps } : Red).page e.1.dst).map fun p =>
        (decide (stackOf p.pa = e.1.stack), inHbm p.pa, ({ e.1 with map := ps } : Red).routeOk e.1.stack)) = some (true, true, e.2)) ∧
    (let r := red (2 ^ 36 + 0x10000) 0x20000
     let s : State := { placed with reds := r :: List.replicate 16 { red 0 0 with stack := 1 } }
     ((s.rangesMap r.ctx r.ranges).1.toOption.bind fun ps => (({ r with map := ps } : Red).page r.dst).map fun p =>
        (decide (stackOf p.pa ≠ r.stack), decide (16 ≤ (s.rangesMap r.ctx r.ranges).2.redsAt (stackOf p.pa)))) = some (true, true)) := by decide +kernel

/-- A reduction under way: killed at a boundary; a sector that sums and ends it; a source that cannot be read; and one that has met a fault. -/
theorem witness_ReductionsAndCollectives_sectors :
    let r : Red := { red 0x10000 0x20000 with begun := true, map := [{ va := 1, home := .main 0 false, pa := 0x10000, gpa := 0x10000 },
      { va := 2, home := .main 0 false, pa := 0x20000, gpa := 0x20000 }] }
    let s (r : Red) : State := { placed with reds := [r] }
    (({ r with kill := true } : Red).kill = true ∧ ({ r with kill := true } : Red).next % 16 = 0) ∧ r.kill = false ∧
    (((s r).redSector r .none).1.map fun r' => decide (r'.count ≤ 8 * r'.next)) = some true ∧
    (({ s r with bad := [0x20000 / 32] } : State).redSector r .none).1 = none ∧
    (let g := (s r).redGather r 0 .none
     (∀ b ∈ g.1, b.2.isSome = true) ∧ (g.2.2.redWrite g.2.1 (g.2.1.dst + 32 * g.2.1.next) (List.replicate 32 0)).1 = true) ∧
    ({ red 0x10000 (2 ^ 55) with pauseCause := 0x41 } : Red).pauseCause ≠ 0 ∧ getF (placed.rw (faultQ 0)) 3 45 = 0 := by decide +kernel

/-- A rank's collective of two ranks, nodes 0 and 1: its block as words; this part is node 0. -/
def coll (count : Word) : Coll :=
  { key := 0, die := 0, core := 0, part := 0, level := .root, root := 0
    words := [0x10000, 0x20000, count + 2 ^ 48 * 2, 0x100, 0, 0x30000, 1, 0, 0, 7, 0, 0, 0, 0, 0, 0] }

/-- A bad block; a good one with and without a port to its neighbour; one that is matched whose data is in, one with a range that faults, and one with a sector that cannot be
read; a sector to write and to pass over. -/
theorem witness_ReductionsAndCollectives_collectives :
    let s (r : Coll) : State := { (placed.ww (rpage 0xB010) 1).ww (rpage (0xB400 + 8)) 1 with colls := [r] }
    (∀ r ∈ [coll 8, coll 16], ((s r).colls.find? fun r => r.key == (s r).cur.i) = some r ∧ r.paused = false ∧ r.matched = false ∧ r.ok ((s r).rwF (rpage 0xB000) 0 7) = decide (r.count = 16)) ∧
    ((s (coll 16)).fabricPort ((coll 16).ring (((coll 16).pos + 1) % (coll 16).nrank))).isSome = true ∧
    ((s (coll 16)).fabricPort ((coll 16).ring (((coll 16).pos + (coll 16).nrank - 1) % (coll 16).nrank))).isSome = true ∧
    (State.reset.fabricPort ((coll 16).ring (((coll 16).pos + 1) % (coll 16).nrank))).isSome = false ∧
    (s (coll 16)).collReach (coll 16) = true ∧ State.reset.collReach (coll 16) = false ∧
    ((s { coll 16 with pauseCause := 0x41 }).colls.find? fun r => r.key == 0).map (·.pauseCause) = some 0x41 ∧ getF ((s (coll 16)).rw (faultQ 0)) 3 45 = 0 ∧
    (let r := { coll 16 with matched := true, words := (coll 16).words.set 0 (2 ^ 55) }
     (match ((s r).collSource r).1.stop with | some (.pause va _ dir) => (va, dir) | _ => (0, 9)) = (2 ^ 55, 0)) := by decide +kernel

/-- A matched rank of two, the state that holds it, and the rank once it has read its sectors. -/
def rank : Coll := { coll 8 with matched := true }

/-- The part of a matched rank, with a port to its neighbour. -/
def ranked : State := { (placed.ww (rpage 0xB010) 1).ww (rpage (0xB400 + 8)) 1 with colls := [rank] }

/-- The rank once it has read its sectors. -/
def loaded : Coll := { (ranked.collSource rank).1.r with sent := true }

/-- A rank that is matched: a sector that cannot be read; all sectors read, and the result written, or stopped by a fault; a flag that faults; too few elements. -/
theorem witness_ReductionsAndCollectives_runs :
    let out := loaded.result [List.replicate 8 0, List.replicate 8 0]
    (match (({ ranked with bad := [0x10000 / 32] } : State).collSource rank).1.stop with | some .lost => true | _ => false) = true ∧
    (ranked.collSource rank).1.stop.isNone = true ∧ (ranked.collSource rank).1.r.own.length = 8 ∧ out.length / 8 = 1 ∧
    (match (ranked.collDest { loaded with words := loaded.words.set 1 (2 ^ 55) } out).1.stop with | some (.pause va _ dir) => (va, dir) | _ => (0, 9)) = (2 ^ 55, 1) ∧
    rank.count ≤ (List.replicate 8 (0 : Elem)).length ∧ (List.replicate 7 (0 : Elem)).length < rank.count := by decide +kernel

theorem witness_ReductionsAndCollectives_written :
    let d := ranked.collDest loaded (loaded.result [List.replicate 8 0, List.replicate 8 0])
    d.1.stop.isNone = true ∧ d.1.r.wrote = 32 ∧ (d.2.rangesMap d.1.r.ctx d.1.r.lastRanges).1.toOption.isSome = true ∧
    (d.2.rangesMap d.1.r.ctx ({ d.1.r with words := d.1.r.words.set 5 (2 ^ 55) } : Coll).lastRanges).1.toOption.isNone = true := by decide +kernel

theorem witness_ReductionsAndCollectives_steps :
    let r := { coll 16 with matched := true }
    let s : State := { placed with colls := [r] }
    8 * 0 = r.own.length ∧ (s.readSector r.ctx r.src r.gsrc .none).1.toOption.isSome = true ∧ (match (s.readSector r.ctx (2 ^ 55) r.gsrc .none).1 with | .error (.fault _) => true | _ => false) = true ∧
    32 * 0 < ({ r with wrote := 32 } : Coll).wrote ∧ r.wrote ≤ 32 * 0 ∧ (s.writeAtHome r.ctx r.dst (List.replicate 32 0) r.gdst).1.toOption.isSome = true ∧
    (match (s.writeAtHome r.ctx (2 ^ 55) (List.replicate 32 0) r.gdst).1 with | .error (.fault _) => true | _ => false) = true ∧
    (match (({ s with memCap := 0 } : State).writeAtHome r.ctx (2 ^ 40) (List.replicate 32 0) r.gdst).1 with | .error .lost => true | _ => false) = true := by decide +kernel

/-- The ends of a reduction whose flag and status have their places, and of a collective with a flag; the flag by an add too. -/
theorem witness_ReductionsAndCollectives_ends :
    (∀ w ∈ [0, 0x30008], ∀ a ∈ [0, 1], let r : Red := { red 0x10000 0x20000 with words := ((red 0x10000 0x20000).words.set 12 (BitVec.ofNat 64 w)).set 13 (BitVec.ofNat 64 a), map := [{ va := 3, home := .main 0 false, pa := 0x30000, gpa := 0x30000 }] }
     r.w 10 % 8 = 0 ∧ r.known (r.w 10) = some (.main 0 false, 0x30000, 0x30000) ∧ r.w 12 = w ∧ r.w 12 % 8 = 0 ∧
     (w ≠ 0 → r.known (r.w 12) = some (.main 0 false, 0x30008, 0x30008)) ∧ (placed.admits r.ctx.req 0x30000) = (true, placed) ∧
     (placed.writeMain r.ctx.req 0 false 0x30000 (bytesLE 8 (r.w 11)) true .none).1 = true ∧ ((placed.correct r.ctx.copyReq false 0x30000 8).ringAddMain false 0x30000 (r.w 11) 3 r.core).isSome = true) ∧
    (({ red 0 0 with words := (red 0 0).words.set 9 (8 + 2 ^ 32) } : Red).add = false) ∧
    (let r := coll 16
     r.w 5 % 8 = 0 ∧ r.w 7 = 0 ∧ r.add = false ∧ (placed.route r.ctx { w := true } (r.w 5)).1.toOption = some (.main 0 false, 0x30000, 0x30000) ∧
     (placed.writeMain r.ctx.req 0 false 0x30000 (bytesLE 8 (r.w 6)) true .none).1 = true) := by decide +kernel

/-- A collective of no elements meets all that a completion asks for at once. -/
theorem witness_ReductionsAndCollectives_completion :
    let r := { coll 0 with matched := true }
    let s : State := { (placed.ww (rpage 0xB010) 1).ww (rpage (0xB400 + 8)) 1 with colls := [r] }
    let f := s.collDest r []
    (s.colls.find? fun r => r.key == s.cur.i) = some r ∧ r.paused = false ∧ s.collReach r = true ∧ (s.collSource r).1.stop.isNone = true ∧ (s.collSource r).1.r = r ∧
    (r.result [[], []]).length / 8 = 0 ∧ f.1.stop.isNone = true ∧ (f.2.rangesMap f.1.r.ctx f.1.r.lastRanges).1.toOption.isSome = true ∧
    ∀ l ∈ ([[], []] : List (List Elem)), r.count ≤ l.length := by decide +kernel

/-- A queue of one entry: nothing pending; a descriptor that is read; one that cannot be (its block is not the partition's); a queue that one has held. -/
theorem witness_DescriptorsAreQueuedAndTaken :
    let q (s : State) : State := ((s.wwF (rpage 0x8018) 0 1 0).ww (lqCfg 0 0) 0x401).ww (lqTail 0 0) 1
    State.reset.cur.i = 0 ∧ State.reset.cur.j = 0 ∧ State.reset.lqPending 0 0 = false ∧
    (q owned).lqPending 0 0 = true ∧ (0 * 64 + 0) ∉ (q owned).lqFault ∧ ((q owned).readDesc 0 ((q owned).lqSlot 0 0 0)).1.isSome = true ∧
    (q State.reset).lqPending 0 0 = true ∧ ((q State.reset).readDesc 0 ((q State.reset).lqSlot 0 0 0)).1.isNone = true ∧
    0 ∈ ({ State.reset with lqFault := [0, 1024] } : State).lqFault ∧ 0 + 1024 ∈ ({ State.reset with lqFault := [0, 1024] } : State).lqFault := by decide +kernel

/-- An lqput whose block is in: the queue off, full, with a free place, and with a place that cannot be written. -/
theorem witness_DescriptorsAreQueuedAndTaken_lqput :
    let o : Op := { fly (.lqput (ma .glb)) 128 with phase := .arrived }
    let s : State := (owned.wwF (rpage 0x8018) 0 1 0).setCore 0 { run with level := .root, pipe := [o] }
    let on_ := s.ww (lqCfg 0 0) 0x401
    let off_ := (s.ww (rpage 0x8018) 1).ww (lqCfg 0 0) 1
    s.cur.core < nCores ∧ s.me.op s.cur.i = some o ∧ o.act = some (.lqput (ma .glb)) ∧ o.phase = .arrived ∧ o.progress = 0 ∧ s.me.free_ o = false ∧
    bitN (s.rw (lqCfg s.me.part 0)).toNat 0 = false ∧ bitN (on_.rw (lqCfg on_.me.part 0)).toNat 0 = true ∧
    (getF ((on_.ww (lqTail 0 0) 1).rw (lqTail 0 0)) 0 32 + 2 ^ 32 - getF (on_.rw (lqHead 0 0)) 0 32) % 2 ^ 32 = 2 ^ getF (on_.rw (lqCfg 0 0)) 48 4 ∧
    (on_.publish 0 0 o.got).1 = none ∧ (agentAddr on_ (some 0) { w := true } (on_.lqSlot 0 0 0)).1.toOption = some 0x400 ∧
    (0 + 2 ^ 32 - getF (off_.rw (lqHead 0 0)) 0 32) % 2 ^ 32 ≠ 2 ^ getF (off_.rw (lqCfg 0 0)) 48 4 ∧ bitN (off_.rw (lqCfg 0 0)).toNat 0 = true ∧
    (agentAddr off_ (some 0) { w := true } (off_.lqSlot 0 0 0)).1.toOption = none ∧ (off_.publish 0 0 o.got).1 = some 0x91 := by decide +kernel

/-- A launch of one core from a descriptor: kind, image handle, ring, save area as given. -/
def lch (key : Nat) (kind image ring save : Word) (st : LState) : Launch :=
  { key := key, part := 0, q := 0, idx := 0, desc := [image, 0, kind * 8 + 1, 5, ring, 0, 0, 0, 0, 0, save, 0, 0, 11, 12, 13], st := st }

/-- A waiting launch without a ring, with its time not come, with a ring whose counter is read, and with one that cannot be. -/
theorem witness_LaunchesBecomeReadyAndStart_ready :
    (∀ l ∈ [lch 0 0 0x1000 0 0 .waiting, lch 0 1 0x1000 0 0 .waiting], ({ owned with launches := [l] } : State).launch owned.cur.i = some l ∧ l.st = .waiting ∧ l.w 4 = 0) ∧
    (∀ e ∈ [((0x2000 : Word), some 0), (0x2004, none)], let l := lch 0 0 0x1000 e.1 0 .waiting
      let s : State := { owned.wwF (rpage 0x8018) 0 1 0 with launches := [l] }
      s.launch s.cur.i = some l ∧ l.w 4 ≠ 0 ∧ l.kind ≠ 1 ∧ (s.waitValue l).1 = e.2) := by decide +kernel

/-- The image of a launch: shape 0 and code address 0x40 for its one core, at address 0x1000. -/
def imaged : State := { owned.wwF (rpage 0x8018) 0 1 0 with mem := [(0x1040, 0x40)] }

/-- A ready launch with no free core, one while its partition's turn of the pool ends, and one that has been saved; the greatest shape; an exact tile; a launch that is
dispatched for the first time and again. -/
theorem witness_LaunchesBecomeReadyAndStart_dispatch :
    (let l := lch 0 0 0x1000 0 0 .ready
     let s : State := { (owned.ww (rpage 0x9800) (BitVec.allOnes 64)).ww (rpage 0x9808) (BitVec.allOnes 64) with launches := [l] }
     s.firstOf s.cur.i = some l ∧ l.placement (s.freeCores s.cur.i) = none) ∧
    (let l := lch 0 0 0x1000 0 0 .ready
     let s : State := { (imaged.ww (rpage 0x8008) 1).ww (rpage 0x8000) 0x1C3 with launches := [l], poolNext := some 1 }
     s.firstOf s.cur.i = some l ∧ s.mayDispatch s.cur.i = false) ∧
    (let l : Launch := { lch 0 0 0x1000 0 0x10000 .ready with savedPos := true }
     let s : State := { imaged.ww (rpage 0x8008) 1 with launches := [l] }
     s.firstOf s.cur.i = some l ∧ s.mayDispatch s.cur.i = true ∧ l.placement (s.freeCores s.cur.i) = some ([0], []) ∧ l.savedPos = true) ∧
    place 3 (List.range 8) = some (List.range 8) ∧ ({ lch 0 2 0x1000 0 0 .ready with parent := some 9 } : Launch).parent = some 9 ∧
    (lch 0 0 0x1000 0 0 .ready).start = 0 ∧ ({ lch 0 0 0x1000 0 0 .ready with start := 5 } : Launch).start ≠ 0 := by decide +kernel

theorem witness_LaunchesBecomeReadyAndStart_image :
    ∀ e ∈ [((0x1001 : Nat), true), (0x1000, false)], let l := lch 0 0 (BitVec.ofNat 64 e.1) 0 0 .ready
      let s : State := { imaged.ww (rpage 0x8008) 1 with launches := [l] }
      s.cur.i < 16 ∧ s.firstOf s.cur.i = some l ∧ s.mayDispatch s.cur.i = true ∧ l.placement (s.freeCores s.cur.i) = some ([0], []) ∧ l.savedPos = false ∧
      l.kind ≠ 2 ∧ l.parent = none ∧ (s.image l (l.w 0) 0).1.isNone = e.2 := by decide +kernel

/-- A launch with an image, a shadow image and an exact one, its state, and what reading the first and the second of them leaves. -/
def lchGs : Launch := { lch 0 2 0x1000 0 0 .ready with desc := [0x1000, 0, 17, 5, 0, 0, 0, 0, 0, 0, 0, 0x11000, 0x21000, 11, 12, 13] }

/-- The state with that launch, once reading n of its images has left n translations. -/
def imagedGs (n : Nat) : State :=
  let e (k : Nat) : TlbEntry := { core := 0, cache := 0, s1 := false, part := 0, asid := 0, glob := false, s2 := 0, va := 65536 * k, size := 65536, pa := 65536 * k, gpa := 65536 * k
                                  r := true, w := true, x := true, u := true, ms := false, ca := 0 }
  { imaged.ww (rpage 0x8008) 3 with launches := [lchGs], mem := [(0x1040, 0x40), (0x11040, 0x40), (0x21040, 0x40)]
                                    tlb := (List.range n).reverse.map e, hot := (List.range n).map fun k => (k, 1) }

/-- A guarded launch with two placements, its image, its shadow image and its exact one. -/
theorem witness_LaunchesBecomeReadyAndStart_guarded :
    let s := imagedGs 0
    s.cur.i < 16 ∧ s.firstOf s.cur.i = some lchGs ∧ s.mayDispatch s.cur.i = true ∧ lchGs.placement (s.freeCores s.cur.i) = some ([0], [1]) ∧ lchGs.savedPos = false ∧
    lchGs.kind = 2 ∧ lchGs.w 11 ≠ 0 := by decide +kernel

theorem witness_LaunchesBecomeReadyAndStart_images :
    ∃ a b c s₁ s₂ s₃, (imagedGs 0).image lchGs (lchGs.w 0) 0 = (some a, s₁) ∧ s₁.image lchGs (lchGs.w 11) 0 = (some b, s₂) ∧ s₂.image lchGs (lchGs.w 12) 0 = (some c, s₃) :=
  ⟨[0x40], [0x40], [0x40], imagedGs 1, imagedGs 2, imagedGs 3, by decide +kernel, by decide +kernel, by decide +kernel⟩

/-- A launch that waits for cores while another of lower priority runs and may be stopped for it; SLICE of one microsecond, at its end. -/
theorem witness_LaunchesStop_slices :
    let a : Launch := { lch 0 0 0x1000 0 0 .ready with desc := [0x1000, 0, 2, 5] }
    let b : Launch := { lch 1 0 0x1000 0 0x10000 .running with cores := [0] }
    let s : State := { ((((owned.ww (rpage 0x9800) (BitVec.allOnes 64 - 1)).ww (rpage 0x9808) (BitVec.allOnes 64)).ww (ppage 0 0x1808) 1).setCore 0 { run with launch := some 1 }) with
      launches := [a, b], time := 1000 }
    let ctl := s.rw (ppage 0 0x1808)
    s.cur.i < 16 ∧ s.firstOf s.cur.i = some a ∧ getF ctl 0 16 ≠ 0 ∧ s.mayDispatch 0 = true ∧ a.placement (s.freeCores 0) = none ∧
    (s.launches.filter fun v => v.part == 0 && v.preemptible && !s.keepsOn v && decide (v.sliceAt + getF ctl 0 16 * 1000 ≤ s.time.toNat) &&
      (decide (s.prioOf v < s.prioOf a) || (bitN ctl.toNat 16 && s.prioOf v == s.prioOf a))) = [b] ∧
    (∀ w ∈ s.launches, w.stopReq ≠ 0xA7) ∧ (a.placement (s.freeCores 0 ++ b.cores.filter fun c => (s.placeCores 0).contains c && !s.quarantined c)).isSome = true := by decide +kernel

/-- Cancels of no launch, of one that waits, runs and ends, of one that is due to be dispatched, and of one with an exact tile; a core that is asked to stop, past its count
and at a waymark; a launch to kill, with a saved place and without; a core without commands. -/
theorem witness_LaunchesStop_cancels :
    ((State.reset.launches.find? fun l => l.part == 0 && l.parent.isNone && l.id == (5 : Word) && l.st != .ending) = none) ∧
    (∀ st ∈ [LState.waiting, .running], let l := lch 3 0 0x1000 0 0 st
      let s : State := { on { run with launch := some 3 } with launches := [l] }
      (s.launches.find? fun l => l.part == 0 && l.parent.isNone && l.id == (5 : Word) && l.st != .ending) = some l ∧ s.family 3 = [3] ∧ s.launch 3 = some l ∧
      s.turn = [] ∧ (s.core 0).run = .running ∧ (s.core 0).launch = some 3 ∧ (s.core 1).launch ≠ some 3) ∧
    (let l := lch 3 0 0x1000 0 0 .ready
     let s : State := { State.reset with launches := [l], turn := [{ cur := {}, act := .launchDispatch }] }
     (s.launches.find? fun l => l.part == 0 && l.parent.isNone && l.id == (5 : Word) && l.st != .ending) = some l ∧ s.family l.key = [l.key] ∧
     (s.turn.any fun h => h.act == .launchDispatch && h.cur.i == 0) = true ∧ (s.firstOf 0).map (·.key) = some l.key ∧ l.key ∈ s.family l.key ∧ l.places = []) ∧
    (let q := { copy 8 with phase := 1 }
     let e : Nat × Core := (0, { run with chans := [(0, { cmds := [q] })] })
     let l : Launch := { lch 3 0 0x1000 0 0 .ready with places := [e] }
     l.places = [e] ∧ e.2.allCmds = [q] ∧ q.phase < 2) ∧
    (let l := lch 3 2 0x1000 0 0 .running
     let m : Launch := { lch 4 2 0x1000 0 0 .ready with parent := some 3 }
     let s : State := { State.reset with launches := [l, m] }
     s.launch l.key = some l ∧ s.family l.key = [l.key, m.key] ∧ m.key ≠ l.key ∧ s.launch m.key = some m ∧ m.st = .ready) ∧
    (let l := lch 3 0 0x1000 0 0 .ending
     let s : State := { State.reset with launches := [l] }
     s.launch l.key = some l ∧ s.family l.key = [l.key] ∧ l.cores = [] ∧ l.hashed = false ∧ l.places = [] ∧ (∀ r ∈ s.reds, r.launch ≠ some l.key) ∧ ∀ r ∈ s.colls, r.launch ≠ some l.key) ∧
    (let s := on { run with wmStop := 0x8B, wmCount := 65537, launch := some 3 }
     s.me.wmStop = 0x8B ∧ s.me.launch ≠ none ∧ getF (s.rw (ppage s.me.part 0x1808)) 32 21 < s.me.wmCount) ∧
    ((State.reset.core 127).chans = [] ∧ (∀ r ∈ State.reset.reds, r.core ≠ 127) ∧ ∀ r ∈ State.reset.colls, r.core ≠ 127) := by decide +kernel

/-- A core that is asked to stop at a bundle with WAY, which its image does not list, and which cannot be looked up; a launch with a save area. -/
theorem witness_LaunchesStop_waymarks :
    ∀ e ∈ [((0x1000 : Nat), true), (0x1001, false)],
      let l := lch 3 0 (BitVec.ofNat 64 e.1) 0 0x10000 .running
      let s : State := { (imaged.ww (rpage 0x8008) 1).setCore 0 { run with launch := some 3, wmStop := 0xA7 } with launches := [l] }
      s.cur.core < nCores ∧ s.me.wmStop ≠ 0 ∧ s.me.run = .running ∧ s.me.handler = false ∧ bitN (s.me.rsr 0x198).toNat 2 = false ∧ s.launchOf s.cur.core = some l ∧
      l.save ≠ 0 ∧ s.me.wmStop < 256 ∧ (match (s.liveAt l (l.imageOf s.cur.core) s.cur.core s.me.pc).1 with | .ok none => true | _ => false) = e.2 := by decide +kernel

/-- A core that a save holds, one that is quiet, one whose copy is not at a boundary, and in-place. -/
theorem witness_TheSaveEngine :
    (on { run := .saving 2 0 }).me.run = .saving 2 0 ∧
    (let s := on { run := .saving 1 0, chans := [(0, { cmds := [{ copy 8 with phase := 1, progress := 1 }] })] }
     s.me.run = .saving 1 0 ∧ s.me.quiet = false) ∧
    (let s := on { run := .saving 1 0 }
     s.me.quiet = true ∧ s.me.launch = none ∧ getF (s.rw (stopLog (some s.me.part))) 3 45 = 0 ∧ getF (s.rw (stopLog none)) 3 45 = 0) ∧
    (on { run := .saving 1 2 }).me.run = .saving 1 2 ∧ (on { run := .saving 1 2 }).me.part = State.reset.cur.i := by decide +kernel

/-- A save area at 16 MiB whose parts are 8 MiB long; memories that can be read and that cannot. -/
theorem witness_TheSaveEngine_made :
    let s : State := { (owned.wwF (rpage 0x8018) 0 1 0).setCore 0 { run := .saving 1 0, launch := some 3 } with
      mem := [(0x1000002, 0x80)], launches := [lch 3 0 0x1000 0 0x1000000 .running] }
    let t := (s.saveArea 0).2
    let w : Area := .phys 0 0
    s.me.quiet = true ∧ s.me.part = 0 ∧ (s.saveArea 0).1.toOption = some (some 0x1000000) ∧
    ((t.loadArea w 0x1000000 8).1.toOption.map fun m => decide (0x790000 + s.me.recordBlob.1 ≤ numAt m 0 8)) = some true ∧
    ((t.loadArea w 0x1000000 8).2.saveTo 0 1 w 0x1000000 fullArrays (s.fullParts 0)).1 = none ∧
    (let u := (s.storeArea w 0x1000008 ((s.areaHead 0 1 (s.core 0).recordBlob).commit false))
     u.1 = none ∧ (u.2.readSaved 0 fullArrays).1 = true ∧
     (({ u.2 with strikes := [{ wall := 0, core := 0, arr := 0, word := 0, double := true }] } : State).readSaved 0 fullArrays).1 = false) := by decide +kernel

/-- CTX.RESTORE of an area that cannot be read, of one that no core was saved in, of one without a commit, of one of core 5, which is stopped, there and on a free core. -/
theorem witness_TheSaveEngine_restore :
    let v : Word := 0x01000005
    let s : State := { ((owned.wwF (rpage 0x8018) 0 1 0).ww (rpage 0x8008) 0x40).setCore 5 { run := .saved 1, launch := some 3, savedAt := 0x1000000 } with
      mem := [(0x1000008, 1), (0x1000050, 5)], launches := [lch 3 0 0x1000 0 0x1000000 .running] }
    getF v 16 32 * 65536 = 0x1000000 ∧ getF v 0 7 = 5 ∧ getF (0x01000006 : Word) 0 7 ≠ 5 ∧
    ((State.reset.wwF (rpage 0x8018) 0 1 0).loadArea (.phys 0 0xFF) 0x1000000 0x60).1.toOption.isNone = true ∧
    (({ s with mem := [] } : State).loadArea (.phys 0 0xFF) 0x1000000 0x60).1.toOption.map (fun h => bitN (numAt h 8 1) 0) = some false ∧
    (s.loadArea (.phys 0 0xFF) 0x1000000 0x60).1.toOption.map (fun h => (bitN (numAt h 8 1) 0, numAt h 0x50 1 % 128)) = some (true, 5) ∧
    (let u := (s.loadArea (.phys 0 0xFF) 0x1000000 0x60).2
     u.savedIn 0 0x1000000 9 = some 5 ∧ u.savedIn 0 0x2000000 9 = none ∧ (u.launchOf 5).isSome = true ∧ (u.core 6).run = .free ∧ (u.coresOf 0).contains 6 = true ∧
     u.quarantined 6 = false) ∧
    (s.core 5).savedAt = 0x1000000 ∧ (s.core 4).savedAt ≠ 0x1000000 := by decide +kernel

theorem witness_TheSaveEngine_savedAt : ∀ d, d ≠ 5 → ((State.reset.setCore 5 { run := .saved 1, savedAt := 0x1000000 }).core d).savedAt ≠ 0x1000000 := by
  intro d h
  have hc : (State.reset.setCore 5 { run := .saved 1, savedAt := 0x1000000 }).core d = Sparse.get {} [(5, { run := .saved 1, savedAt := 0x1000000 })] d := rfl
  rw [hc, Sparse.get, if_neg h]
  exact (by decide : (0 : Nat) ≠ 0x1000000)

/-- An area that a core can go on from, one whose record section is too short for its records, and one with a record that faulted. -/
theorem witness_TheSaveEngine_areas :
    let s : State := { owned.wwF (rpage 0x8018) 0 1 0 with mem := [(0x1000008, 1)] }
    let w : Area := .phys 0 0
    (0 : Nat) < nCores ∧ (match (s.readArea w 0x1000000 0x790000 0xFFFFFFFF).1 with | .ok e => e.2.length == 0 | _ => false) = true ∧
    ((s.loadList w 0x1000000 fullReads).1.toOption.map (·.length)) = some 11 ∧ (s.storeArea w 0x1000008 (numBlob 8 0)).1 = none ∧
    (match (({ s with mem := [(0x1000038, 1)] } : State).readArea w 0x1000000 0x790000 0xFFFFFFFF).1 with | .error (.bad _) => true | _ => false) = true := by decide +kernel

theorem witness_TheSaveEngine_reissue :
    let o : Op := { id := 0, act := some (.addi 5 0 1), land := 4, ws := [1], dest := 0x105 }
    let l (sp : Space) : Op := { id := 0, act := some (.ldd (ma sp)), land := 4, va := 0x100 }
    (0 : Nat) < nCores ∧ bitN ((on run).core 0 |>.rsr 0x198).toNat 4 = false ∧ ((on run).core 0).pipe = [] ∧ ((on { run with pipe := [o] }).core 0).pipe = [o] ∧
    (Instr.addi 5 0 1).kind ≠ some .mx ∧ (Instr.addi 5 0 1).kind ≠ some .sc ∧ (Instr.addi 5 0 1).kind ≠ some .mem ∧ Instr.addi 5 0 1 ≠ .gsend ∧ (on run).strikes = [] ∧
    (∀ sp ∈ [Space.glb, .spm], (memForm (.ldd (ma sp))).map (fun f => (f.acc == .load, f.sp == sp, (on run).accessCheck 0 (.ldd (ma sp)) f (BitVec.ofNat 64 (l sp).va) [])) = some (true, true, none)) ∧
    (∀ e ∈ ([] : Sparse Byte), e.1 < 0x10000) := by decide +kernel

/-- An ending launch with a command in flight, over, and of a parent; one that never started, one whose confirmation has come, one whose has not, and one that is to wait
for it; one that runs with its core at work, and one whose cores have ended with a command left. -/
theorem witness_LaunchesComplete :
    (∀ e ∈ [([({ cmds := [copy 8] } : Channel)], none, false), ([], none, true), ([], some 9, true)],
      let l : Launch := { lch 0 0 0x1000 0 0 .ending with cores := [0], parent := e.2.1 }
      let s : State := { on { run := .ended, launch := some 0, chans := e.1.map fun c => (0, c) } with launches := [l] }
      s.launch s.cur.i = some l ∧ l.st = .ending ∧ l.hashed = false ∧ s.cmdsOver l = e.2.2 ∧ l.parent = e.2.1 ∧ l.pages = []) ∧
    (∀ e ∈ [((none : Option Nat), (0 : Nat)), (none, 5), (some 0, 5), (some 1, 5)],
      let l : Launch := { lch 0 0 0x1000 0 0 .ending with confirm := e.1, start := e.2 }
      let s : State := { State.reset with launches := [l] }
      s.launch s.cur.i = some l ∧ l.st = .ending ∧ l.hashed = false ∧ s.cmdsOver l = true ∧ l.confirm = e.1 ∧ l.start = e.2) ∧
    (let l : Launch := { lch 0 0 0x1000 0 0 .running with cores := [0] }
     let s : State := { on { run with launch := some 0 } with launches := [l] }
     s.launch s.cur.i = some l ∧ l.st = .running ∧ s.launchOver l = false) ∧
    (let l : Launch := { lch 0 0 0x1000 0 0 .running with cores := [0] }
     let s : State := { on { run := .ended, launch := some 0, chans := [(0, { cmds := [copy 8] })] } with launches := [l] }
     let l' : Launch := { l with st := .ending, status := if l.unmade then 5 else 0 }
     s.launch s.cur.i = some l ∧ l.st = .running ∧ s.launchOver l = true ∧ l.kind ≠ 2 ∧ (∀ c ∈ l.cores, (s.core c).run = .ended) ∧
     (s.modLaunch l.key fun _ => l').cmdsOver l' = false) := by decide +kernel

/-- A tile that passes, its core's group open; one that fails, and one of a launch that is cancelled. -/
theorem witness_LaunchesComplete_tiles :
    let s : State := (guarded true 0 0).modCore 0 fun k => { k with groups := [{ st := 1 }, {}, {}, {}] }
    let l := (s.launch 7).getD (lch 7 2 0 0 0 .running)
    let t := l.tiles.getD 0 { n := 9, cores := [], rcores := [] }
    s.launch l.key = some l ∧ l.parent = none ∧ t.cores ++ t.rcores = [0] ∧ ((s.core 0).groups.getD 0 {}).st = 1 ∧ ((s.core 0).groups.getD 0 {}).spilt = false ∧
    t.got = true ∧ (f32 t.r).isNan = false ∧ withinTol t.r ((s.rp l.part (0x168 + l.rtol)).setWidth 32) = true ∧ ({ t with got := false } : Tile).got = false ∧
    l.stopReq ≠ 0x8B ∧ ({ l with stopReq := 0x8B } : Launch).stopReq = 0x8B ∧ s.cmdsDone 0 = true ∧
    (∀ c ∈ [0, 127], c < nCores) ∧ ({ l with parent := some 7 } : Launch).parent.getD 9 = l.key := by decide +kernel

/-- A completion queue that can and that cannot be written; a tile of a launch; a pool with a partition that waits for it, one whose turn has ended, and one without. -/
theorem witness_LaunchesComplete_records :
    (∀ e ∈ [((0x1000 : Nat), true), (0x100000000, false)],
      let s : State := (owned.wwF (rpage 0x8018) 0 1 0).ww (lqCq 0 0) (BitVec.ofNat 64 e.1)
      let s₁ : State := { s with cqCount := Sparse.set 0 s.cqCount 0 1 }
      (s₁.agentWrite (some 0) (getF (s.rw (lqCq 0 0)) 5 43 * 32 + 32 * (0 % 2 ^ getF (s.rw (lqCq 0 0)) 48 4)) (List.replicate 32 1)).1 = e.2) ∧
    (let s := guarded true 0 0
     (s.launches.find? fun l => l.key == 7).map (fun l => (l.tiles.find? (fun t => t.n == 2)).isSome) = some true) ∧
    State.reset.nextHolder = none ∧ State.reset.poolNext = none ∧ ({ State.reset with poolNext := some 1 } : State).poolNext = some 1 ∧
    (let l : Launch := { lch 0 0 0x1000 0 0 .ready with part := 15 }
     let s : State := { State.reset.ww (rpage 0x83C0) 3 with launches := [l] }
     s.nextHolder = some 15 ∧ s.poolNext = none ∧ (s.poolHeld = false ∨ s.active s.poolHolder = false)) ∧
    (let l : Launch := { lch 0 0 0x1000 0 0 .ready with part := 15 }
     let s : State := { (State.reset.ww (rpage 0x8000) 0x1C3).ww (rpage 0x83C0) 3 with launches := [l, lch 1 0 0x1000 0 0 .running] }
     s.nextHolder = some 15 ∧ s.poolNext = none ∧ s.poolHeld = true ∧ s.active s.poolHolder = true) ∧
    (let l : Launch := { lch 0 0 0x1000 0 0 .ending with hashed := true, pages := [3] }
     ({ State.reset with launches := [l] } : State).launch 0 = some l) := by decide +kernel

/-- A register above and at the level of a write; a Rootlink register; partitions that are clean and not; the pool. -/
theorem witness_RegisterWritesOfTheWindow :
    (∃ r w, winReg (rpage 0xC000) = some r ∧ r.wr = some w ∧ Level.reaches .user w = false ∧ Level.reaches .root w = true) ∧ (rootReg 0xB008).isSome = true ∧ (0xB008 : Nat) ≠ 0xB000 ∧
    (10 : Nat) < 16 ∧ State.reset.clean 15 = true ∧ (on { run with part := 0 }).clean 0 = false ∧ getF ((on run).rw (rpage 0x8000)) 0 2 ≠ getF (0 : Word) 0 2 ∧
    (let old := State.reset.rw (rpage 0x8000)
     let new := (old &&& ~~~(0xFF : Word)) ||| (0xC1 &&& 0xFF)
     getF old 0 2 = getF (0xC1 : Word) 0 2 ∧ State.reset.fnUnique = true ∧ ∀ q, q < 16 → q ≠ 0 → ¬ (State.reset.partEN q = true ∧ bitN new.toNat 0 = true ∧ State.reset.partFN q = getF new 2 4)) ∧
    (let u := State.reset.ww (rpage (0x8008 + 64 * 15 + 8)) 7
     State.reset.clean 15 = true ∧ u.disjoint = true ∧ u.fnUnique = true ∧ u.rootOk = true) ∧
    (∀ p, p < 16 → State.reset.partEN p = true → State.reset.partSliced p = true → State.reset.clean p = true) ∧ (State.reset.ww (rpage 0x9810) 1).disjoint = true ∧
    ((State.reset.ww (rpage 0x8008) 1).ww (rpage 0x9810) 1).disjoint = false ∧ (∀ c, c < 128 → (State.reset.core c).fullStopped = false) ∧ (127 : Nat) < nCores := by
  refine ⟨⟨_, _, rfl, rfl, by decide, by decide⟩, by decide +kernel⟩

/-- A log that is set up in the partition's block, with its entry, an entry that cannot be stored, and its counter; message types at the edges of those that may be posted. -/
theorem witness_LogsAndMessages :
    getF (State.reset.rw (rpage 0xA000)) 3 45 * 8 = 0 ∧
    (let s : State := owned.ww (rpage 0xA000) 0x10000
     let data : List Byte := (List.replicate 4 (1 : Word)).flatMap fun w => bytesLE 8 w.toNat
     let r := s.logStore none (rpage 0xA000) 0x10008 data
     let s₁ : State := { r.2 with logCount := Sparse.set 0 r.2.logCount (rpage 0xA000) 1 }
     getF (s.rw (rpage 0xA000)) 3 45 * 8 ≠ 0 ∧ r.1.isNone = true ∧ (s₁.logAt none (rpage 0xA000) { r := true, w := true } 0x10000).toOption = some 0x10000 ∧
     ((s₁.logMeet none (rpage 0xA000) 0x10000 0x10000 0).ringAddMain false 0x10000 1 6 0xFF).isSome = true ∧ 0 < data.length ∧ 0x10008 % 65536 + data.length ≤ 65536 ∧
     (s.logAt none (rpage 0xA000) { w := true } 0x10008).toOption = some 0x10008 ∧ ((s.logMeet none (rpage 0xA000) 0x10008 0x10008 data.length).putParts false 0x10008 data).1 = none) ∧
    (let s : State := State.reset.ww (rpage 0xA000) (2 ^ 42)
     (s.logStore none (rpage 0xA000) (2 ^ 42 + 8) (List.replicate 32 1)).1.isSome = true) ∧
    (∀ t ∈ [(1 : Nat), 4, 64], (1 ≤ t ∧ t ≤ 4) ∨ 64 ≤ t) ∧ (∀ t ∈ [(0 : Nat), 5, 63], ¬ ((1 ≤ t ∧ t ≤ 4) ∨ 64 ≤ t)) ∧ State.reset.cur.i < 16 := by decide +kernel

/-- A way unit that is free, owned by partition 0 and given to partition 1, one that drains, a clearing unit that drains, and one that is scrubbed; a line to write back. -/
theorem witness_WaysAndBlocksChangeHands_ways :
    (1535 : Nat) < 1536 ∧ WuCtl.use 0 = false ∧ WuCtl.state 0 = 0 ∧ Sparse.get none State.reset.wuNext 1535 = none ∧ WuCtl.state (0x1010 : Word) = 1 ∧ WuCtl.use (0x1010 : Word) = false ∧
    WuCtl.state (0x2010 : Word) = 2 ∧ WuCtl.use (0x2010 : Word) = false ∧
    (let w : Word := setF (((0x1010 : Word) &&& ~~~(0x3F : Word)) ||| ((0x11 : Word) &&& 0x3F)) 14 1 0
     WuCtl.use w = false ∧ WuCtl.owner w ≠ WuCtl.owner (0x1010 : Word)) ∧ WuCtl.use (0x2030 : Word) = true ∧ WuCtl.state (0x2030 : Word) = 2 ∧ WuCtl.state (0x3030 : Word) = 3 ∧
    (let s := State.reset.ww (rpage 0) 0x2010
     s.cur.i < 1536 ∧ WuCtl.state (s.wu s.cur.i) = 2 ∧ s.linesIn s.cur.i = []) ∧
    (let l : L2Line := { wu := 0, line := 3, tag := 0, part := 0, stream := false, dirty := true, data := [(1, 7)] }
     let s : State := { State.reset.ww (rpage 0) 0x2010 with l2 := [l], drainPass := [(0, 1)] }
     WuCtl.state (s.wu s.cur.i) = 2 ∧ s.linesIn s.cur.i = [l] ∧ Sparse.get 0 s.drainPass s.cur.i = 1 ∧ l.dirty = true ∧ (s.l2.map (·.line)).Nodup) := by decide +kernel

/-- A block that is free, owned and given up, scrubbed; a block's scrub; an epoch that is over; a function that is bound and one that is not; a reset of the device under way. -/
theorem witness_WaysAndBlocksChangeHands_blocks :
    (767 : Nat) < 768 ∧ getF (0 : Word) 8 2 = 0 ∧ State.reset.populated 767 = true ∧ getF (0x110 : Word) 8 2 = 1 ∧ bitN (0 : Word).toNat 4 = false ∧ bitN (0 : Word).toNat 5 = false ∧ getF (0x210 : Word) 8 2 = 2 ∧
    (State.reset.scrubs.find? (fun x => x.blk == State.reset.cur.i) = none) ∧
    (let x : Scrub := { blk := 0, keep := false, due := 5 }
     let s : State := { State.reset with scrubs := [x] }
     s.cur.i < 768 ∧ s.scrubs.find? (fun x => x.blk == s.cur.i) = some x ∧ x.keep = false ∧ bitN (s.rw (rpage 0x6000)).toNat 4 = false) ∧
    (let s : State := { State.reset with time := 1000000 }
     s.cur.i = 0 ∧ Sparse.get 0 s.hotStart 0 + max 1 (getF (s.rp 0 0x086) 32 16) * 1000 ≤ s.time.toNat) ∧
    State.reset.function 0 15 = none ∧ (State.reset.function 0 0) = some 0 ∧ State.reset.resetting = false ∧ ({ State.reset with boot := some (9, true) } : State).resetting = true := by decide +kernel

/-- A reset of partition 0 that waits for a command and one that goes on; the partition's block; a reset whose scrub is over. -/
theorem witness_WaysAndBlocksChangeHands_resets :
    State.reset.fnKill = [] ∧
    (let s (k : Core) : State := { owned.setCore 0 k with fnKill := [0] }
     (s {}).fnKill = [0] ∧ (s { run with chans := [(0, { cmds := [copy 8] })] }).partQuiet 0 = false ∧ (s {}).partQuiet 0 = true ∧ ((s {}).endLaunches 0).fnKill = [0] ∧
     ((s {}).endLaunches 0).owns 0 0 = true) ∧
    (let s : State := { owned with fnReset := [0], scrubs := [{ blk := 5, keep := true, due := 9 }] }
     s.fnReset = [0] ∧ ∀ x ∈ s.scrubs, x.keep = true → s.owns 0 x.blk = false) := by decide +kernel

/-- A core whose stages are checked, with nothing in flight, in its first replay cycle, and with a read of the time base at its landing; windows, limits and periods at their
ends; a count that is over its limit; a trace that is on. -/
theorem witness_MarginAndWatchdogs :
    (on {}).me.checked = false ∧ (on run).me.checked = true ∧ (on run).me.mretry = none ∧ (on run).me.pipe = [] ∧ (on run).me.replay ≠ 2 ∧
    (let s := on { run with replay := 2 }
     s.me.checked = true ∧ s.me.mretry = none ∧ s.me.pipe = [] ∧ s.me.replay = 2) ∧
    (let o : Op := { id := 0, act := some (.srrd 5 0x001), slot := 1, land := 2 }
     let s := on { run with sched := 2, pipe := [o] }
     s.me.checked = true ∧ s.me.mretry = none ∧ s.me.replay = 0 ∧ s.me.freeze = 0 ∧ s.me.pipe = [o] ∧ o.due s.me.sched = true ∧ s.ready o = true ∧ o.nonReplay = some .sa ∧
     getF (s.rw (relLog (some s.me.part))) 3 45 = 0) ∧
    (let w := max 1 (getF (State.reset.rw (rpage 0x9400)) 16 16) * 1000
     (on run).me.replayStart + w ≤ ({ on run with time := BitVec.ofNat 64 w } : State).time.toNat ∧ (on run).time.toNat < (on run).me.replayStart + w) ∧
    (let s := on { run with escal := 1 }
     s.escalates 0 = true ∧ s.subs = [] ∧ getF (s.rw (relLog (some s.me.part))) 3 45 = 0 ∧ getF (s.rw (relLog none)) 3 45 = 0 ∧ s.me.run = .running) ∧
    (∀ k ∈ [run, { run with run := .ended, pipe := [{ id := 0, act := none, land := 9 }] }], let s : State := { (on k).ww (rpage 0x8020) 1 with time := 1001 }
     s.barks 0 = true ∧ s.subs = []) ∧
    (let s := on { run with sr := [(0x198, 0x100)] }
     s.me.run = .running ∧ s.me.trcDue ≤ s.wall ∧ 1024 * getF (s.me.rsr 0x198) 8 24 ≠ 0 ∧ bitN (s.me.rsr 0x198).toNat 0 = false) := by decide +kernel

/-- A trace that is on, with place for a record and without; a record whose buffer faults. -/
theorem witness_MarginAndWatchdogs_trace :
    let q : TraceRec := { ws := [1, 2, 3, 4], level := .root, root := 0, tag := 0 }
    (∀ n ∈ [63, 64], let s := on { run with sr := [(0x198, 0x101)], trcQ := List.replicate n q }
     bitN (s.me.rsr 0x198).toNat (1 - 1) = true ∧ (s.me.trcQ.length < 64 ↔ n = 63) ∧ (64 ≤ s.me.trcQ.length ↔ n = 64)) ∧ q.ws.length = 4 ∧
    (let s : State := placed.setCore 0 { run with level := .root, sr := [(0x198, 0x101), (0x199, 0x10000)] }
     (s.traceOpen { s.ctx 0 with level := q.level, root := q.root, tag := q.tag } (2 ^ 55) [2 ^ 55 + 8]).1 = false) := by decide +kernel

/-- A trace record of root's. -/
def traced : TraceRec := { ws := [1, 2, 3, 4], level := .root, root := 0, tag := 0 }

/-- The one translation that the record traceNeeds. -/
def tracePage : TlbEntry :=
  { core := 0, cache := 0, s1 := false, part := 0, asid := 0, glob := false, s2 := 0, va := 65536, size := 65536, pa := 65536, gpa := 65536
    r := true, w := true, x := true, u := true, ms := false, ca := 0 }

/-- The core that has a buffer for that record, once its page is translated and n free values are taken. -/
def tracing (n : Nat) : State :=
  { placed.setCore 0 { run with level := .root, sr := [(0x198, 0x101), (0x199, 0x10000)] } with freeCtr := n, tlb := [tracePage] }

/-- The record's issuing context there. -/
def tracer (n : Nat) : Ctx := { (tracing n).ctx 0 with level := .root, root := 0, tag := 0 }

/-- The counter of the buffer and its four words, with the permissions they need. -/
def traceNeeds : List (Need × Nat) := [({ r := true, w := true }, 0x10000), ({ w := true }, 0x10008), ({ w := true }, 0x10010), ({ w := true }, 0x10018), ({ w := true }, 0x10020)]

/-- Neither the free values taken nor the core change a walk. -/
theorem tracing_walk (n : Nat) (a : Nat) : fullWalk (tracing n) (tracer 0) false a = fullWalk (tracing 0) (tracer 0) false a := by
  have h1 : stage2Walk (tracing n) = stage2Walk (tracing 0) := rfl
  have h2 : entryOf (tracing n) = entryOf (tracing 0) := rfl
  have h3 : stage1Read (tracing n) = stage1Read (tracing 0) := rfl
  unfold fullWalk
  rw [h1, h2, h3]
  rfl

/-- Each of those places has the one translation. -/
theorem tracing_hits (n : Nat) (need : Need) (a : Nat) (h : (need, a) ∈ traceNeeds) : tlbHits (tracing n) (tracer 0) need a = [tracePage] := by
  have h0 : tlbHits (tracing n) (tracer 0) need a = tlbHits (tracing 0) (tracer 0) need a := rfl
  have h1 : ∀ e ∈ traceNeeds, tlbHits (tracing 0) (tracer 0) e.1 e.2 = [tracePage] := by decide +kernel
  exact h0.trans (h1 (need, a) h)

/-- The walk of each of those places answers that translation again, with no table read. -/
theorem tracing_walked : ∀ e ∈ traceNeeds, ((fullWalk (tracing 0) (tracer 0) false e.2).2.isEmpty && (match (fullWalk (tracing 0) (tracer 0) false e.2).1 with
      | .ok (l1, l2, x) => (denied e.1 .root l1 l2).isNone && { x with core := 0, cache := 0 } == tracePage | .error _ => false)) = true := by decide +kernel

/-- Whatever a free value picks there, the answer is that translation. -/
theorem tracing_xlate (n : Nat) (need : Need) (a : Nat) (h : (need, a) ∈ traceNeeds) :
    (tracing n).xlate (tracer 0) need a = (.ok (tracePage), tracing (n + 1)) := by
  have hk : Config.freePick n % 2 = 0 ∨ Config.freePick n % 2 = 1 := by omega
  have r0 : ¬ 2 ^ 55 ≤ a := (by decide : ∀ e ∈ traceNeeds, ¬ 2 ^ 55 ≤ e.2) (need, a) h
  have hm : (tracing n).merged = [] := rfl
  have hw := tracing_walked (need, a) h
  have f0 : (tracing n).freeCtr = n := rfl
  have f1 : (tracing n).tickFree = tracing (n + 1) := rfl
  have c0 : (tracePage).cache = (tracer 0).cache := rfl
  have m1 : missWalk (tracing (n + 1)) (tracer 0) a = (fullWalk (tracing 0) (tracer 0) false a, tracing (n + 1)) := by
    rw [← tracing_walk (n + 1)]; rfl
  revert hw
  simp only [State.xlate, if_neg r0, hm, List.find?_nil, tlbLook, tracing_hits n need a h, List.isEmpty_cons, State.pick, f0, f1, List.length_singleton, Bool.false_eq_true, if_false]
  rcases hk with hk | hk
  · simp [hk, c0]
  · simp only [hk, List.getElem?_cons_succ, List.getElem?_nil, m1]
    rcases fullWalk (tracing 0) (tracer 0) false a with ⟨_ | ⟨l1, l2, x⟩, ys⟩
    · simp
    · intro hw
      simp only [Bool.and_eq_true, List.isEmpty_iff, beq_iff_eq, Option.isNone_iff_eq_none] at hw
      obtain ⟨rfl, hd, hx⟩ := hw
      have hd : denied need (tracer 0).level l1 l2 = none := hd
      have ht : (tracing (n + 1)).tlb.contains (tracePage) = true := (by decide +kernel : (tracing 0).tlb.contains (tracePage) = true)
      have hs : x.s1 = false := (congrArg TlbEntry.s1 hx).trans (rfl : (tracePage).s1 = false)
      have he : (tracing (n + 1)).enter (tracePage) = tracing (n + 1) := by rw [State.enter, if_pos ht]
      have hy : ({ x with core := (tracer 0).core, cache := 0 } : TlbEntry) = tracePage := hx
      rw [hs] at hy
      have c1 : (tracer 0).cache = 0 := rfl
      simp only [List.isEmpty_nil, if_true, State.walkAnswer, hd, hs, Bool.false_eq_true, if_false, c1]
      rw [hy, he]
      rfl

/-- Each of those places is in device memory. -/
theorem tracing_route (n : Nat) (need : Need) (a : Nat) (h : (need, a) ∈ traceNeeds) :
    (tracing n).route (tracer 0) need a = (.ok (.main 0 false, a, a), tracing (n + 1)) := by
  have hm : ∀ e ∈ traceNeeds, (tracePage).out e.2 = e.2 ∧ inWindow e.2 = false ∧ inHost e.2 = false ∧ inFabric e.2 = false := by decide +kernel
  obtain ⟨h1, h2, h3, h4⟩ := hm (need, a) h
  simp only [State.route, tracing_xlate n need a h, h1, State.homeOf, h2, h3, h4, Bool.false_eq_true, if_false]
  have hp : (tracePage).gpa + a % (tracePage).size = a := (by decide +kernel : ∀ e ∈ traceNeeds, (tracePage).gpa + e.2 % (tracePage).size = e.2) (need, a) h
  rw [hp]
  rfl

/-- The buffer takes a record: every word and the counter have their places. -/
theorem witness_MarginAndWatchdogs_taken :
    traced.ws.length = 4 ∧ (tracing 0).traceOpen (tracer 0) 0x10000 [0x10008, 0x10010, 0x10018, 0x10020] = (true, tracing 5) := by
  let f (st : Bool × State) (a : Nat) : Bool × State := if !st.1 then st else let (r, s) := st.2.route (tracer 0) { w := true } a; (r.toOption.isSome, s)
  have one (n : Nat) (a : Nat) (h : (({ w := true } : Need), a) ∈ traceNeeds) : f (true, tracing n) a = (true, tracing (n + 1)) := by
    simp only [f, tracing_route n _ a h]; rfl
  have run (l : List Nat) : ∀ n, (∀ a ∈ l, (({ w := true } : Need), a) ∈ traceNeeds) → l.foldl f (true, tracing n) = (true, tracing (n + l.length)) := by
    induction l with
    | nil => intro n _; rfl
    | cons a l ih =>
      intro n h
      rw [List.foldl_cons, one n a (h a (by simp)), ih (n + 1) fun b hb => h b (List.mem_cons_of_mem _ hb)]
      simp [Nat.add_comm, Nat.add_left_comm]
  refine ⟨rfl, ?_⟩
  simp only [State.traceOpen, tracing_route 0 _ _ (by decide : (({ r := true, w := true } : Need), 0x10000) ∈ traceNeeds)]
  exact run _ 1 (by decide)

theorem witness_HostsReachTheirFunction :
    let h : HostReq := { link := 1, fn := 0, bar := 4, off := 0x1000, tag := 9 }
    let s := owned.wwF (rpage 0x8018) 0 1 0
    h.link < 2 ∧ ({ s with perst := [1] } : State).linkUp 1 = false ∧ s.linkUp 1 = true ∧ (4096 : Nat) < 4097 ∧ (4096 : Nat) ≤ 4096 ∧ (List.replicate 513 (0 : Byte)).length = 513 ∧
    s.hostFn { h with fn := 5 } = none ∧ s.hostFn h = some 0 ∧ s.partEN 0 = true ∧ s.partFN 0 = h.fn ∧
    s.bar 0 0 0 0xFFFFF8 = .reg (ppage 0 0xFFFFF8) .root ∧ s.bar 0 0 4 0x1000 = .mem 0x1000 ∧ s.bar 0 0 4 (2 ^ 36) = .none ∧ (s.hostBytes 0 1 0x1000 4 h.u).1 = some [0, 0, 0, 0] ∧
    (s.hostBytes 0 1 (2 ^ 31) 4 h.u).1 = none ∧ winMay s 0 .root (rpage 0xC000) true = true ∧ s.answers = true ∧ (s.ww (rpage 0xC018) 2).answers = false ∧
    ({ s with boot := some (9, true) } : State).answers = false ∧ s.cur.i < 2 ∧ (s.function 1 0).isSome = true ∧ s.invs = [] ∧ s.atsUsers 1 0 0 4096 = [] ∧
    s.function 1 5 = none ∧ s.function 1 0 = some 0 ∧ ({ s with cur := { i := 1, j := 1 } } : State).cur.j = 1 ∧ s.cur.j ≠ 1 := by decide +kernel

/-- A link that the partition has, and one that it has not; a page that a response refused, and one that the link's cache holds. -/
theorem witness_HostsReachTheirFunction_pages :
    let s : State := { State.reset with refused := [(0, State.reset.partFN 0, 5)] }
    let e : AtsEntry := { link := 0, fn := State.reset.partFN 0, page := 5, out := 7 }
    5 * 4096 / 2 ^ 45 % 2 = 0 ∧ 5 * 4096 % 2 ^ 45 / 4096 = 5 ∧ bitN (s.partLinks 0) 0 = true ∧ (0, s.partFN 0, 5) ∈ s.refused ∧ s.ats = [] ∧
    bitN ((s.wwF (rpage 0x8000) 6 2 0).partLinks 0) 0 = false ∧
    ({ s with ats := [e] } : State).ats = [e] ∧ e.link = 0 ∧ e.fn = s.partFN 0 ∧ e.page = 5 := by decide +kernel

/-- The aperture: one block of partition 0; an offset in it, one past it, a misaligned atomic, and one in a block that is not populated; an 8-byte counter below, at and above
what a wait asks for; adds that do not overflow. -/
theorem witness_FarNodesAndTime :
    let s := owned.ww (rpage 0xB008) 0x400
    let f (op : FabricOp) (off : Nat) : FabricReq := { port := 15, tag := 3, off := off, op := op }
    (15 : Nat) < 16 ∧ ({ s with domains := [.ranger] } : State).live = false ∧ s.live = true ∧ s.aperture (2 ^ 31) 8 = none ∧ s.aperture (2 ^ 31 - 8) 8 = some (2 ^ 31 - 8) ∧
    ((f .rrd 4).off % farLen (f .rrd 4).op ≠ 0) ∧
    (let t : State := { State.reset.ww (rpage 0xB008) (0x400 + 767) with memCap := 0 }
     (f .rrd 8).off < t.rwF (rpage 0xB008) 10 10 * 2 ^ 31 ∧ t.rwF (rpage 0xB008) 0 10 + (f .rrd 8).off / 2 ^ 31 = 767 ∧ t.populated 767 = false ∧ blockOf (blockBase 767 + 8) = some 767) ∧
    farLen (f .rrd 8).op = 8 ∧ (f .rrd 8).off % 8 = 0 ∧
    (let r := s.readMain (s.farReq 15) 0 false 8 8 true .none
     r.1 = some (List.replicate 8 0) ∧ natLE (List.replicate 8 0) + (5 : Word).toNat < 2 ^ 64 ∧ (r.2.putMain false 8 (bytesLE 8 5)).isSome = true) ∧
    (s.readMain (s.farReq 15) 0 false 8 8 true .uncorrectable).1 = none ∧ s.cur.i < 16 ∧ s.powered = true ∧
    ({ s.ww (rpage 0xB800) 3 with wall := 3800000000 } : State).timeLost = true ∧ s.slew = 0 ∧ s.frac < 19 := by decide +kernel

/-- Reads and writes of far nodes that go through, and ones that meet a sector that fails; a far wait whose counter fails its check, has reached its target, and is parked. -/
theorem witness_FarNodesAndTime_sectors :
    let s := owned.ww (rpage 0xB008) 0x400
    (s.readSectors (s.farReq 15) (fun s a => (some (a, 0, false), s)) 8 4 .none).1 = some [0, 0, 0, 0] ∧
    (s.readSectors (s.farReq 15) (fun s a => (some (a, 0, false), s)) 8 4 .uncorrectable).1 = none ∧
    (s.writeSectors (s.farReq 15) (fun s a => (some (a, 0, false), s)) 8 [1, 2] .none).1 = true ∧
    (let w : FarWait := { port := 15, tag := 3, pa := 8, target := 1, due := none }
     (∀ m ∈ [[], [((8 : Nat), (7 : Byte))]],
       let t : State := { s with mem := m }
       let x := ({ t with farWaits := t.farWaits.filter (· != w) } : State).correct (s.farReq w.port) false w.pa 8
       x.sectorBad false (w.pa / 32) = false ∧ (x.gran false w.pa < w.target ↔ m = []) ∧ (w.target ≤ x.gran false w.pa ↔ m ≠ [])) ∧
     (let t := s.markBad false 0
      (({ t with farWaits := t.farWaits.filter (· != w) } : State).correct (s.farReq w.port) false w.pa 8).sectorBad false (w.pa / 32) = true)) := by decide +kernel

/-- A chunk of a command under way; a rank alone; a port that nothing uses. -/
theorem witness_FarNodesAndTime_port :
    (let q := { copy 8 with phase := 1 }
     let x : Chunk := { die := 0, eng := 0, core := 0, ch := 0, seq := 0, bytes := 8, due := 9, ports := [3] }
     ((copying q).core x.core).head x.ch = some q ∧ q.seq = x.seq ∧ q.phase = 1) ∧
    (let r : Coll := { key := 0, die := 0, core := 0, part := 0, level := .user, root := 0, words := [] }
     ({ State.reset with colls := [r] } : State).colls = [r]) ∧
    (let s : State := { State.reset with chunks := [{ die := 0, eng := 0, core := 0, ch := 0, seq := 0, bytes := 8, due := 9, ports := [3] }] }
     s.cur.i < 16 ∧ (∀ x ∈ s.chunks, s.cur.i ∉ x.ports) ∧ s.colls = []) ∧ ∀ c, State.reset.onPort c State.reset.cur.i = [] := by
  refine ⟨by decide +kernel, rfl, by decide +kernel, fun _ => rfl⟩

/-- The supply under 36 V and over it, with IO powered and not, and with nothing powered; no subscriber; a live part, without a measurement and with the low pin; each power-good signal. -/
theorem witness_PowerAndReset :
    State.reset.subs = [] ∧ (35999 : Nat) < 36000 ∧ (36000 : Nat) ≤ 36000 ∧ .io ∈ State.reset.domains ∧ .io ∉ ({ State.reset with domains := [.ranger] } : State).domains ∧
    ({ State.reset with domains := [] } : State).domains = [] ∧ State.reset.cur.j < 4 ∧ ({ State.reset with cur := { j := 3 } } : State).cur.j < 4 ∧
    State.reset.live = true ∧ State.reset.measLost = false ∧
    (let s : State := { State.reset.ww (rpage 0xC030) 0x1000 with wall := 1900000, throtLow := true }
     s.measLost = true ∧ s.throtLow = true ∧ bitN (s.rw (rpage 0xC030)).toNat 12 = true) := by decide +kernel

/-- A request to the Ranger from endpoint 4. -/
def ask (vendor : BitVec 16) (ver scope target : BitVec 8) (payload : List (BitVec 8)) : RangerReq :=
  { ep := 4, vendor := vendor, ver := ver, tag := 9, scope := scope, target := target, len := BitVec.ofNat 16 payload.length, payload := payload }

/-- Another vendor; a short request; a wrong version, scope and length, and an unknown code; targets that exist and do not. -/
theorem witness_TheRangerAnswers :
    (ask (Config.rangerVendor + 1) 1 0 0 []).vendor ≠ Config.rangerVendor ∧
    (let r := ask Config.rangerVendor 2 4 0 [1]
     ({ r with short := true } : RangerReq).short = true ∧ r.short = false ∧ r.vendor = Config.rangerVendor ∧ r.ver ≠ 1 ∧ r.other = none) ∧
    (let r := { ask Config.rangerVendor 1 0 0 [] with other := some 0x14 }
     r.ver = 1 ∧ r.other = some 0x14 ∧ (0x14 : BitVec 8).toNat ∉ [0x01, 0x02, 0x03, 0x10, 0x11, 0x12, 0x13]) ∧
    (let r := ask Config.rangerVendor 1 4 0 [1]
     r.ver = 1 ∧ r.other = none ∧ 3 < r.scope.toNat) ∧
    (let r := ask Config.rangerVendor 1 3 0 [1]
     r.ver = 1 ∧ r.other = none ∧ r.scope.toNat ≤ 3 ∧ r.payload.length ≠ 0) ∧
    (let r := ask Config.rangerVendor 1 0 127 []
     r.vendor = Config.rangerVendor ∧ r.ver = 1 ∧ r.other = none ∧ r.scope.toNat ≤ 3 ∧ r.payload.length = 0 ∧ r.len.toNat = 0 ∧ r.scope = 0 ∧ r.target.toNat < 128 ∧
     (r.payload.getD 0 0).toNat ≤ 1) ∧
    (let r := ask Config.rangerVendor 1 0 127 [2]
     r.payload.length = 1 ∧ r.len.toNat = 1 ∧ 1 < (r.payload.getD 0 0).toNat) ∧
    (let r := ask Config.rangerVendor 1 0 128 []
     ¬ r.target.toNat < 128 ∧ ¬ r.scope = 1 ∧ ¬ r.scope = 2 ∧ ¬ r.scope = 3) := by
  refine ⟨?_, ⟨rfl, rfl, rfl, by decide, rfl⟩, ⟨rfl, rfl, by decide⟩, ⟨rfl, rfl, by decide⟩, ⟨rfl, rfl, by decide, by decide⟩,
    ⟨rfl, rfl, rfl, by decide, rfl, by decide, rfl, by decide, by decide⟩, ⟨rfl, by decide, by decide⟩, by decide, by decide, by decide, by decide⟩
  show Config.rangerVendor + 1 ≠ Config.rangerVendor
  generalize Config.rangerVendor = x
  intro h
  bv_omega

/-- The Ranger powered and not; an endpoint that has authenticated and one that has not; recovery; a reset of the device under way; a domain that is not powered; a core that a
job has; data that can and cannot be read; cores that run, are free, save and belong to a launch. -/
theorem witness_TheRangerAnswers_states :
    .ranger ∈ State.reset.domains ∧ .ranger ∉ ({ State.reset with domains := [] } : State).domains ∧
    (4 ∉ State.reset.auth) ∧ (4 ∈ ({ State.reset with auth := [4] } : State).auth) ∧ State.reset.recovery = false ∧ (State.reset.ww (rpage 0xC018) 2).recovery = true ∧
    State.reset.resetting = false ∧ .die0 ∈ State.reset.domains ∧ .io ∈ State.reset.domains ∧ .die0 ∉ ({ State.reset with domains := [.ranger, .io] } : State).domains ∧ State.reset.jobs = [] ∧
    (let j : Job := { ep := some 4, code := 0x10, scope := 0, target := 0, cores := [0], parts := [] }
     ∃ k ∈ ({ State.reset with jobs := [j] } : State).jobs, 0 ∈ k.cores) ∧
    (State.reset.core 127).run = .free ∧ (State.reset.core 127).ext = [] ∧ (State.reset.core 127).sr = [] ∧ State.reset.launches = [] ∧ State.reset.subs = [] ∧ ((on run).core 0).run = .running ∧
    (∀ n ∈ [0, 1, 2], ((on { run := .saving 1 n }).core 0).ext = [] ∧ ((on { run := .saving 1 n }).core 0).run = .saving 1 n) ∧
    (State.reset.readData 0 0 0 0).1.toOption.isNone = true ∧ (State.reset.readData 4 0 0 127).1.toOption.isSome = true ∧
    (let l : Launch := { lch 3 0 0x1000 0 0 .running with cores := [127] }
     let s : State := { State.reset.setCore 127 { run with launch := some 3 } with launches := [l], auth := [4] }
     s.launches = [l] ∧ l.cores = [127] ∧ l.parent = none ∧ l.hashed = false ∧ l.places = [] ∧ (s.core 127).run ≠ .free ∧ (s.core 127).chans = [] ∧ s.reds = [] ∧ s.colls = [] ∧ s.jobs = []) := by
  decide +kernel

theorem witness_TheRangerAnswers_quarantine : ∀ c, (State.reset.core c).fullStopped = false := fun _ => rfl

/-- A STOP that waits for core 0, and the answer to a later question of its requester. -/
theorem witness_TheRangerAnswers_order :
    let j : Job := { ep := some 4, code := 0x10, scope := 0, target := 0, cores := [0], wait := [0], parts := [] }
    let k : Job := { ep := some 4, code := 1, tag := 7, scope := 0, target := 0, cores := [], parts := [], said := some (0, [1]) }
    let t : State := { on { run with ext := [0x8C] } with jobs := [j, k] }
    t.jobs = [j, k] ∧ j.ep = k.ep ∧ j.said = none ∧ k.said = some (0, [1]) ∧ t.jobDone j = none := by decide +kernel

/-- R419: once the STOP is over its answer goes out first. -/
theorem test_ranger_answers_in_order :
    let j : Job := { ep := some 4, code := 0x10, scope := 0, target := 0, cores := [0], wait := [0], parts := [] }
    let k : Job := { ep := some 4, code := 1, tag := 7, scope := 0, target := 0, cores := [], parts := [], said := some (0, [1]) }
    let t : State := { on run with jobs := [j, k] }
    t.settleJobs.jobs = [] ∧ t.settleJobs.out = [.ranger (rangerMsg 4 0x90 0 0 0 [0]), .ranger (rangerMsg 4 0x81 7 0 0 [0, 1])] := by
  refine ⟨by decide +kernel, rfl⟩

/-- R435: a floor that root has written counts from the next measurement. -/
theorem test_floor_counts_at_the_measurement :
    let s := ((on run).ww (rpage 0x8008) 1).ww (rpage 0xC100) 5
    let f : State := { s with floors := s.rootFloors }
    s.throttle 0 = 0 ∧ f.throttle 0 = 5 := by decide +kernel

/-- An agent of die 1; a register, an offset without one, no power, IO alone, and a log's register; MGMT.CMD idle and busy with each operation; a link that is up, with slot 0 and
another. -/
theorem witness_AgentsAndIdentity :
    (1 : Nat) < 2 ∧ State.reset.agentStatus 0xC000 = 0 ∧ State.reset.agentStatus 0xC004 ≠ 0 ∧ ({ State.reset with domains := [] } : State).agentStatus 0xC000 = 1 ∧ (0xC000 : Nat) ≠ 0xA000 ∧
    ({ State.reset with domains := [.ranger, .io] } : State).agentStatus 0x9400 = 1 ∧
    State.reset.agentStatus 0xA000 = 0 ∧ State.reset.agentStatus 0xA008 = 0 ∧ ({ State.reset with cur := { j := 0xA000 } } : State).cur.j = 0xA000 ∧
    State.reset.agentStatus 0xC028 = 0 ∧ bitN (State.reset.rw (rpage 0xC028)).toNat 12 = false ∧
    (∀ op ∈ [(1 : Nat), 2, 3, 4, 5], getF (BitVec.ofNat 64 op) 0 3 = op ∧
      (let s := State.reset.ww (rpage 0xC028) (BitVec.ofNat 64 (op + 0x1000 + 8))
       bitN (s.rw (rpage 0xC028)).toNat 12 = true ∧ getF (s.rw (rpage 0xC028)) 0 3 = op)) ∧
    targetOk 0x13 1 0 = false ∧ targetOk 0x10 3 0 = false ∧ State.reset.cur.i < 2 ∧ State.reset.linkUp State.reset.cur.i = true ∧ State.reset.recovery = false ∧
    State.reset.cur.j = 0 ∧ ({ State.reset with cur := { j := 1 } } : State).cur.j ≠ 0 ∧ (State.reset.ww (rpage 0xC018) 2).recovery = true := by decide +kernel

end Sys2Proof.Tests
end

section
/-! PROOFS. The scalar slots' results (R228 to R230): an operation with a scalar destination as it issues and as it lands, once for
all of them; then the values that the manual states against those that the model computes; then O10 and O11. -/
namespace Sys2Proof.Claims

open Sys2Proof Sys2Proof.Machine

/-! ## Updates of one core -/

theorem onlyCore_modCore (s : State) (c : Nat) (f : Core → Core) : OnlyCore s (s.modCore c f) c where
  rest := rfl
  others k hk := by simp [hk]
  mem _ := rfl

theorem onlyCore_modMe (s : State) (f : Core → Core) : OnlyCore s (s.modMe f) s.cur.core := onlyCore_modCore s _ f

theorem onlyCore_issue (s : State) (i : Instr) (n : Nat) (f : Core → Op → Op) : OnlyCore s (s.issue i n f) s.cur.core :=
  onlyCore_modMe s _

theorem OnlyCore.trans {s t u : State} {c : Nat} (hst : OnlyCore s t c) (htu : OnlyCore t u c) : OnlyCore s u c where
  rest := by rw [htu.rest, hst.rest]
  others k hk := (htu.others k hk).trans (hst.others k hk)
  mem a := (htu.mem a).trans (hst.mem a)

/-! ## Issue -/

/-- The operation that a scalar instruction of the cursor leaves: its payload words ws and its destination xd (R353). -/
def scalarOp (s : State) (i : Instr) (n : Nat) (ws : List Word) (d : BitVec 6) : Op :=
  { id := s.me.nextId, act := some i, slot := s.cur.slot, land := s.me.sched + n, addr := s.cur.addr, wit := s.cur.wit,
    root := s.me.rsr 0x082, tag := getF (s.me.rsr 0x083) 0 4, ws := ws, dest := 0x100 + d.toNat }

/-- Every scalar instruction with a destination issues in this way, and each fixes only its payload words. -/
theorem issued_scalarOp (s : State) (i : Instr) (n : Nat) (ws : Core → List Word) (d : BitVec 6) :
    Issued s (s.issue i n fun c o => { o with ws := ws c, dest := 0x100 + d.toNat }) i n s.me (scalarOp s i n (ws s.me) d) where
  only := onlyCore_issue ..
  me := by simp [Core.push, scalarOp]
  act := rfl
  id := rfl
  slot := rfl
  addr := rfl
  land := rfl

/-- A divide issues as any other operation, and takes its slot's divider (R66). -/
theorem issued_issueDiv (s : State) (i : Instr) (d a b : BitVec 6) :
    Issued s (issueDiv i d a b s) i 18 { s.me with unitEnd := Sparse.set 0 s.me.unitEnd (7 + s.cur.slot) (s.me.sched + 18) }
      (scalarOp s i 18 [s.me.rx a.toNat, s.me.rx b.toNat, 0] d) where
  only := (onlyCore_issue s i 18 _).trans (onlyCore_modMe _ _)
  me := by simp [issueDiv, issueRR, State.me, Core.push, scalarOp]
  act := rfl
  id := rfl
  slot := rfl
  addr := rfl
  land := rfl

/-! ## Landing -/

@[simp] theorem rx_dropOp (k : Core) (id n : Nat) : (k.dropOp id).rx n = k.rx n := rfl

@[simp] theorem rsr_dropOp (k : Core) (id m : Nat) : (k.dropOp id).rsr m = k.rsr m := rfl

/-- What has a scalar value stands in a scalar slot. -/
theorem kind_of_scalarVal {i : Instr} {a b c : Word} {r : Word × Nat} (h : scalarVal i a b c = some r) : i.kind = some .sa := by
  unfold scalarVal at h
  split at h
  case h_44 => cases h
  all_goals rfl

/-- An operation with a scalar value lands by Core.landScalar. -/
theorem landOp_of_scalarVal {o : Op} {i : Instr} {a b c : Word} {r : Word × Nat} (hact : o.act = some i)
    (hval : scalarVal i a b c = some r) (u : State) (k : Nat) :
    u.landOp k o = (u.dropOp k o.id).modCore k fun x => x.landScalar i o := by
  unfold State.landOp
  simp only [hact, kind_of_scalarVal hval]
  split
  case h_4 => rfl
  all_goals cases hval

theorem landScalar_of_scalarVal {o : Op} {i : Instr} {v : Word} {fl : Nat} (k : Core)
    (hval : scalarVal i (o.ws.getD 0 0) (o.ws.getD 1 0) (o.ws.getD 2 0) = some (v, fl)) :
    k.landScalar i o = (k.wxCode o.dest v).raise (slotExc o.slot) fl o.addr := by
  simp only [Core.landScalar, hval]

/-- A word written to xd and flags raised in record r: what WordWritten says of a core's registers. -/
theorem wordWritten_raise (k : Core) (id : Nat) (d : BitVec 6) (v : Word) (r fl a : Nat) :
    WordWritten d v r fl a k (((k.dropOp id).wxCode (0x100 + d.toNat) v).raise r fl a) := by
  refine ⟨?_, fun n => ?_, fun m => ?_⟩
  · simp only [Core.wxCode, Core.wx, Core.raise, Core.wsr]
    split <;> rfl
  · simp [Core.wxCode, Core.raise]
  · by_cases h : m = r <;> simp [Core.wxCode, Core.raise, h]

theorem lands_of_scalarVal {o : Op} {i : Instr} {d : BitVec 6} {v : Word} {fl : Nat} (hact : o.act = some i)
    (hdest : o.dest = 0x100 + d.toNat) (hval : scalarVal i (o.ws.getD 0 0) (o.ws.getD 1 0) (o.ws.getD 2 0) = some (v, fl)) :
    Lands o (WordWritten d v (excOfSlot o.slot) fl o.addr) := by
  intro u c
  have hcore : (u.landOp c o).core c = (((u.core c).dropOp o.id).wxCode (0x100 + d.toNat) v).raise (excOfSlot o.slot) fl o.addr := by
    simp [landOp_of_scalarVal hact hval, State.dropOp, landScalar_of_scalarVal _ hval, hdest, slotExc, excOfSlot]
  refine ⟨?_, ?_, ?_⟩
  · rw [landOp_of_scalarVal hact hval]
    exact (onlyCore_modCore ..).trans (onlyCore_modCore ..)
  · simp [hcore, Core.wxCode, Core.raise, Core.dropOp]
  · rw [hcore]
    exact wordWritten_raise ..

/-! ## One instruction from its issue to its landing -/

/-- A scalar instruction whose issue leaves the payload words ws has the result that scalarVal gives of them. -/
theorem wordResult_of_issue {s : State} {i : Instr} {n : Nat} {d : BitVec 6} {v : Word} {fl : Nat} (ws : Core → List Word)
    (hc : s.cur.core < nCores)
    (hexec : exec i s = onCore s fun s => s.issue i n fun c o => { o with ws := ws c, dest := 0x100 + d.toNat })
    (hval : scalarVal i ((ws s.me).getD 0 0) ((ws s.me).getD 1 0) ((ws s.me).getD 2 0) = some (v, fl)) :
    WordResult s i n d v fl :=
  ⟨_, _, hexec.trans (onCore_lt _ _ hc), issued_scalarOp s i n ws d, lands_of_scalarVal rfl rfl hval⟩

section
variable {s : State} {i : Instr} {n : Nat} {d a b : BitVec 6} {v : Word} {fl : Nat} (hc : s.cur.core < nCores)
include hc

theorem wordResult_of_issueRR (hexec : exec i s = onCore s (issueRR i n d a b))
    (hval : scalarVal i (s.me.rx a.toNat) (s.me.rx b.toNat) 0 = some (v, fl)) : WordResult s i n d v fl :=
  wordResult_of_issue (fun c => [c.rx a.toNat, c.rx b.toNat, 0]) hc hexec hval

theorem wordResult_of_issueRI (hexec : exec i s = onCore s (issueRI i d a))
    (hval : scalarVal i (s.me.rx a.toNat) 0 0 = some (v, fl)) : WordResult s i 1 d v fl :=
  wordResult_of_issue (fun c => [c.rx a.toNat, 0, 0]) hc hexec hval

theorem wordResult_of_issueVal {w : Word} {f : Core → Word} (hexec : exec i s = onCore s (issueVal i n d w f))
    (hval : scalarVal i w (f s.me) 0 = some (v, fl)) : WordResult s i n d v fl :=
  wordResult_of_issue (fun c => [w, f c, 0]) hc hexec hval

theorem divResult_of_issueDiv (hexec : exec i s = onCore s (issueDiv i d a b))
    (hval : scalarVal i (s.me.rx a.toNat) (s.me.rx b.toNat) 0 = some (v, fl)) : DivResult s i d v fl :=
  ⟨_, _, hexec.trans (onCore_lt _ _ hc), issued_issueDiv s i d a b, lands_of_scalarVal rfl rfl hval⟩

end

/-! ## Values: comparisons, products and immediates (R228, R230)

Where the model compares or multiplies words, the manual speaks of the integers they stand for. -/

section
variable (d a b : BitVec 6) (A B C : Word) (imm : BitVec 12)

theorem scalarVal_slt : scalarVal (.slt d a b) A B C = some (if A.toInt < B.toInt then 1 else 0, 0) := by
  simp [scalarVal, flagWord, BitVec.slt_eq_decide]

theorem scalarVal_sltu : scalarVal (.sltu d a b) A B C = some (if A.toNat < B.toNat then 1 else 0, 0) := by
  simp [scalarVal, flagWord, BitVec.ult_eq_decide]

theorem scalarVal_seq : scalarVal (.seq d a b) A B C = some (if A = B then 1 else 0, 0) := by
  simp [scalarVal, flagWord]

theorem scalarVal_min : scalarVal (.min d a b) A B C = some (if A.toInt < B.toInt then A else B, 0) := by
  simp [scalarVal, BitVec.slt_eq_decide]

theorem scalarVal_max : scalarVal (.max d a b) A B C = some (if A.toInt < B.toInt then B else A, 0) := by
  simp [scalarVal, BitVec.slt_eq_decide]

theorem scalarVal_minu : scalarVal (.minu d a b) A B C = some (if A.toNat < B.toNat then A else B, 0) := by
  simp [scalarVal, BitVec.ult_eq_decide]

theorem scalarVal_maxu : scalarVal (.maxu d a b) A B C = some (if A.toNat < B.toNat then B else A, 0) := by
  simp [scalarVal, BitVec.ult_eq_decide]

theorem scalarVal_mul : scalarVal (.mul d a b) A B C = some (BitVec.ofNat 64 (A.toNat * B.toNat), 0) := by
  simp [scalarVal, BitVec.ofNat_mul]

theorem scalarVal_popc :
    scalarVal (.popc d a) A B C = some (BitVec.ofNat 64 ((List.range 64).filter fun i => A.getLsbD i).length, 0) := by
  simp [scalarVal, popcVal, List.countP_eq_length_filter]

/-- Sign extension keeps the integer that an immediate stands for. -/
theorem scalarVal_slti : scalarVal (.slti d a imm) A B C = some (if A.toInt < imm.toInt then 1 else 0, 0) := by
  simp [scalarVal, flagWord, BitVec.slt_eq_decide, sext, BitVec.toInt_signExtend_of_le]

theorem scalarVal_sltiu :
    scalarVal (.sltiu d a imm) A B C = some (if A.toNat < (imm.signExtend 64 : Word).toNat then 1 else 0, 0) := by
  simp [scalarVal, flagWord, BitVec.ult_eq_decide, sext]

end

/-! ## Values: counts of bits (R228) -/

theorem lead_le (w : Word) (n : Nat) : lead w n ≤ n := by
  induction n with
  | zero => simp [lead]
  | succ n ih => simp only [lead]; split <;> omega

/-- The bits that lead counts are zero. -/
theorem getLsbD_of_lead_le (w : Word) (n i : Nat) (hi : n - lead w n ≤ i) (hn : i < n) : w.getLsbD i = false := by
  induction n with
  | zero => omega
  | succ n ih =>
    simp only [lead] at hi
    split at hi
    · omega
    · rename_i hbit
      by_cases h : i = n
      · simpa [h] using hbit
      · exact ih (by omega) (by omega)

/-- The bit below those that lead counts is one. -/
theorem getLsbD_lead (w : Word) (n : Nat) (hlt : lead w n < n) : w.getLsbD (n - 1 - lead w n) = true := by
  induction n with
  | zero => omega
  | succ n ih =>
    simp only [lead] at hlt ⊢
    split
    · rename_i hbit
      simpa using hbit
    · rename_i hbit
      rw [if_neg hbit] at hlt
      rw [show n + 1 - 1 - (lead w n + 1) = n - 1 - lead w n by omega]
      exact ih (by omega)

/-- The bits from 64 - n on are zero where n is the number of leading zeros, those beyond the word included. -/
theorem getLsbD_of_clz_le (w : Word) (i : Nat) (hi : 64 - lead w 64 ≤ i) : w.getLsbD i = false := by
  by_cases h : i < 64
  · exact getLsbD_of_lead_le w 64 i hi h
  · exact BitVec.getLsbD_of_ge w i (by omega)

theorem getLsbD_reverse_top (w : Word) (n : Nat) (hn : n < 64) : w.reverse.getLsbD (63 - n) = w.getLsbD n := by
  rw [BitVec.getLsbD_reverse, BitVec.getMsbD_eq_getLsbD, decide_eq_true (by omega), Bool.true_and]
  congr 1
  omega

/-- Trailing zeros are the leading zeros of the reversed word. -/
theorem getLsbD_of_lt_ctz (w : Word) (i : Nat) (hi : i < lead w.reverse 64) : w.getLsbD i = false := by
  have hle := lead_le w.reverse 64
  rw [← getLsbD_reverse_top w i (by omega)]
  exact getLsbD_of_lead_le _ 64 _ (by omega) (by omega)

theorem getLsbD_ctz (w : Word) (hlt : lead w.reverse 64 < 64) : w.getLsbD (lead w.reverse 64) = true := by
  rw [← getLsbD_reverse_top w _ hlt]
  exact getLsbD_lead _ 64 hlt

/-! ## Values: quotients and remainders (R229) -/

section
variable {A B : Word}

theorem divVal_zero (hB : B = 0) : divVal A B = (BitVec.allOnes 64, 2) := if_pos hB
theorem divuVal_zero (hB : B = 0) : divuVal A B = (BitVec.allOnes 64, 2) := if_pos hB
theorem remVal_zero (hB : B = 0) : remVal A B = (A, 2) := if_pos hB
theorem remuVal_zero (hB : B = 0) : remuVal A B = (A, 2) := if_pos hB

theorem divVal_overflow (hA : A = BitVec.intMin 64) (hB : B = BitVec.allOnes 64) : divVal A B = (BitVec.intMin 64, 32) := by
  subst hA hB
  rfl

theorem remVal_overflow (hA : A = BitVec.intMin 64) (hB : B = BitVec.allOnes 64) : remVal A B = (0, 32) := by
  subst hA hB
  rfl

/-- Away from the corners the quotient fits in 64 bits, so that the word divided toward zero is the exact quotient. -/
theorem divVal_regular (hB : B ≠ 0) (hO : ¬ (A = BitVec.intMin 64 ∧ B = BitVec.allOnes 64)) :
    divVal A B = (A.sdiv B, 0) ∧ (A.sdiv B).toInt = A.toInt.tdiv B.toInt := by
  have hne : A ≠ BitVec.intMin 64 ∨ B ≠ -1#64 := Decidable.not_and_iff_not_or_not.mp hO
  have hfit := BitVec.toInt_sdiv_of_ne_or_ne A B hne
  refine ⟨?_, hfit⟩
  rw [divVal, if_neg hB, if_neg hO, ← hfit, BitVec.ofInt_toInt]

theorem remVal_regular (hB : B ≠ 0) (hO : ¬ (A = BitVec.intMin 64 ∧ B = BitVec.allOnes 64)) :
    remVal A B = (A.srem B, 0) ∧ (A.srem B).toInt = A.toInt - B.toInt * A.toInt.tdiv B.toInt := by
  refine ⟨?_, ?_⟩
  · rw [remVal, if_neg hB, if_neg hO, ← BitVec.toInt_srem, BitVec.ofInt_toInt]
  · rw [BitVec.toInt_srem, Int.tmod_def]

theorem divuVal_regular (hB : B ≠ 0) : divuVal A B = (A / B, 0) := if_neg hB
theorem remuVal_regular (hB : B ≠ 0) : remuVal A B = (A % B, 0) := if_neg hB

end

section
variable {s : State} {d a b : BitVec 6} {v : Word} {fl : Nat} (hc : s.cur.core < nCores)
include hc

theorem divResult_div (h : divVal (s.me.rx a.toNat) (s.me.rx b.toNat) = (v, fl)) : DivResult s (.div d a b) d v fl :=
  divResult_of_issueDiv hc rfl (congrArg some h)

theorem divResult_divu (h : divuVal (s.me.rx a.toNat) (s.me.rx b.toNat) = (v, fl)) : DivResult s (.divu d a b) d v fl :=
  divResult_of_issueDiv hc rfl (congrArg some h)

theorem divResult_rem (h : remVal (s.me.rx a.toNat) (s.me.rx b.toNat) = (v, fl)) : DivResult s (.rem d a b) d v fl :=
  divResult_of_issueDiv hc rfl (congrArg some h)

theorem divResult_remu (h : remuVal (s.me.rx a.toNat) (s.me.rx b.toNat) = (v, fl)) : DivResult s (.remu d a b) d v fl :=
  divResult_of_issueDiv hc rfl (congrArg some h)

end

/-- Only the four divides raise a flag. -/
theorem flags_of_scalarVal {i : Instr} {x y z v : Word} {fl : Nat}
    (hdiv : ∀ d a b, i ≠ .div d a b ∧ i ≠ .divu d a b ∧ i ≠ .rem d a b ∧ i ≠ .remu d a b)
    (h : scalarVal i x y z = some (v, fl)) : fl = 0 := by
  unfold scalarVal at h
  split at h
  case h_20 | h_21 | h_22 | h_23 => simp at hdiv
  case h_44 => cases h
  all_goals exact (Prod.mk.inj (Option.some.inj h)).2.symm

/-! ## The obligations -/

/-- Settles O10: every instruction of R228 and R230 issues its payload words and lands their scalarVal. -/
theorem scalarResults : Obligations.ScalarResults := by
  unfold Obligations.ScalarResults
  refine ⟨fun s d a b hc => ?oneCycle, fun s d a b hc => ?products, fun s d a hc => ⟨?clz, ?ctz, ?popc⟩,
    fun s d a sh imm big hc => ?immediates⟩
  case oneCycle =>
    have result {i : Instr} {v : Word} := @wordResult_of_issueRR s i 1 d a b v 0 hc
    exact ⟨result rfl rfl, result rfl rfl, result rfl rfl, result rfl rfl, result rfl rfl, result rfl rfl, result rfl rfl,
      result rfl rfl, result rfl rfl, result rfl (scalarVal_slt ..), result rfl (scalarVal_sltu ..),
      result rfl (scalarVal_seq ..), result rfl (scalarVal_min ..), result rfl (scalarVal_max ..),
      result rfl (scalarVal_minu ..), result rfl (scalarVal_maxu ..)⟩
  case products =>
    exact ⟨wordResult_of_issueRR hc rfl (scalarVal_mul ..), wordResult_of_issueRR hc rfl rfl, wordResult_of_issueRR hc rfl rfl⟩
  case clz =>
    exact ⟨_, lead_le _ 64, getLsbD_of_clz_le _, getLsbD_lead _ 64, wordResult_of_issueRI hc rfl rfl⟩
  case ctz =>
    exact ⟨_, lead_le _ 64, getLsbD_of_lt_ctz _, getLsbD_ctz _, wordResult_of_issueRI hc rfl rfl⟩
  case popc => exact wordResult_of_issueRI hc rfl (scalarVal_popc ..)
  case immediates =>
    have result {i : Instr} {v : Word} := @wordResult_of_issueRI s i d a v 0 hc
    exact ⟨result rfl rfl, result rfl rfl, result rfl rfl, result rfl rfl, result rfl rfl, result rfl rfl, result rfl rfl,
      result rfl (scalarVal_slti ..), result rfl (scalarVal_sltiu ..), wordResult_of_issueVal hc rfl rfl,
      wordResult_of_issueVal hc rfl rfl, wordResult_of_issue (fun c => [0, 0, c.rx d.toNat]) hc rfl rfl⟩

/-- Settles O11: the four divides by the cases of R229, and the flags of every other scalar value. -/
theorem scalarDivision : Obligations.ScalarDivision := by
  unfold Obligations.ScalarDivision
  intro s d a b hc A B
  refine ⟨fun hB => ?byZero, fun hA hB => ?overflow, fun hB hO => ?signed, fun hB => ?unsigned,
    fun i x y z v fl => flags_of_scalarVal⟩
  case byZero =>
    exact ⟨divResult_div hc (divVal_zero hB), divResult_divu hc (divuVal_zero hB), divResult_rem hc (remVal_zero hB),
      divResult_remu hc (remuVal_zero hB)⟩
  case overflow =>
    exact ⟨divResult_div hc (divVal_overflow hA hB), divResult_rem hc (remVal_overflow hA hB)⟩
  case signed =>
    obtain ⟨hq, hquot⟩ := divVal_regular hB hO
    obtain ⟨hr, hrem⟩ := remVal_regular hB hO
    exact ⟨_, _, hquot, hrem, divResult_div hc hq, divResult_rem hc hr⟩
  case unsigned =>
    exact ⟨A / B, A % B, BitVec.toNat_udiv, BitVec.toNat_umod, divResult_divu hc (divuVal_regular hB),
      divResult_remu hc (remuVal_regular hB)⟩

end Sys2Proof.Claims
end
